-- ==== Sys2Proof/Word.lean ====
section
/-! DEFINITION. The widths of R5 and the scalar word type. -/

namespace Sys2Proof

/-- A byte: 8 bits (R5). -/
abbrev Byte := BitVec 8

/-- A word: 32 bits (R5). -/
abbrev Word := BitVec 32

/-- A number naming g0 to g31 (R128). -/
abbrev GReg := BitVec 5

/-- A number naming h0 to h15 (R136). -/
abbrev HReg := BitVec 4

/-- A number naming p0 to p7 (R139). -/
abbrev PReg := BitVec 3

/-- A six-bit compute field code (R139): v0 to v55, the ports 56 to 61, vzero 62. -/
abbrev VCode := BitVec 6

/-- An even register pair: register 2 x the number (R187). -/
abbrev Pair := BitVec 4

end Sys2Proof
end

