-- ==== Sys2Proof/Config.lean ====
section
/-! DEFINITION. What the spec leaves open: free values (constants with no body) and the sizes that this model fixes. -/

namespace Sys2Proof.Config

/-- The free value of draw n, as many bits as the place needs (R3; log 3). -/
opaque freeValue : Nat → Nat → Nat

/-- SHAKE256 of a byte string with n bytes of output: named by R369 and R367, not defined in the spec (log 6). -/
opaque shake256 : List Byte → Nat → List Byte

/-- Whether a Falcon-1024 signature verifies: public key, message, signature (R374; log 6). -/
opaque falconVerify : List Byte → List Byte → List Byte → Bool

/-- The Falcon-1024 signature of a message under the device's receipt key (R366; log 6). -/
opaque falconSign : List Byte → List Byte

/-- The receipt public key of a device secret in a lifecycle state (R368; log 6). -/
opaque receiptPublic : Nat → Nat → List Byte

/-- The certificate of the receipt public key of a device secret in a lifecycle state (R368, R381; log 6). -/
opaque certificate : Nat → Nat → List Byte

/-- Whether a decode table is well formed and gives no meaning to a reserved encoding (R374, R448; log 6). -/
opaque decodeTableOk : List Byte → Bool

end Sys2Proof.Config
end

