-- ==== Sys2Proof/Syntax.lean ====
section
/-! DEFINITION. The instructions and steps of spec/opcode_table.json, one constructor a row, and the data their rows carry.
The rows without an encoding are the steps of engines, scheduler, handlers, fabric, host and boot; their operands (EvArg) name what
the step acts on, in physical tile, queue or context numbers. -/

namespace Sys2Proof

/-- The three stream cores of a tile (R39). -/
inductive CoreId where
  | load | compute | store
  deriving DecidableEq, Repr

/-- Token bits and stall count of a private instruction (R132). -/
structure Tok where
  /-- TKA: take from neighbour A. -/
  tka : Bool
  /-- PTA: put to neighbour A. -/
  pta : Bool
  /-- TKB: take from neighbour B. -/
  tkb : Bool
  /-- PTB: put to neighbour B. -/
  ptb : Bool
  /-- STALL. -/
  stall : BitVec 3
  deriving DecidableEq, Repr

/-- The trap classes of R403, in class-number order. -/
inductive TrapClass where
  | opReserved | vregRange | stallCheck | tagCheck | misalign | scratchRange | stackLimit | handleForm | handlePerm | placeUnmapped
  | xlateNone | xlatePerm | xferCtl | xferShape | xferIndex | barLive | barDead | barError | lockState | lockLost
  | loopDepth | csrAccess | codeRange | codeHash | hbarScope | portCfg | ringFull | ringEmpty | ringSel | matrixShape
  | matrixIndex | epiCmd | copArg | copFail | futDouble | futState | ordBroken | placeRec | placeMember | deadlock
  | ecall | brk | queueError | nodeReject | ctxLost | ctxTorn | linkKeylow | linkKeyexh | linkFail | memError
  deriving DecidableEq, Repr

/-- What identifies one hbar or collective episode (R178, R272): the context, the launch node (its NODEID at .pod), the node's run, the
scope code, the physical unit of that scope, the stream kind and the episode number; in an hbar arrival, episode 0 stands for every
episode of the run (R179). -/
structure EpKey where
  cnum : Nat
  node : Nat
  run : Nat
  scope : Nat
  unit : Nat
  core : CoreId
  ep : Nat
  deriving DecidableEq, Repr

/-- The request and source bytes of a collective's participant in another package, as the fabric brings them (R272). -/
structure Part where
  /-- logical package and logical tile: the rank order of R272. -/
  pkg : Nat
  tile : Nat
  fn7 : Nat
  ctl : Word
  root : Word
  srcFmt : BitVec 4
  dstFmt : BitVec 4
  srcBytes : Nat
  dstBytes : Nat
  data : List Byte
  deriving DecidableEq, Repr

/-- A Mirfila packet (R383). The header's operation-specific bits [255:142] have no layout in the spec; the fields from `rop` on
are the model's reading of them (DESIGN CHOICE, log 5). -/
structure Packet where
  type : BitVec 4
  vlane : BitVec 6
  /-- source and target package, MEMBER in [4:0] and GROUP in [11:5]. -/
  src : BitVec 12
  dst : BitVec 12
  stile : BitVec 8
  score : BitVec 2
  ogrp : BitVec 3
  path : BitVec 2
  len : BitVec 9
  addr : BitVec 44
  ctx : BitVec 20
  sctx : BitVec 20
  /-- atomic code (R206), 8 for an rvat line of FP32 and 9 for one of BF16. -/
  rop : BitVec 4
  operand : Word
  compare : Word
  /-- acknowledgement: 0 applied, else the trap class number + 1 of the refusal. -/
  status : Byte
  /-- which packet of the source this is or answers. -/
  id : Nat
  /-- the sent counts an ordered or count-only flag carries, paths 0 to 3 (R124). -/
  counts : List Nat
  data : List Byte
  /-- where the bytes of a write or read request lie when they are not one run from ADDR: address and bytes of each run, in order (R202;
  DESIGN CHOICE, log 5: the header has no place for them). -/
  runs : List (Nat × Nat) := []
  /-- sent by a placement conversion, an st.place or Trestle, not a plain write (R344; the header has no place for it, log 5). -/
  pce : Bool := false
  /-- the operation-specific header bits, where the TYPE uses none of them: reserved (R383, R426). -/
  spare : Nat := 0
  deriving DecidableEq, Repr

/-- What a control packet on lane 43 brings (R384, R386, R435); its layout is not in the spec (log 5). -/
inductive Ctl where
  /-- acknowledgement of the oldest unacknowledged integrity block of a link. -/
  | blockAck (link : Nat)
  /-- another package's streams have arrived in an hbar episode at .pod (R51): source package, target and source context, episode as the
  source names it. -/
  | hbarArrive (src : BitVec 12) (ctx sctx : BitVec 20) (k : EpKey)
  /-- a participant of a collective was killed in another package (R435): `isOpen` where the sender knows that the episode is under way. -/
  | memberLost (src : BitVec 12) (ctx sctx : BitVec 20) (k : EpKey) (isOpen : Bool)
  /-- the requests and source bytes of another package's participants in a collective at .pod (R272), and the refusal of such a message
  (R459). -/
  | collParts (src : BitVec 12) (ctx sctx : BitVec 20) (k : EpKey) (parts : List Part)
  | collRefused (src : BitVec 12) (ctx sctx : BitVec 20) (k : EpKey)
  /-- a cop function aimed at another package: source package, target and source context, request number, function, arguments and what
  the request carries besides (R104, R340). -/
  | copRequest (src : BitVec 12) (ctx sctx : BitVec 20) (n fn7 : Nat) (ga gb : Word) (block : List Byte)
  /-- its answer: STATUS, reply word, the snapshot of a fut.read, and the class and address of the trap it raises (R283, R284). -/
  | copAnswer (n status : Nat) (word : Word) (snap : Nat) (cls : Option (TrapClass × Nat))
  /-- a decrement that a future sends to a node of another package; with `poison` the node is poisoned first (R104, R309). -/
  | decrement (src : BitVec 12) (ctx sctx : BitVec 20) (node : Nat) (poison : Bool)
  /-- a decrement that was refused: the context that sent it and the node (R460). -/
  | refused (ctx : BitVec 20) (node : Nat)
  /-- a member's copy of a placement record, rewritten by the home PCE; `bad` where the tensor's bytes are undefined (R340, R341). -/
  | record (src : BitVec 12) (ctx sctx : BitVec 20) (prec : Nat) (image : BitVec 512) (bad : Bool)
  /-- a member's shard bytes have become undefined (R339, R344). -/
  | spoilt (src : BitVec 12) (ctx sctx : BitVec 20) (prec : Nat)
  /-- an ld.place or st.place, or a job, asks the home of a tensor for its turn; the home lets it begin with the record as the home has it,
  or refuses the binding; the operation has ended (R342, R459). -/
  | tensorAsk (src : BitVec 12) (ctx sctx : BitVec 20) (id prec : Nat) (job : Bool)
  | tensorGo (id : Nat) (image : Option (BitVec 512))
  | tensorEnd (src : BitVec 12) (ctx sctx : BitVec 20) (id : Nat)
  /-- the home asks a member for its copy of a record, and the copy (R341); none where the binding is refused. -/
  | copyAsk (src : BitVec 12) (ctx sctx : BitVec 20) (id prec : Nat)
  | copyIs (src : BitVec 12) (id : Nat) (image : Option (BitVec 512))
  /-- the oldest unacknowledged block of a link has failed its tag at the far end (R386). -/
  | blockFail (link : Nat)
  /-- a link of another package has come into service or left it, as the fabric tells (R385). -/
  | linkState (pkg : BitVec 12) (link : Nat) (up : Bool)
  deriving DecidableEq, Repr

/-- An event aimed at saved state (R323). -/
inductive HeldEv where
  /-- a cop reply. -/
  | reply (n : Nat)
  /-- a completion-barrier arrival at a slot in saved tile scratch, with the ECODE it sets first, 0 for none. -/
  | arrive (addr ecode : Nat)
  /-- an error at a slot in saved tile scratch, with its ECODE. -/
  | error (addr ecode : Nat)
  /-- a credit to a slot in saved tile scratch. -/
  | credit (addr bytes : Nat) (chunks : BitVec 64)
  /-- the fill of a saved pending token slot. -/
  | fill (c : CoreId) (owner : Nat)
  deriving DecidableEq, Repr

/-- What a QMC does at an address (R362, R417). -/
inductive QmcAccess where
  | load
  | store
  | fetch
  deriving DecidableEq, Repr

/-- The operands of a step without an encoding: what the engine, the scheduler, a handler, the fabric or the host names. State holds
the one of the step under way (`arg`); the first line of each constructor says which rows use it. -/
inductive EvArg where
  /-- no operands. -/
  | none
  /-- a physical tile: MMA_COMPLETION, EPI_COMPLETION, STOP_CAPTURE, DEADLOCK, TASK_COMPLETION, DRAIN_BOUND, CHECKPOINT. -/
  | tile (t : BitVec 8)
  /-- a core of a tile: FIXED_LATENCY_WRITE. -/
  | core (t : BitVec 8) (c : CoreId)
  /-- a BTE operation: SOURCE_CREDIT, DMA_COMPLETION. -/
  | op (t : BitVec 8) (c : CoreId) (seq : BitVec 16)
  /-- a BTE operation and how many destination elements become visible: ENGINE_CREDIT. -/
  | credit (t : BitVec 8) (c : CoreId) (seq : BitVec 16) (n : Nat)
  /-- a BTE operation, the class, access kind, address and element of its fault: ENGINE_FAULT. -/
  | fault (t : BitVec 8) (c : CoreId) (seq : BitVec 16) (cls : TrapClass) (acc addr elem : Nat)
  /-- one number: COP_REPLY request; LEASE_END line; QUEUE_POLL and HELD_LINE_INVALIDATE queue; SAVE_COMMIT, SAVE_DEADLINE,
  GRACE_PERIOD_END context; DIE_REPORT die; LINK_KEYEXH link; SOFT_ERROR memory key; POWER_SAMPLE and POWER_LIMIT_SET mW. -/
  | num (a : Nat)
  /-- two numbers: PROGRESS_RECORD_WRITE context and job; LOCK_LOST bank and bit; PACKET_COMPLETION queue and index; RESTORE context
  and slot; LINK_FAIL link and cause; SOFT_ERROR context and page, in the translation of that page. -/
  | num2 (a b : Nat)
  /-- a page of a code object's generation: CODE_GENERATION_FREE (page unused), CODE_STORE_DROP. -/
  | page (cnum ident gen page : Nat)
  /-- the page that a stream fetches from: CODE_PAGE_CHECK. -/
  | fetch (t : BitVec 8) (c : CoreId) (page : Nat)
  /-- a QMC's physical quad: HANDLER_RUN, RESUME, RESUME_RETRY, SKIP, KILL, PASS. -/
  | quad (q : BitVec 6)
  /-- STATE_WINDOW: a quad's QMC loads, stores or fetches n bytes at an address, with the bytes of a store. -/
  | qmc (q : BitVec 6) (k : QmcAccess) (a : BitVec 32) (n : Nat) (data : List Byte)
  /-- COLLECTIVE_EPISODE, MEMBER_LOST. -/
  | ep (k : EpKey)
  /-- TRESTLE_TRANSFER_COMPLETE: the transfer, the fault another package answers with, and whether that package has acknowledged every
  byte of it. -/
  | xfer (cnum job xfer : Nat) (err : Option (TrapClass × Nat)) (acked : Bool)
  /-- a command packet of a queue: PACKET_NOP, NODE, GRAPH. -/
  | cmd (q : Nat) (pkt : BitVec 512)
  /-- NODE_DECREMENT: the context and address of the node, and the tile that sent the decrement. -/
  | node (cnum node : Nat) (src : Option (BitVec 8))
  /-- HELD_EVENT. -/
  | held (cnum slot : Nat) (e : HeldEv)
  /-- WRITE, READ_REQUEST, READ_DATA, ACKNOWLEDGEMENT, ORDERED_FLAG, COUNT_ONLY_FLAG, ATOMIC, REFUSED_PACKET_RESEND,
  MALFORMED_PACKET. -/
  | packet (p : Packet)
  /-- CONTROL. -/
  | ctl (c : Ctl)
  /-- INTEGRITY_BLOCK: the link, whether the block's tag verifies, and the packets it brings. -/
  | block (link : Nat) (ok : Bool) (pkts : List Packet)
  /-- PACKAGE_LOST. -/
  | pkg (p : BitVec 12)
  /-- JUNCTION_SAMPLE: the sensors' readings in degrees Celsius. -/
  | temps (l : List Nat)
  /-- BOOTGO: bytes written from the start of the boot window before it. -/
  | image (l : List Byte)
  /-- a mailbox command of a function: QDESC to APSIZE, RESERVED_OPCODE. -/
  | mail (fn : Nat) (cmd : BitVec 512)
  /-- SOFT_ERROR in a register: kind 0 g, 1 h, 2 v, 3 p; kind 4: in the word of a token queue from core c to its neighbour r mod 2
  whose first slot is slot r / 2 of the queue. -/
  | badReg (t : BitVec 8) (c : CoreId) (kind r : Nat)
  /-- HOST_WRITE: the function, whether through its aperture, address, bytes. The host's writes to its own memory, which the device
  reads over CXL, are those at 2^60 and above. -/
  | hostW (fn : Nat) (ap : Bool) (addr : Nat) (data : List Byte)
  /-- HOST_READ. -/
  | hostR (fn : Nat) (ap : Bool) (addr n : Nat)
  /-- REGISTER_WRITE. -/
  | reg (fn off : Nat) (val : Word)
  /-- FUNCTION_ENABLE. -/
  | fn (fn : Nat) (on : Bool)
  /-- KEYSTONE_MAP_WRITE: package map or tile map, index, entry. -/
  | map (pkg : Bool) (idx : Nat) (val : BitVec 64)
  deriving DecidableEq, Repr

/-- Every row of spec/opcode_table.json. In an encoded row the arguments are the row's fields from the highest bit down; `k` of a
private row is its token bits and stall count. A row without an encoding takes its operands from State's `arg` (an EvArg): Lean's
compiler admits at most 244 constructors with arguments in one type. -/
inductive Instr where
  /-- ADD (R158). Adds ga and gb modulo 2^32 into gd. -/
  | add (d : GReg) (a : GReg) (b : GReg)
  /-- SUB (R158). Subtracts gb from ga modulo 2^32 into gd. -/
  | sub (d : GReg) (a : GReg) (b : GReg)
  /-- AND (R158). Bitwise AND of ga and gb into gd. -/
  | and (d : GReg) (a : GReg) (b : GReg)
  /-- OR (R158). Bitwise OR of ga and gb into gd. -/
  | or (d : GReg) (a : GReg) (b : GReg)
  /-- XOR (R158). Bitwise XOR of ga and gb into gd. -/
  | xor (d : GReg) (a : GReg) (b : GReg)
  /-- SLL (R158). Shifts ga left by gb[4:0] into gd. -/
  | sll (d : GReg) (a : GReg) (b : GReg)
  /-- SRL (R158). Logical right shift of ga by gb[4:0] into gd. -/
  | srl (d : GReg) (a : GReg) (b : GReg)
  /-- SRA (R158). Arithmetic right shift of ga by gb[4:0] into gd. -/
  | sra (d : GReg) (a : GReg) (b : GReg)
  /-- SLT (R158). Sets gd to 1 if ga is signed-less than gb, else 0. -/
  | slt (d : GReg) (a : GReg) (b : GReg)
  /-- SLTU (R158). Sets gd to 1 if ga is unsigned-less than gb, else 0. -/
  | sltu (d : GReg) (a : GReg) (b : GReg)
  /-- MIN (R158). Signed minimum of ga and gb into gd. -/
  | min (d : GReg) (a : GReg) (b : GReg)
  /-- MAX (R158). Signed maximum of ga and gb into gd. -/
  | max (d : GReg) (a : GReg) (b : GReg)
  /-- MINU (R158). Unsigned minimum of ga and gb into gd. -/
  | minu (d : GReg) (a : GReg) (b : GReg)
  /-- MAXU (R158). Unsigned maximum of ga and gb into gd. -/
  | maxu (d : GReg) (a : GReg) (b : GReg)
  /-- ADD1S (R158). gd := ga shifted left by 1 plus gb. -/
  | add1s (d : GReg) (a : GReg) (b : GReg)
  /-- ADD2S (R158). gd := ga shifted left by 2 plus gb. -/
  | add2s (d : GReg) (a : GReg) (b : GReg)
  /-- ADD3S (R158). gd := ga shifted left by 3 plus gb. -/
  | add3s (d : GReg) (a : GReg) (b : GReg)
  /-- MUL (R159). Low 32 bits of the signed product into gd. -/
  | mul (d : GReg) (a : GReg) (b : GReg)
  /-- MULH (R159). High 32 bits of the signed product into gd. -/
  | mulh (d : GReg) (a : GReg) (b : GReg)
  /-- MULHU (R159). High 32 bits of the unsigned product into gd. -/
  | mulhu (d : GReg) (a : GReg) (b : GReg)
  /-- MULHSU (R159). High 32 bits of signed ga times unsigned gb into gd. -/
  | mulhsu (d : GReg) (a : GReg) (b : GReg)
  /-- DIV (R159). Signed division rounding toward zero, with fixed results for zero divisor and overflow. -/
  | div (d : GReg) (a : GReg) (b : GReg)
  /-- DIVU (R159). Unsigned division, all ones for a zero divisor. -/
  | divu (d : GReg) (a : GReg) (b : GReg)
  /-- REM (R159). Signed remainder, ga for a zero divisor. -/
  | rem (d : GReg) (a : GReg) (b : GReg)
  /-- REMU (R159). Unsigned remainder, ga for a zero divisor. -/
  | remu (d : GReg) (a : GReg) (b : GReg)
  /-- ADDI (R160). Adds the sign-extended immediate to ga into gd. -/
  | addi (d : GReg) (a : GReg) (i : BitVec 15)
  /-- ANDI (R160). Bitwise AND of ga with the sign-extended immediate. -/
  | andi (d : GReg) (a : GReg) (i : BitVec 15)
  /-- ORI (R160). Bitwise OR of ga with the sign-extended immediate. -/
  | ori (d : GReg) (a : GReg) (i : BitVec 15)
  /-- XORI (R160). Bitwise XOR of ga with the sign-extended immediate. -/
  | xori (d : GReg) (a : GReg) (i : BitVec 15)
  /-- SLTI (R160). Signed compare of ga with the immediate into gd. -/
  | slti (d : GReg) (a : GReg) (i : BitVec 15)
  /-- SLTIU (R160). Unsigned compare of ga with the sign-extended immediate into gd. -/
  | sltiu (d : GReg) (a : GReg) (i : BitVec 15)
  /-- SLLI (R160). Shifts ga left by an immediate amount. -/
  | slli (d : GReg) (a : GReg) (n : BitVec 5)
  /-- SRLI (R160). Logical right shift of ga by an immediate amount. -/
  | srli (d : GReg) (a : GReg) (n : BitVec 5)
  /-- SRAI (R160). Arithmetic right shift of ga by an immediate amount. -/
  | srai (d : GReg) (a : GReg) (n : BitVec 5)
  /-- LUI (R161). Sets gd to imm20 times 4,096. -/
  | lui (d : GReg) (i : BitVec 20)
  /-- AUIPC (R161). Sets gd to PC plus imm20 times 4,096. -/
  | auipc (d : GReg) (i : BitVec 20)
  /-- LB (R163). Loads a sign-extended byte from scratch after alignment, range and stack checks. -/
  | lb (d : GReg) (a : GReg) (i : BitVec 15)
  /-- LBU (R163). Loads a zero-extended byte from scratch. -/
  | lbu (d : GReg) (a : GReg) (i : BitVec 15)
  /-- LH (R163). Loads a sign-extended half from scratch. -/
  | lh (d : GReg) (a : GReg) (i : BitVec 15)
  /-- LHU (R163). Loads a zero-extended half from scratch. -/
  | lhu (d : GReg) (a : GReg) (i : BitVec 15)
  /-- LW (R163). Loads a word from scratch. -/
  | lw (d : GReg) (a : GReg) (i : BitVec 15)
  /-- SB (R163). Stores the low byte of gs to scratch. -/
  | sb (g : GReg) (a : GReg) (i : BitVec 15)
  /-- SH (R163). Stores the low half of gs to scratch. -/
  | sh (g : GReg) (a : GReg) (i : BitVec 15)
  /-- SW (R163). Stores gs as a word to scratch. -/
  | sw (g : GReg) (a : GReg) (i : BitVec 15)
  /-- LLD (R165). Waits for the word's lock bit to clear, sets it for this core and loads the word atomically. -/
  | lld (d : GReg) (a : GReg) (i : BitVec 15)
  /-- SUL (R165). Stores the word and clears the held lock bit atomically, or raises LOCK.LOST or LOCK.STATE. -/
  | sul (g : GReg) (a : GReg) (i : BitVec 15)
  /-- AMO_ADD (R166). Atomically adds gb to a scratch word and returns the old value. -/
  | amoAdd (d : GReg) (a : GReg) (b : GReg)
  /-- AMO_MIN (R166). Atomic signed minimum on a scratch word. -/
  | amoMin (d : GReg) (a : GReg) (b : GReg)
  /-- AMO_MAX (R166). Atomic signed maximum on a scratch word. -/
  | amoMax (d : GReg) (a : GReg) (b : GReg)
  /-- AMO_AND (R166). Atomic bitwise AND on a scratch word. -/
  | amoAnd (d : GReg) (a : GReg) (b : GReg)
  /-- AMO_OR (R166). Atomic bitwise OR on a scratch word. -/
  | amoOr (d : GReg) (a : GReg) (b : GReg)
  /-- AMO_XOR (R166). Atomic bitwise XOR on a scratch word. -/
  | amoXor (d : GReg) (a : GReg) (b : GReg)
  /-- AMO_SWAP (R166). Atomically replaces a scratch word with gb. -/
  | amoSwap (d : GReg) (a : GReg) (b : GReg)
  /-- AMO_CAS (R166). Atomic compare-and-swap of a scratch word against gd. -/
  | amoCas (d : GReg) (a : GReg) (b : GReg)
  /-- BEQ (R167). Branches if ga equals gb. -/
  | beq (a : GReg) (b : GReg) (k : BitVec 15)
  /-- BNE (R167). Branches if ga differs from gb. -/
  | bne (a : GReg) (b : GReg) (k : BitVec 15)
  /-- BLT (R167). Branches if ga is signed-less than gb. -/
  | blt (a : GReg) (b : GReg) (k : BitVec 15)
  /-- BGE (R167). Branches if ga is signed-greater-or-equal to gb. -/
  | bge (a : GReg) (b : GReg) (k : BitVec 15)
  /-- BLTU (R167). Branches if ga is unsigned-less than gb. -/
  | bltu (a : GReg) (b : GReg) (k : BitVec 15)
  /-- BGEU (R167). Branches if ga is unsigned-greater-or-equal to gb. -/
  | bgeu (a : GReg) (b : GReg) (k : BitVec 15)
  /-- JAL (R168). Jumps PC-relative and writes the return address to gd. -/
  | jal (d : GReg) (k : BitVec 20)
  /-- JALR (R168). Jumps to ga plus immediate with low bits cleared and writes the return address to gd. -/
  | jalr (d : GReg) (a : GReg) (i : BitVec 15)
  /-- LOOP (R170). Pushes a hardware loop frame with count from ga, skips the body for count 0, or raises LOOP.DEPTH. -/
  | loop (a : GReg) (k : BitVec 15)
  /-- LOOPI (R170). Pushes a hardware loop frame with an immediate count. -/
  | loopi (n : BitVec 10) (k : BitVec 10)
  /-- LBRK (R172). Exits the innermost loop if ga is nonzero. -/
  | lbrk (a : GReg)
  /-- LBRK_Z (R172). Exits the innermost loop if ga is zero. -/
  | lbrkZ (a : GReg)
  /-- QPUT (R50). Reserves a slot in the outgoing queue and fills it at retirement with an immediate token, releasing earlier writes. -/
  | qput (n : BitVec 1) (c : BitVec 3) (t : BitVec 5)
  /-- QPUT_REG (R50). Puts the token held in ga[7:0] to the named neighbour. -/
  | qputReg (a : GReg) (n : BitVec 1)
  /-- QTAKE (R50). Waits for a filled head of the immediate class and removes it into gd, acquiring. -/
  | qtake (d : GReg) (n : BitVec 1) (c : BitVec 3)
  /-- QTAKE_REG (R50). Takes a token of the class held in ga[2:0]. -/
  | qtakeReg (d : GReg) (a : GReg) (n : BitVec 1)
  /-- QPEEK (R50). Returns the filled head token without removing it, all ones if none, or raises a poisoned head's fault. -/
  | qpeek (d : GReg) (n : BitVec 1)
  /-- QCOUNT (R50). Returns the filled run of the incoming queue and the free slots of the outgoing queue. -/
  | qcount (d : GReg) (n : BitVec 1)
  /-- BAR_INIT (R93). Makes a scratch slot a live barrier with pending arrivals and bytes, or raises BAR.LIVE. -/
  | barInit (c : GReg) (a : GReg) (b : GReg)
  /-- BAR_EXPECT (R93). Adds arrivals and bytes to a live barrier and opens an episode. -/
  | barExpect (c : GReg) (a : GReg) (b : GReg)
  /-- BAR_EXPECT_CLR (R93). Clears CHUNK, ERR and ECODE, then adds arrivals and bytes. -/
  | barExpectClr (c : GReg) (a : GReg) (b : GReg)
  /-- BAR_ARRIVE (R93). Decrements PEND with a release, or sets ERR with ECODE 2, then flip-checks. -/
  | barArrive (a : GReg)
  /-- BAR_WAIT (R175). Ends when PHASE differs from the given phase, acquiring, or raises BAR.ERROR on ERR. -/
  | barWait (a : GReg) (b : GReg)
  /-- BAR_WAITCHK (R175). Ends when all chunk bits of the mask are set, acquiring those chunks, or raises BAR.ERROR. -/
  | barWaitchk (c : GReg) (a : GReg) (b : GReg)
  /-- BAR_TEST (R175). Returns slot bits [31:0] without waiting, acquiring if the phase has flipped. -/
  | barTest (d : GReg) (a : GReg) (b : GReg)
  /-- BAR_RETIRE (R176). Waits until no operation of the task names the slot, then zeroes it; waiters raise BAR.DEAD. -/
  | barRetire (a : GReg)
  /-- FENCE_REL (R115). Retires when every covered write is visible at the scope, making later writes releases. -/
  | fenceRel (s : BitVec 3)
  /-- FENCE_ACQ (R115). Holds later accesses until earlier reads return, acquiring released values. -/
  | fenceAcq (s : BitVec 3)
  /-- FENCE_AR (R115). Acts as fence.rel then fence.acq at the scope. -/
  | fenceAr (s : BitVec 3)
  /-- FENCE_ACK (R115). Retires when every earlier remote write of the stream is acknowledged. -/
  | fenceAck
  /-- HBAR (R178). Arrives in the next hardware-barrier episode of the scope and retires when the episode completes. -/
  | hbar (s : BitVec 3)
  /-- CSR_R (R180). Reads a CSR into gd. -/
  | csrR (d : GReg) (c : BitVec 12)
  /-- CSR_W (R180). Writes ga to a CSR and returns the old value, or raises CSR.ACCESS. -/
  | csrW (d : GReg) (a : GReg) (c : BitVec 12)
  /-- CSR_S (R180). Sets the CSR bits given in ga and returns the old value. -/
  | csrS (d : GReg) (a : GReg) (c : BitVec 12)
  /-- CSR_C (R180). Clears the CSR bits given in ga and returns the old value. -/
  | csrC (d : GReg) (a : GReg) (c : BitVec 12)
  /-- HLD (R183). Loads a 32-byte handle from scratch into hd, checking its format tag. -/
  | hld (h : HReg) (a : GReg)
  /-- HST (R183). Stores a handle register as 32 bytes to scratch. -/
  | hst (h : HReg) (a : GReg)
  /-- HSET (R183). Writes one handle field from gb, waiting if the handle is locked. -/
  | hset (h : HReg) (b : GReg) (f : BitVec 5)
  /-- HGET (R183). Reads one handle field into gd. -/
  | hget (d : GReg) (h : HReg) (f : BitVec 5)
  /-- HMOV (R183). Copies every field but LOCK from hs to hd. -/
  | hmov (h : HReg) (k : HReg)
  /-- NOP (R185). Does nothing. -/
  | nop
  /-- ECALL (R185). Retires and raises the ECALL trap, stopping the task. -/
  | ecall
  /-- EBREAK (R185). Raises the BREAK trap with the saved PC at the ebreak. -/
  | ebreak
  /-- DONE (R185). Ends the stream, discards the loop stack, clears any held lock bit and is a report point. -/
  | done
  /-- YIELD (R185). Offers the task for descheduling at the next slice decision. -/
  | yield
  /-- ALLREDUCE (R273). Collective that reduces all ranks' sources element by element into each destination. -/
  | allreduce (d : GReg) (a : GReg) (b : GReg) (m : BitVec 2)
  /-- ALLGATHER (R273). Collective that concatenates every rank's source in rank order. -/
  | allgather (d : GReg) (a : GReg) (b : GReg) (m : BitVec 2)
  /-- REDUCESCATTER (R273). Collective that gives rank r the reduction of block r of every source. -/
  | reducescatter (d : GReg) (a : GReg) (b : GReg) (m : BitVec 2)
  /-- ALLTOALL (R273). Collective that exchanges block r of each source to rank r. -/
  | alltoall (d : GReg) (a : GReg) (b : GReg) (m : BitVec 2)
  /-- BCAST (R273). Collective that copies the root's source to every destination. -/
  | bcast (d : GReg) (a : GReg) (b : GReg) (m : BitVec 2)
  /-- CBAR (R273). Collective barrier that completes when every participant has issued. -/
  | cbar (d : GReg) (a : GReg) (b : GReg) (m : BitVec 2)
  /-- CSTAT (R276). Returns the count and oldest episode of the stream's outstanding collectives. -/
  | cstat (d : GReg) (a : GReg) (b : GReg) (m : BitVec 2)
  /-- PTAB_SET (R277). Stores a placement record image at an index, advancing its version, or returns INVALID. -/
  | ptabSet (d : GReg) (a : GReg) (b : GReg) (m : BitVec 2)
  /-- PTAB_GET (R277). Copies a placement record into scratch and returns its version. -/
  | ptabGet (d : GReg) (a : GReg) (b : GReg) (m : BitVec 2)
  /-- PLACE_CONV (R340). Converts a distributed tensor's shards to demanded states at the home PCE and rewrites the record. -/
  | placeConv (d : GReg) (a : GReg) (b : GReg) (m : BitVec 2)
  /-- MESH_SET (R278). Stores a mesh record image at an index of the mesh table. -/
  | meshSet (d : GReg) (a : GReg) (b : GReg) (m : BitVec 2)
  /-- RS_PLAN (R280). Derives a re-shard transfer plan, allocates a job and writes its progress record. -/
  | rsPlan (d : GReg) (a : GReg) (b : GReg) (m : BitVec 2)
  /-- RS_START (R281). Runs a PLANNED re-shard job until DONE or STOPPED. -/
  | rsStart (d : GReg) (a : GReg) (b : GReg) (m : BitVec 2)
  /-- RS_RESUME (R349). Restarts a STOPPED job from NEXT in its progress record. -/
  | rsResume (d : GReg) (a : GReg) (b : GReg) (m : BitVec 2)
  /-- RS_STATUS (R281). Returns a job's state and transfers done. -/
  | rsStatus (d : GReg) (a : GReg) (b : GReg) (m : BitVec 2)
  /-- RS_ABORT (R281). Stops and frees a job, answering outstanding replies with ABORTED. -/
  | rsAbort (d : GReg) (a : GReg) (b : GReg) (m : BitVec 2)
  /-- FUT_INIT (R104). Sets a future to PENDING with an empty list. -/
  | futInit (d : GReg) (a : GReg) (b : GReg) (m : BitVec 2)
  /-- FUT_RESOLVE (R283). After covered writes, resolves a PENDING future and decrements every waiting node, or traps. -/
  | futResolve (d : GReg) (a : GReg) (b : GReg) (m : BitVec 2)
  /-- FUT_REG (R104). Links a waiter record on a PENDING future, or decrements or poisons the node at once. -/
  | futReg (d : GReg) (a : GReg) (b : GReg) (m : BitVec 2)
  /-- FUT_POISON (R104). Poisons a PENDING future and every listed node. -/
  | futPoison (d : GReg) (a : GReg) (b : GReg) (m : BitVec 2)
  /-- FUT_READ (R284). Returns a future's state and optionally snapshots it, acquiring if RESOLVED. -/
  | futRead (d : GReg) (a : GReg) (b : GReg) (m : BitVec 2)
  /-- CTX_CREATE (R287). Creates an empty child context with a fresh key and pinned save area. -/
  | ctxCreate (d : GReg) (a : GReg) (b : GReg) (m : BitVec 2)
  /-- CTX_GRANT (R288). Grants a child tiles, package entries, memory, queues or banks that the caller holds. -/
  | ctxGrant (d : GReg) (a : GReg) (b : GReg) (m : BitVec 2)
  /-- CTX_REVOKE (R289). Withdraws named resources from a child subtree, draining old-generation accesses for memory. -/
  | ctxRevoke (d : GReg) (a : GReg) (b : GReg) (m : BitVec 2)
  /-- CTX_DESTROY (R290). Kills, revokes and scrubs a child subtree, zeroises its keys and records a receipt. -/
  | ctxDestroy (d : GReg) (a : GReg) (b : GReg) (m : BitVec 2)
  /-- CTX_BUDGET (R291). Sets a child's share and pauses or resumes its subtree from the next slice tick. -/
  | ctxBudget (d : GReg) (a : GReg) (b : GReg) (m : BitVec 2)
  /-- CTX_KEY (R292). Replaces a child's key with a fresh key and returns the key epoch. -/
  | ctxKey (d : GReg) (a : GReg) (b : GReg) (m : BitVec 2)
  /-- CTX_SCRUB (R293). Scrubs a held, unused range to zero and appends it to a child's receipt. -/
  | ctxScrub (d : GReg) (a : GReg) (b : GReg) (m : BitVec 2)
  /-- CTX_RECEIPT (R293). Writes and signs the receipt of a DESTROYED child and frees its number. -/
  | ctxReceipt (d : GReg) (a : GReg) (b : GReg) (m : BitVec 2)
  /-- NODE_LAUNCH (R294). Applies one predecessor decrement to a launch node, releasing at .pkg. -/
  | nodeLaunch (d : GReg) (a : GReg) (b : GReg) (m : BitVec 2)
  /-- NODE_STATUS (R295). Returns a node's launcher state and PREDS. -/
  | nodeStatus (d : GReg) (a : GReg) (b : GReg) (m : BitVec 2)
  /-- LOG_ARM (R296). Arms, re-arms or disarms a range monitor of a context. -/
  | logArm (d : GReg) (a : GReg) (b : GReg) (m : BitVec 2)
  /-- LOG_READ (R297). Writes a monitor's counts and first and last times to scratch. -/
  | logRead (d : GReg) (a : GReg) (b : GReg) (m : BitVec 2)
  /-- TIME_READ (R298). Writes a context's 64-bit guest time to scratch. -/
  | timeRead (d : GReg) (a : GReg) (b : GReg) (m : BitVec 2)
  /-- DMA_LD (R198). Queues a copy from global memory to scratch on the BTE. -/
  | dmaLd (k : Tok) (a : HReg) (b : HReg) (c : GReg) (d : GReg)
  /-- DMA_ST (R198). Queues a copy from scratch to global memory. -/
  | dmaSt (k : Tok) (a : HReg) (b : HReg) (c : GReg) (d : GReg)
  /-- DMA_CP (R198). Queues a copy between any levels. -/
  | dmaCp (k : Tok) (a : HReg) (b : HReg) (c : GReg) (d : BitVec 4)
  /-- DMA_CP_MC (R199). Queues a multicast copy to a run of logical units, replicated at the arch bridges. -/
  | dmaCpMc (k : Tok) (a : HReg) (b : HReg) (c : GReg) (d : BitVec 4)
  /-- DMA_IX (R200). Queues an indexed gather of table rows into a packed buffer. -/
  | dmaIx (k : Tok) (a : HReg) (b : HReg) (c : GReg) (d : Pair)
  /-- DMA_SX (R200). Queues an indexed scatter of packed rows into table rows. -/
  | dmaSx (k : Tok) (a : HReg) (b : HReg) (c : GReg) (d : Pair)
  /-- DMA_RD (R202). Queues a read of global memory in another package into local memory. -/
  | dmaRd (k : Tok) (a : HReg) (b : HReg) (c : GReg) (d : Pair)
  /-- DMA_WR (R202). Queues a remote write into another package as counted packets. -/
  | dmaWr (k : Tok) (a : HReg) (b : HReg) (c : GReg) (d : Pair)
  /-- ST_REL (R204). Waits for covered writes, then writes one word as a release locally or sends it to another package. -/
  | stRel (k : Tok) (a : GReg) (g : Pair) (c : GReg) (x : BitVec 3)
  /-- LD_ACQ (R205). Reads one word as an acquire, locally or from another package. -/
  | ldAcq (k : Tok) (a : GReg) (g : Pair) (c : GReg) (x : BitVec 3)
  /-- RAT_ADD (R206). Remote atomic add in the target package's remote atomic cache. -/
  | ratAdd (k : Tok) (a : GReg) (g : Pair) (c : GReg)
  /-- RAT_MIN (R206). Remote atomic signed minimum. -/
  | ratMin (k : Tok) (a : GReg) (g : Pair) (c : GReg)
  /-- RAT_MAX (R206). Remote atomic signed maximum. -/
  | ratMax (k : Tok) (a : GReg) (g : Pair) (c : GReg)
  /-- RAT_AND (R206). Remote atomic bitwise AND. -/
  | ratAnd (k : Tok) (a : GReg) (g : Pair) (c : GReg)
  /-- RAT_OR (R206). Remote atomic bitwise OR. -/
  | ratOr (k : Tok) (a : GReg) (g : Pair) (c : GReg)
  /-- RAT_XOR (R206). Remote atomic bitwise XOR. -/
  | ratXor (k : Tok) (a : GReg) (g : Pair) (c : GReg)
  /-- RAT_SWAP (R206). Remote atomic swap. -/
  | ratSwap (k : Tok) (a : GReg) (g : Pair) (c : GReg)
  /-- RAT_CAS (R206). Remote atomic compare-and-swap against gd. -/
  | ratCas (k : Tok) (a : GReg) (g : Pair) (c : GReg)
  /-- RVAT (R207). Atomically adds a 128-byte line element by element into a global line. -/
  | rvat (k : Tok) (a : HReg) (b : HReg) (c : GReg) (d : Pair)
  /-- LD_PLACE (R337). Loads this member's shard of a distributed tensor under demanded states into a scratch handle. -/
  | ldPlace (k : Tok) (a : HReg) (c : GReg) (d : Pair)
  /-- ST_PLACE (R338). Writes a scratch buffer into this member's shard and its replicas. -/
  | stPlace (k : Tok) (b : HReg) (c : GReg) (d : Pair)
  /-- DMA_PROG (R210). Returns the BTE's outstanding count and last SEQ. -/
  | dmaProg (k : Tok) (a : GReg)
  /-- DMA_PROG_REC (R210). Writes the progress record of a given SEQ to scratch. -/
  | dmaProgRec (k : Tok) (a : GReg) (b : GReg) (c : GReg)
  /-- VADD (R220). Element-wise add under the sources' tag. -/
  | vadd (k : Tok) (a : VCode) (b : VCode) (c : VCode)
  /-- VSUB (R220). Element-wise subtract. -/
  | vsub (k : Tok) (a : VCode) (b : VCode) (c : VCode)
  /-- VMUL (R220). Element-wise multiply. -/
  | vmul (k : Tok) (a : VCode) (b : VCode) (c : VCode)
  /-- VMIN (R221). Element-wise minimum. -/
  | vmin (k : Tok) (a : VCode) (b : VCode) (c : VCode)
  /-- VMAX (R221). Element-wise maximum. -/
  | vmax (k : Tok) (a : VCode) (b : VCode) (c : VCode)
  /-- VABS (R221). Element-wise absolute value. -/
  | vabs (k : Tok) (a : VCode) (b : VCode)
  /-- VNEG (R221). Element-wise negation. -/
  | vneg (k : Tok) (a : VCode) (b : VCode)
  /-- VAND (R220). Element-wise bitwise AND. -/
  | vand (k : Tok) (a : VCode) (b : VCode) (c : VCode)
  /-- VOR (R220). Element-wise bitwise OR. -/
  | vor (k : Tok) (a : VCode) (b : VCode) (c : VCode)
  /-- VXOR (R220). Element-wise bitwise XOR. -/
  | vxor (k : Tok) (a : VCode) (b : VCode) (c : VCode)
  /-- VNOT (R220). Element-wise bitwise complement. -/
  | vnot (k : Tok) (a : VCode) (b : VCode)
  /-- VSLL (R220). Element-wise left shift. -/
  | vsll (k : Tok) (a : VCode) (b : VCode) (c : VCode)
  /-- VSRL (R220). Element-wise logical right shift. -/
  | vsrl (k : Tok) (a : VCode) (b : VCode) (c : VCode)
  /-- VSRA (R220). Element-wise arithmetic right shift. -/
  | vsra (k : Tok) (a : VCode) (b : VCode) (c : VCode)
  /-- VCLZ (R220). Element-wise leading-zero count. -/
  | vclz (k : Tok) (a : VCode) (b : VCode)
  /-- VPOPC (R220). Element-wise population count. -/
  | vpopc (k : Tok) (a : VCode) (b : VCode)
  /-- VCMP_EQ (R222). Sets predicate lane bits where all elements compare equal. -/
  | vcmpEq (k : Tok) (d : PReg) (b : VCode) (c : VCode)
  /-- VCMP_NE (R222). Lane-wise not-equal compare into a predicate. -/
  | vcmpNe (k : Tok) (d : PReg) (b : VCode) (c : VCode)
  /-- VCMP_LT (R222). Lane-wise less-than compare into a predicate. -/
  | vcmpLt (k : Tok) (d : PReg) (b : VCode) (c : VCode)
  /-- VCMP_LE (R222). Lane-wise less-or-equal compare into a predicate. -/
  | vcmpLe (k : Tok) (d : PReg) (b : VCode) (c : VCode)
  /-- VCMP_GT (R222). Lane-wise greater-than compare into a predicate. -/
  | vcmpGt (k : Tok) (d : PReg) (b : VCode) (c : VCode)
  /-- VCMP_GE (R222). Lane-wise greater-or-equal compare into a predicate. -/
  | vcmpGe (k : Tok) (d : PReg) (b : VCode) (c : VCode)
  /-- VREDSUM (R224). Sums each group of VGRP elements by the fixed tree into one lane each. -/
  | vredsum (k : Tok) (a : VCode) (b : VCode)
  /-- VREDMAX (R224). Group maximum reduction. -/
  | vredmax (k : Tok) (a : VCode) (b : VCode)
  /-- VREDMIN (R224). Group minimum reduction. -/
  | vredmin (k : Tok) (a : VCode) (b : VCode)
  /-- VPERM (R225). Permutes elements of va by the indices in vb. -/
  | vperm (k : Tok) (a : VCode) (b : VCode) (c : VCode)
  /-- VBCAST (R226). Broadcasts element gs of va to every element. -/
  | vbcast (k : Tok) (a : VCode) (b : VCode) (g : GReg)
  /-- VBCAST_G (R226). Broadcasts the scalar gs into every element with a given tag. -/
  | vbcastG (k : Tok) (a : VCode) (t : BitVec 4) (g : GReg)
  /-- VSLIDE_DN (R227). Slides elements down by n, filling with zeros. -/
  | vslideDn (k : Tok) (a : VCode) (b : VCode) (g : GReg)
  /-- VSLIDE_UP (R227). Slides elements up by n, filling with zeros. -/
  | vslideUp (k : Tok) (a : VCode) (b : VCode) (g : GReg)
  /-- VZIP (R228). Interleaves the low halves of two vectors. -/
  | vzip (k : Tok) (a : VCode) (b : VCode) (c : VCode)
  /-- VUNZIP (R228). Takes the even elements of the concatenation of two vectors. -/
  | vunzip (k : Tok) (a : VCode) (b : VCode) (c : VCode)
  /-- VCVT (R231). Converts every element to the destination tag by R72. -/
  | vcvt (k : Tok) (a : VCode) (b : VCode) (t : BitVec 4)
  /-- VMOV (R229). Copies 256 bytes and the tag, tag-transparent, between registers and ports. -/
  | vmov (k : Tok) (a : VCode) (b : VCode)
  /-- VRDACC (R261). Reads one row or column of an occupied ring slot into vd in ring order. -/
  | vrdacc (k : Tok) (a : VCode) (g : GReg)
  /-- VFMA (R232). Fused multiply-add into vd with one rounding. -/
  | vfma (k : Tok) (a : VCode) (b : VCode) (c : VCode)
  /-- VFSH (R234). Lane-wise 64-bit funnel shift by vd's old low bits. -/
  | vfsh (k : Tok) (a : VCode) (b : VCode) (c : VCode)
  /-- VMAC (R233). Adds lane-wise integer dot products into INT32 lanes of vd. -/
  | vmac (k : Tok) (a : VCode) (b : VCode) (c : VCode)
  /-- VSEL (R223). Copies lanes of va into vd where the predicate bit is set. -/
  | vsel (k : Tok) (a : VCode) (b : VCode) (p : PReg)
  /-- VLD (R235). Loads 256 bytes from scratch into vd with a given tag. -/
  | vld (k : Tok) (a : VCode) (g : GReg) (o : BitVec 2) (t : BitVec 4)
  /-- VLD_TG (R235). Loads a tag word from scratch into vd's tag. -/
  | vldTg (k : Tok) (a : VCode) (g : GReg) (o : BitVec 2)
  /-- VST (R236). Stores 256 bytes of a vector to scratch. -/
  | vst (k : Tok) (a : VCode) (g : GReg) (o : BitVec 2)
  /-- VST_TG (R236). Stores a vector's tag as a word to scratch. -/
  | vstTg (k : Tok) (a : VCode) (g : GReg) (o : BitVec 2)
  /-- VSTM (R237). Stores the first n bytes of a vector at any byte address. -/
  | vstm (k : Tok) (a : VCode) (g : GReg) (h : GReg)
  /-- VLDX (R238). Gathers 64 words from scratch by lane indices. -/
  | vldx (k : Tok) (a : VCode) (g : GReg) (c : VCode)
  /-- MMA (R252). Issues a matrix operation applying K-steps of A times B into the newest ring slot. -/
  | mma (k : Tok) (b : HReg) (c : HReg)
  /-- MMA_GX (R255). Issues a matrix operation with A rows gathered from a table by vi lanes. -/
  | mmaGx (k : Tok) (a : VCode) (b : HReg) (c : HReg)
  /-- RZERO (R250). Zeroes the newest ring slot, or raises RING.EMPTY. -/
  | rzero (k : Tok)
  /-- RNEXT (R250). Opens a new zeroed ring slot, or raises RING.FULL. -/
  | rnext (k : Tok)
  /-- EPI (R259). Consumes the tail slot and writes it through scale, bias, activation and conversion to scratch. -/
  | epi (k : Tok) (h : HReg) (g : GReg) (b : GReg)
  /-- MSCALE_ROW (R256). Multiplies each row of the newest slot by a lane factor. -/
  | mscaleRow (k : Tok) (a : VCode)
  /-- MSCALE_COL (R256). Multiplies each column of the newest slot by a lane factor. -/
  | mscaleCol (k : Tok) (a : VCode)
  /-- FADD (R241). Scalar FP32 add. -/
  | fadd (k : Tok) (d : GReg) (a : GReg) (b : GReg)
  /-- FSUB (R241). Scalar FP32 subtract. -/
  | fsub (k : Tok) (d : GReg) (a : GReg) (b : GReg)
  /-- FMUL (R241). Scalar FP32 multiply. -/
  | fmul (k : Tok) (d : GReg) (a : GReg) (b : GReg)
  /-- FFMA (R241). Scalar FP32 fused multiply-add into gd. -/
  | ffma (k : Tok) (d : GReg) (a : GReg) (b : GReg)
  /-- FMIN (R241). Scalar FP32 minimum. -/
  | fmin (k : Tok) (d : GReg) (a : GReg) (b : GReg)
  /-- FMAX (R241). Scalar FP32 maximum. -/
  | fmax (k : Tok) (d : GReg) (a : GReg) (b : GReg)
  /-- FCMP (R242). Scalar FP32 compare into less, equal, greater and unordered bits. -/
  | fcmp (k : Tok) (d : GReg) (a : GReg) (b : GReg)
  /-- FDIV (R241). Scalar FP32 divide, correctly rounded. -/
  | fdiv (k : Tok) (d : GReg) (a : GReg) (b : GReg)
  /-- FSQRT (R241). Scalar FP32 square root. -/
  | fsqrt (k : Tok) (d : GReg) (a : GReg)
  /-- FCVT_W_S (R243). FP32 to INT32, rounded and saturated. -/
  | fcvtWS (k : Tok) (d : GReg) (a : GReg)
  /-- FCVT_WU_S (R243). FP32 to UINT32, rounded and saturated. -/
  | fcvtWuS (k : Tok) (d : GReg) (a : GReg)
  /-- FCVT_S_W (R243). INT32 to FP32, rounded. -/
  | fcvtSW (k : Tok) (d : GReg) (a : GReg)
  /-- FCVT_S_WU (R243). UINT32 to FP32, rounded. -/
  | fcvtSWu (k : Tok) (d : GReg) (a : GReg)
  /-- FCVT_BF_S (R243). FP32 to BF16 in the low half, rounded. -/
  | fcvtBfS (k : Tok) (d : GReg) (a : GReg)
  /-- FCVT_S_BF (R243). BF16 to FP32, exact. -/
  | fcvtSBf (k : Tok) (d : GReg) (a : GReg)
  /-- FCVT_H_S (R243). FP32 to FP16 in the low half, rounded. -/
  | fcvtHS (k : Tok) (d : GReg) (a : GReg)
  /-- FCVT_S_H (R243). FP16 to FP32, exact. -/
  | fcvtSH (k : Tok) (d : GReg) (a : GReg)
  /-- PAND (R239). Predicate AND. -/
  | pand (k : Tok) (d : PReg) (a : PReg) (b : PReg)
  /-- POR (R239). Predicate OR. -/
  | por (k : Tok) (d : PReg) (a : PReg) (b : PReg)
  /-- PNOT (R239). Predicate complement. -/
  | pnot (k : Tok) (d : PReg) (a : PReg)
  /-- PMOV (R239). Predicate copy. -/
  | pmov (k : Tok) (d : PReg) (a : PReg)
  /-- PPACK (R240). Packs predicates pa to p7 into vector lanes. -/
  | ppack (k : Tok) (d : VCode) (a : PReg)
  /-- PUNPACK (R240). Unpacks vector lanes into predicates pd to p7. -/
  | punpack (k : Tok) (d : PReg) (v : VCode)
  /-- VALLOC (R216). Grows the vector allotment, zeroing the new registers with tag EMPTY. -/
  | valloc (k : Tok) (n : BitVec 6)
  /-- VSHRINK (R216). Shrinks the vector allotment, losing released registers. -/
  | vshrink (k : Tok) (n : BitVec 6)
  /-- PCFG (R218). Sets one parameter of a port's address generator. -/
  | pcfg (k : Tok) (p : VCode) (a : GReg) (b : GReg)
  /-- TIME (R181). A read of TIME returns guest time [31:0] and latches [63:32] into TIMEH. -/
  | time (d : GReg)
  /-- RESERVED_ENCODING (R425). An instruction word with a reserved encoding, including a reserved cop FN7 or MODE 3, raises OP.RESERVED precisely at decode. -/
  | reservedEncoding (w : Word)
  /-- COLLECTIVE_EPISODE (R272). When all participants of an episode have issued, the engine compares requests and performs or rejects the collective. -/
  | collectiveEpisode
  /-- MEMBER_LOST (R274). Within 50 µs of a participant's kill or loss, every other participant receives MEMBERLOST and ECODE 4. -/
  | memberLost
  /-- TRESTLE_TRANSFER_COMPLETE (R347). A transfer's bytes become visible; the last one makes the job DONE, and a faulting one stops the job. -/
  | trestleTransferComplete
  /-- PROGRESS_RECORD_WRITE (R348). Trestle rewrites the progress record after 64 transfers or 1 µs since its last write. -/
  | progressRecordWrite
  /-- COP_REPLY (R268). At a function's completion point its reply is written to gd and its completion barrier receives an arrival. -/
  | copReply
  /-- ENGINE_CREDIT (R94). As destination bytes become visible, the operation credits its barrier bytes and chunk bits. -/
  | engineCredit
  /-- SOURCE_CREDIT (R95). After its last source byte is read, the operation credits its source barrier. -/
  | sourceCredit
  /-- DMA_COMPLETION (R45). A transfer operation reaches its completion point and fills its reserved token slots. -/
  | dmaCompletion
  /-- ENGINE_FAULT (R194). A running operation faults, stops, sets ERR with ECODE 5 and poisons its slots. -/
  | engineFault
  /-- MMA_COMPLETION (R254). The array has read all operand bytes; handle locks end and a put fills. -/
  | mmaCompletion
  /-- EPI_COMPLETION (R260). The epilogue's output becomes visible at .tile and its put fills. -/
  | epiCompletion
  /-- FIXED_LATENCY_WRITE (R134). A fixed-latency result lands in its register L cycles after issue, discarded if overtaken. -/
  | fixedLatencyWrite
  /-- STOP_CAPTURE (R413). When streams and engines have halted after a fault, the stopped state is captured and the trap record written. -/
  | stopCapture
  /-- TRAP_DELIVERY (R415). A waiting trap record or notification takes a freed mailbox slot and signals the QMC. -/
  | trapDelivery
  /-- HANDLER_RUN (R417). The QMC starts a handler run for the earliest pending slot at HENTRY. -/
  | handlerRun
  /-- STATE_WINDOW (R418). A handler write through a slot's state window changes writable parts of the stopped image. -/
  | stateWindow
  /-- RESUME (R419). Disposition that resumes all streams from saved PCs, abandoning a named faulted operation. -/
  | resume
  /-- RESUME_RETRY (R420). Disposition that resumes and restarts the faulted operation from DONE, clearing ECODE 5. -/
  | resumeRetry
  /-- SKIP (R419). Disposition that retires a precise faulting instruction with no effect and continues. -/
  | skip
  /-- KILL (R419). Disposition that kills the task, scrubs its tile and poisons its node and future. -/
  | kill
  /-- PASS (R419). Disposition that delivers the record to the next claiming ancestor. -/
  | pass
  /-- DEADLOCK (R54). The tumbler counter reaches 4,096 and the tile raises DEADLOCK, stopping all streams. -/
  | deadlock
  /-- LOCK_LOST (R99). A lock bit held 4,096 cycles is cleared and marked lost for its holder. -/
  | lockLost
  /-- LEASE_END (R100). A remote atomic cache line's lease ends 4 µs after its last atomic and it is written back. -/
  | leaseEnd
  /-- PACKET_NOP (R301). Command packet that does nothing but may signal. -/
  | packetNop
  /-- NODE (R302). Command packet that acts as node.launch on its node. -/
  | node
  /-- GRAPH (R302). Command packet that decrements each root of a graph in root-list order. -/
  | graph
  /-- PACKET_COMPLETION (R303). When a packet's counted nodes end, SIGVAL is written to SIGADDR as a release. -/
  | packetCompletion
  /-- QUEUE_POLL (R304). A due queue is polled, its write index read and new packets parsed, adjusting the interval. -/
  | queuePoll
  /-- HELD_LINE_INVALIDATE (R305). A host write invalidating a held write-index line makes the queue due at once. -/
  | heldLineInvalidate
  /-- NODE_DECREMENT (R307). The launcher applies a predecessor decrement; reaching zero makes the node ready once. -/
  | nodeDecrement
  /-- DISTRIBUTOR_PLACE (R311). The master distributor places a ready instance on a candidate tile, or pre-empts, and the task starts. -/
  | distributorPlace
  /-- DIE_REPORT (R310). A die reports free tiles and scratch to the distributor on change and every 256 cycles. -/
  | dieReport
  /-- TASK_COMPLETION (R38). A task completes when all streams are done and its operations are finished, discarding tokens. -/
  | taskCompletion
  /-- SLICE_TICK (R314). Each slice tick refills balances and switches throttled or paused subtrees out and others in. -/
  | sliceTick
  /-- DRAIN_BOUND (R318). A draining task that has not completed within Bound cycles is checkpointed. -/
  | drainBound
  /-- CHECKPOINT (R319). A task is stopped and saved with its ring, engines and queues into an image slot. -/
  | checkpoint
  /-- SAVE_COMMIT (R321). After all images of a switch are written, directory entries and then GEN are written. -/
  | saveCommit
  /-- SAVE_DEADLINE (R438). At the save deadline late dies get a grace period of T/10. -/
  | saveDeadline
  /-- GRACE_PERIOD_END (R438). A die still late at the end of the grace period makes the context TORN. -/
  | gracePeriodEnd
  /-- RESTORE (R322). A saved image is reloaded on a tile, operations reissued and held completions applied. -/
  | restore
  /-- HELD_EVENT (R323). An event aimed at saved state enters the hold queue, or overflows it. -/
  | heldEvent
  /-- CODE_PAGE_CHECK (R372). The first fetch of a code page reads, hashes and maps it, or quarantines the generation. -/
  | codePageCheck
  /-- CODE_GENERATION_FREE (R373). An UNLOADING generation is freed once no task has a start epoch below U. -/
  | codeGenerationFree
  /-- WRITE (R121). A write packet arrives at the ingress, is applied and acknowledged, releasing held ordered flags. -/
  | write
  /-- READ_REQUEST (R205). A read request packet is served at the target and read data returned. -/
  | readRequest
  /-- READ_DATA (R205). Read data returns to the source and completes the read. -/
  | readData
  /-- ACKNOWLEDGEMENT (R121). A positive or negative acknowledgement reaches the source of a packet. -/
  | acknowledgement
  /-- ORDERED_FLAG (R124). An ordered flag arrives and is held until its carried counts are applied, then applied. -/
  | orderedFlag
  /-- COUNT_ONLY_FLAG (R124). A count-only flag reconciles the order-table entry without writing. -/
  | countOnlyFlag
  /-- ATOMIC (R100). An atomic packet is performed in the remote atomic cache and replied. -/
  | atomic
  /-- CONTROL (R384). A control packet is received on lane 43. -/
  | control
  /-- REFUSED_PACKET_RESEND (R124). A counted packet refused for a full order table is sent again after 1 µs. -/
  | refusedPacketResend
  /-- INTEGRITY_BLOCK (R386). A received integrity block is verified, applied and acknowledged, or retransmitted. -/
  | integrityBlock
  /-- LINK_FAIL (R432). A link direction fails by integrity or by 10 µs without a verified block, and its packets are negatively acknowledged. -/
  | linkFail
  /-- LINK_KEYEXH (R433). A link direction with no NEXT key at counter 2^48 stops sending and enters KEYEXH. -/
  | linkKeyexh
  /-- PACKAGE_LOST (R434). After 1 ms with no usable link to it, a package is declared lost. -/
  | packageLost
  /-- SOFT_ERROR (R444). An uncorrectable soft error poisons a word or burst, and reads of it raise MEM.ERROR. -/
  | softError
  /-- POWER_SAMPLE (R19). Every 10 µs package power is measured and issue cycles inserted to hold the limit. -/
  | powerSample
  /-- JUNCTION_SAMPLE (R21). Every 10 µs junction sensors are read against the 105 °C and 115 °C thresholds. -/
  | junctionSample
  /-- LIMIT_STEP (R21). Every 1 ms the package limit is lowered or raised by 10% as temperature requires. -/
  | limitStep
  /-- POWER_LOSS (R22). Removal of power loses all device state. -/
  | powerLoss
  /-- POWER_UP (R388). At power-up the boot ROM runs and the PF enumerates with READY = 0 and a boot window. -/
  | powerUp
  /-- BOOTGO (R388). A write of 1 while not READY starts a boot attempt: checks, copy, wipe, key derivation and firmware start. -/
  | bootgo
  /-- QDESC (R299). Mailbox command that writes a queue descriptor the context holds. -/
  | qdesc
  /-- LOAD (R371). Mailbox command that loads a code object and returns its generation and measurement. -/
  | load
  /-- UNLOAD (R371). Mailbox command that marks a code generation UNLOADING and advances the code epoch. -/
  | unload
  /-- APERTURE (R381). Mailbox command that sets APBASE of the caller's function. -/
  | aperture
  /-- SETTICK (R314). Mailbox command that sets the slice length from the next tick. -/
  | settick
  /-- TRANSIT (R381). Mailbox command that marks a paused descendant in transit. -/
  | transit
  /-- MAILBOX_RESUME (R325). Mailbox command RESUME that resumes a migrated descendant, continuing its guest time. -/
  | mailboxResume
  /-- RKEY (R381). Mailbox command that writes the receipt public key and certificate. -/
  | rkey
  /-- LINKTAB (R381). Mailbox command that sets the fabric manager's link tables and enables links. -/
  | linktab
  /-- LINKKEY (R386). Mailbox command that writes the NEXT key of a link's send direction. -/
  | linkkey
  /-- LIFECYCLE (R390). Mailbox command that burns the target lifecycle state, wipes memory and removes power. -/
  | lifecycle
  /-- APSIZE (R381). Mailbox command that sets a disabled VF's aperture size. -/
  | apsize
  /-- HOST_WRITE (R379). A host write through CXL.mem or an aperture acts as a release at .pkg. -/
  | hostWrite
  /-- HOST_READ (R379). A host read through CXL.mem or an aperture returns data, 0xFF on fault or poison. -/
  | hostRead
  /-- REGISTER_WRITE (R377). A write to a BAR0 register with no behaviour of its own is stored or ignored. -/
  | registerWrite
  /-- MALFORMED_PACKET (R426). A Mirfila packet with TYPE 8 to 15, a reserved lane, an excess LEN or a nonzero reserved field is not applied; it may be acknowledged negatively, and LINK.FAIL cause 4 is raised. -/
  | malformedPacket
  /-- RESERVED_OPCODE (R381). A mailbox command whose OPCODE is reserved returns STATUS INVALID with the doorbell cleared and MSI-X vector 0 sent. -/
  | reservedOpcode
  /-- FUNCTION_ENABLE (R377). Enabling or disabling a PCIe function through CXL.io configuration resets its APBASE to 0 and decides whether APSIZE may be changed. -/
  | functionEnable
  /-- KEYSTONE_MAP_WRITE (R27). The firmware core writes the keystone's own tile-map and package-map entries directly. -/
  | keystoneMapWrite
  /-- POWER_LIMIT_SET (R19). The firmware core sets the package power limit, at most 3,000 W, that the power controller enforces. -/
  | powerLimitSet
  /-- CODE_STORE_DROP (R372). The code store drops a checked code page, so a later fetch reads and hash-checks the page again. -/
  | codeStoreDrop
  deriving DecidableEq, Repr

end Sys2Proof
end

