-- ==== Sys2Proof/WellFormed.lean ====
section
/-! DEFINITION. Which instructions are well formed: the operand codes that R127, R139 to R144, R169, R182 and R187 allow. -/

namespace Sys2Proof

/-- Why a word is a reserved encoding (R127, R425). -/
inductive Reserved where
  /-- a reserved op of the core's map. -/
  | op
  /-- a nonzero required-zero field, or a reserved func, SUB, KIND or handle field code. -/
  | field
  /-- a reserved cop FN7. -/
  | fn7
  /-- cop MODE 3, or a Post cop with a gd. -/
  | mode
  /-- a scope code 5 to 7. -/
  | scope
  /-- a loop end offset of 0 or less (R169). -/
  | offset
  /-- an odd or zero register pair (R187). -/
  | pair
  /-- a vector code that names nothing for its position (R139). -/
  | vcode
  /-- a format tag code that is not 1 to 10. -/
  | tag
  /-- an allotment count that R143 does not list. -/
  | count
  /-- a pcfg port code outside 56 to 61 (R218). -/
  | port
  deriving DecidableEq, Repr

/-- One check: the reason, where the condition fails. -/
def need (r : Reserved) (p : Prop) [Decidable p] : Option Reserved := if p then none else some r

/-- A code that a vector destination may hold (R139): v0 to v55, po0, po1. -/
abbrev isDst (c : VCode) : Prop := c.toNat ≤ 55 ∨ c.toNat = 60 ∨ c.toNat = 61

/-- A code that a vector source may hold (R139): v0 to v55, pi0 to pi3, vzero. -/
abbrev isSrc (c : VCode) : Prop := c.toNat ≤ 59 ∨ c.toNat = 62

/-- A tag 1 to 10 (R62). -/
abbrev isDataTag (t : BitVec 4) : Prop := 1 ≤ t.toNat ∧ t.toNat ≤ 10

/-- An allotment of R143: 8, 16, 24, 32, 40, 48 or 56. -/
abbrev isCount (n : BitVec 6) : Prop := n.toNat % 8 = 0 ∧ 8 ≤ n.toNat ∧ n.toNat ≤ 56

/-- The MODE rules of R144: 3 is reserved, and Post needs gd = 0. -/
def copForm (d : GReg) (m : BitVec 2) : Option Reserved := need .mode (m ≠ 3 ∧ (m = 0 → d = 0))

/-- The reason an instruction is a reserved encoding, or none. Steps without an encoding have no operand codes. -/
def illFormed : Instr → Option Reserved
  | .add _ _ _ => none
  | .sub _ _ _ => none
  | .and _ _ _ => none
  | .or _ _ _ => none
  | .xor _ _ _ => none
  | .sll _ _ _ => none
  | .srl _ _ _ => none
  | .sra _ _ _ => none
  | .slt _ _ _ => none
  | .sltu _ _ _ => none
  | .min _ _ _ => none
  | .max _ _ _ => none
  | .minu _ _ _ => none
  | .maxu _ _ _ => none
  | .add1s _ _ _ => none
  | .add2s _ _ _ => none
  | .add3s _ _ _ => none
  | .mul _ _ _ => none
  | .mulh _ _ _ => none
  | .mulhu _ _ _ => none
  | .mulhsu _ _ _ => none
  | .div _ _ _ => none
  | .divu _ _ _ => none
  | .rem _ _ _ => none
  | .remu _ _ _ => none
  | .addi _ _ _ => none
  | .andi _ _ _ => none
  | .ori _ _ _ => none
  | .xori _ _ _ => none
  | .slti _ _ _ => none
  | .sltiu _ _ _ => none
  | .slli _ _ _ => none
  | .srli _ _ _ => none
  | .srai _ _ _ => none
  | .lui _ _ => none
  | .auipc _ _ => none
  | .lb _ _ _ => none
  | .lbu _ _ _ => none
  | .lh _ _ _ => none
  | .lhu _ _ _ => none
  | .lw _ _ _ => none
  | .sb _ _ _ => none
  | .sh _ _ _ => none
  | .sw _ _ _ => none
  | .lld _ _ _ => none
  | .sul _ _ _ => none
  | .amoAdd _ _ _ => none
  | .amoMin _ _ _ => none
  | .amoMax _ _ _ => none
  | .amoAnd _ _ _ => none
  | .amoOr _ _ _ => none
  | .amoXor _ _ _ => none
  | .amoSwap _ _ _ => none
  | .amoCas _ _ _ => none
  | .beq _ _ _ => none
  | .bne _ _ _ => none
  | .blt _ _ _ => none
  | .bge _ _ _ => none
  | .bltu _ _ _ => none
  | .bgeu _ _ _ => none
  | .jal _ _ => none
  | .jalr _ _ _ => none
  | .loop _ k => need .offset (1 ≤ k.toInt)
  | .loopi _ k => need .offset (k ≠ 0)
  | .lbrk _ => none
  | .lbrkZ _ => none
  | .qput _ _ _ => none
  | .qputReg _ _ => none
  | .qtake _ _ _ => none
  | .qtakeReg _ _ _ => none
  | .qpeek _ _ => none
  | .qcount _ _ => none
  | .barInit _ _ _ => none
  | .barExpect _ _ _ => none
  | .barExpectClr _ _ _ => none
  | .barArrive _ => none
  | .barWait _ _ => none
  | .barWaitchk _ _ _ => none
  | .barTest _ _ _ => none
  | .barRetire _ => none
  | .fenceRel s => need .scope (s.toNat ≤ 4)
  | .fenceAcq s => need .scope (s.toNat ≤ 4)
  | .fenceAr s => need .scope (s.toNat ≤ 4)
  | .fenceAck => none
  | .hbar s => need .scope (s.toNat ≤ 4)
  | .csrR _ _ => none
  | .csrW _ _ _ => none
  | .csrS _ _ _ => none
  | .csrC _ _ _ => none
  | .hld _ _ => none
  | .hst _ _ => none
  | .hset _ _ f => need .field (f.toNat ≤ 14 ∧ f ≠ 13)
  | .hget _ _ f => need .field (f.toNat ≤ 14)
  | .hmov _ _ => none
  | .nop => none
  | .ecall => none
  | .ebreak => none
  | .done => none
  | .yield => none
  | .allreduce d _ _ m => copForm d m
  | .allgather d _ _ m => copForm d m
  | .reducescatter d _ _ m => copForm d m
  | .alltoall d _ _ m => copForm d m
  | .bcast d _ _ m => copForm d m
  | .cbar d _ _ m => copForm d m
  | .cstat d _ _ m => copForm d m
  | .ptabSet d _ _ m => copForm d m
  | .ptabGet d _ _ m => copForm d m
  | .placeConv d _ _ m => copForm d m
  | .meshSet d _ _ m => copForm d m
  | .rsPlan d _ _ m => copForm d m
  | .rsStart d _ _ m => copForm d m
  | .rsResume d _ _ m => copForm d m
  | .rsStatus d _ _ m => copForm d m
  | .rsAbort d _ _ m => copForm d m
  | .futInit d _ _ m => copForm d m
  | .futResolve d _ _ m => copForm d m
  | .futReg d _ _ m => copForm d m
  | .futPoison d _ _ m => copForm d m
  | .futRead d _ _ m => copForm d m
  | .ctxCreate d _ _ m => copForm d m
  | .ctxGrant d _ _ m => copForm d m
  | .ctxRevoke d _ _ m => copForm d m
  | .ctxDestroy d _ _ m => copForm d m
  | .ctxBudget d _ _ m => copForm d m
  | .ctxKey d _ _ m => copForm d m
  | .ctxScrub d _ _ m => copForm d m
  | .ctxReceipt d _ _ m => copForm d m
  | .nodeLaunch d _ _ m => copForm d m
  | .nodeStatus d _ _ m => copForm d m
  | .logArm d _ _ m => copForm d m
  | .logRead d _ _ m => copForm d m
  | .timeRead d _ _ m => copForm d m
  | .dmaLd _ _ _ _ _ => none
  | .dmaSt _ _ _ _ _ => none
  | .dmaCp _ _ _ _ _ => none
  | .dmaCpMc _ _ _ _ _ => none
  | .dmaIx _ _ _ _ d => need .pair (d ≠ 0)
  | .dmaSx _ _ _ _ d => need .pair (d ≠ 0)
  | .dmaRd _ _ _ _ d => need .pair (d ≠ 0)
  | .dmaWr _ _ _ _ d => need .pair (d ≠ 0)
  | .stRel _ _ g _ x => (need .pair (g ≠ 0)).or (need .scope (x.toNat ≤ 4))
  | .ldAcq _ _ g _ x => (need .pair (g ≠ 0)).or (need .scope (x.toNat ≤ 4))
  | .ratAdd _ _ g _ => need .pair (g ≠ 0)
  | .ratMin _ _ g _ => need .pair (g ≠ 0)
  | .ratMax _ _ g _ => need .pair (g ≠ 0)
  | .ratAnd _ _ g _ => need .pair (g ≠ 0)
  | .ratOr _ _ g _ => need .pair (g ≠ 0)
  | .ratXor _ _ g _ => need .pair (g ≠ 0)
  | .ratSwap _ _ g _ => need .pair (g ≠ 0)
  | .ratCas _ _ g _ => need .pair (g ≠ 0)
  | .rvat _ _ _ _ d => need .pair (d ≠ 0)
  | .ldPlace _ _ _ d => need .pair (d ≠ 0)
  | .stPlace _ _ _ d => need .pair (d ≠ 0)
  | .dmaProg _ _ => none
  | .dmaProgRec _ _ _ _ => none
  | .vadd _ a b c => need .vcode (isDst a ∧ isSrc b ∧ isSrc c)
  | .vsub _ a b c => need .vcode (isDst a ∧ isSrc b ∧ isSrc c)
  | .vmul _ a b c => need .vcode (isDst a ∧ isSrc b ∧ isSrc c)
  | .vmin _ a b c => need .vcode (isDst a ∧ isSrc b ∧ isSrc c)
  | .vmax _ a b c => need .vcode (isDst a ∧ isSrc b ∧ isSrc c)
  | .vabs _ a b => need .vcode (isDst a ∧ isSrc b)
  | .vneg _ a b => need .vcode (isDst a ∧ isSrc b)
  | .vand _ a b c => need .vcode (isDst a ∧ isSrc b ∧ isSrc c)
  | .vor _ a b c => need .vcode (isDst a ∧ isSrc b ∧ isSrc c)
  | .vxor _ a b c => need .vcode (isDst a ∧ isSrc b ∧ isSrc c)
  | .vnot _ a b => need .vcode (isDst a ∧ isSrc b)
  | .vsll _ a b c => need .vcode (isDst a ∧ isSrc b ∧ isSrc c)
  | .vsrl _ a b c => need .vcode (isDst a ∧ isSrc b ∧ isSrc c)
  | .vsra _ a b c => need .vcode (isDst a ∧ isSrc b ∧ isSrc c)
  | .vclz _ a b => need .vcode (isDst a ∧ isSrc b)
  | .vpopc _ a b => need .vcode (isDst a ∧ isSrc b)
  | .vcmpEq _ _ b c => need .vcode (isSrc b ∧ isSrc c)
  | .vcmpNe _ _ b c => need .vcode (isSrc b ∧ isSrc c)
  | .vcmpLt _ _ b c => need .vcode (isSrc b ∧ isSrc c)
  | .vcmpLe _ _ b c => need .vcode (isSrc b ∧ isSrc c)
  | .vcmpGt _ _ b c => need .vcode (isSrc b ∧ isSrc c)
  | .vcmpGe _ _ b c => need .vcode (isSrc b ∧ isSrc c)
  | .vredsum _ a b => need .vcode (isDst a ∧ isSrc b)
  | .vredmax _ a b => need .vcode (isDst a ∧ isSrc b)
  | .vredmin _ a b => need .vcode (isDst a ∧ isSrc b)
  | .vperm _ a b c => need .vcode (isDst a ∧ isSrc b ∧ isSrc c)
  | .vbcast _ a b _ => need .vcode (isDst a ∧ isSrc b)
  | .vbcastG _ a t _ => (need .vcode (isDst a)).or (need .tag (isDataTag t))
  | .vslideDn _ a b _ => need .vcode (isDst a ∧ isSrc b)
  | .vslideUp _ a b _ => need .vcode (isDst a ∧ isSrc b)
  | .vzip _ a b c => need .vcode (isDst a ∧ isSrc b ∧ isSrc c)
  | .vunzip _ a b c => need .vcode (isDst a ∧ isSrc b ∧ isSrc c)
  | .vcvt _ a b t => (need .vcode (isDst a ∧ isSrc b)).or (need .tag (isDataTag t))
  | .vmov _ a b => need .vcode (isDst a ∧ isSrc b)
  | .vrdacc _ a _ => need .vcode (a.toNat ≤ 55)
  | .vfma _ a b c => need .vcode (a.toNat ≤ 55 ∧ isSrc b ∧ isSrc c)
  | .vfsh _ a b c => need .vcode (a.toNat ≤ 55 ∧ isSrc b ∧ isSrc c)
  | .vmac _ a b c => need .vcode (a.toNat ≤ 55 ∧ isSrc b ∧ isSrc c)
  | .vsel _ a b _ => need .vcode (a.toNat ≤ 55 ∧ isSrc b)
  | .vld _ a _ _ t => (need .vcode (isDst a)).or (need .tag (isDataTag t))
  | .vldTg _ a _ _ => need .vcode (a.toNat ≤ 55)
  | .vst _ a _ _ => need .vcode (isSrc a)
  | .vstTg _ a _ _ => need .vcode (isSrc a)
  | .vstm _ a _ _ => need .vcode (isSrc a)
  | .vldx _ a _ c => need .vcode (isDst a ∧ isSrc c)
  | .mma _ _ _ => none
  | .mmaGx _ a _ _ => need .vcode (a.toNat ≤ 55)
  | .rzero _ => none
  | .rnext _ => none
  | .epi _ _ _ _ => none
  | .mscaleRow _ a => need .vcode (isSrc a)
  | .mscaleCol _ a => need .vcode (isSrc a)
  | .fadd _ _ _ _ => none
  | .fsub _ _ _ _ => none
  | .fmul _ _ _ _ => none
  | .ffma _ _ _ _ => none
  | .fmin _ _ _ _ => none
  | .fmax _ _ _ _ => none
  | .fcmp _ _ _ _ => none
  | .fdiv _ _ _ _ => none
  | .fsqrt _ _ _ => none
  | .fcvtWS _ _ _ => none
  | .fcvtWuS _ _ _ => none
  | .fcvtSW _ _ _ => none
  | .fcvtSWu _ _ _ => none
  | .fcvtBfS _ _ _ => none
  | .fcvtSBf _ _ _ => none
  | .fcvtHS _ _ _ => none
  | .fcvtSH _ _ _ => none
  | .pand _ _ _ _ => none
  | .por _ _ _ _ => none
  | .pnot _ _ _ => none
  | .pmov _ _ _ => none
  | .ppack _ d _ => need .vcode (isDst d)
  | .punpack _ _ v => need .vcode (isSrc v)
  | .valloc _ n => need .count (isCount n)
  | .vshrink _ n => need .count (isCount n)
  | .pcfg _ p _ _ => need .port (56 ≤ p.toNat ∧ p.toNat ≤ 61)
  | .time _ => none
  | .reservedEncoding _ => none
  | .collectiveEpisode => none
  | .memberLost => none
  | .trestleTransferComplete => none
  | .progressRecordWrite => none
  | .copReply => none
  | .engineCredit => none
  | .sourceCredit => none
  | .dmaCompletion => none
  | .engineFault => none
  | .mmaCompletion => none
  | .epiCompletion => none
  | .fixedLatencyWrite => none
  | .stopCapture => none
  | .trapDelivery => none
  | .handlerRun => none
  | .stateWindow => none
  | .resume => none
  | .resumeRetry => none
  | .skip => none
  | .kill => none
  | .pass => none
  | .deadlock => none
  | .lockLost => none
  | .leaseEnd => none
  | .packetNop => none
  | .node => none
  | .graph => none
  | .packetCompletion => none
  | .queuePoll => none
  | .heldLineInvalidate => none
  | .nodeDecrement => none
  | .distributorPlace => none
  | .dieReport => none
  | .taskCompletion => none
  | .sliceTick => none
  | .drainBound => none
  | .checkpoint => none
  | .saveCommit => none
  | .saveDeadline => none
  | .gracePeriodEnd => none
  | .restore => none
  | .heldEvent => none
  | .codePageCheck => none
  | .codeGenerationFree => none
  | .write => none
  | .readRequest => none
  | .readData => none
  | .acknowledgement => none
  | .orderedFlag => none
  | .countOnlyFlag => none
  | .atomic => none
  | .control => none
  | .refusedPacketResend => none
  | .integrityBlock => none
  | .linkFail => none
  | .linkKeyexh => none
  | .packageLost => none
  | .softError => none
  | .powerSample => none
  | .junctionSample => none
  | .limitStep => none
  | .powerLoss => none
  | .powerUp => none
  | .bootgo => none
  | .qdesc => none
  | .load => none
  | .unload => none
  | .aperture => none
  | .settick => none
  | .transit => none
  | .mailboxResume => none
  | .rkey => none
  | .linktab => none
  | .linkkey => none
  | .lifecycle => none
  | .apsize => none
  | .hostWrite => none
  | .hostRead => none
  | .registerWrite => none
  | .malformedPacket => none
  | .reservedOpcode => none
  | .functionEnable => none
  | .keystoneMapWrite => none
  | .powerLimitSet => none
  | .codeStoreDrop => none

/-- An instruction that R127 does not reserve. -/
def wellFormed (i : Instr) : Bool := (illFormed i).isNone

end Sys2Proof
end

