-- ==== Sys2Proof/Decode.lean ====
section
/-! DEFINITION. The decoder of each core (R126 to R145) and the encoder, both written from the encoding tables of chapter 06. -/

namespace Sys2Proof

/-- The n bits of w from bit lo up (R6: x[hi:lo]). -/
def fld {k : Nat} (lo n : Nat) (w : BitVec k) : BitVec n := w.extractLsb' lo n

/-- Token bits and stall count of a private word (R132). -/
def tokOf (w : Word) : Tok := ⟨fld 24 1 w == 1, fld 23 1 w == 1, fld 22 1 w == 1, fld 21 1 w == 1, fld 18 3 w⟩

/-- Bits [24:18] of a private word (R132). -/
def Tok.bits (k : Tok) : BitVec 7 :=
  BitVec.ofBool k.tka ++ BitVec.ofBool k.pta ++ BitVec.ofBool k.tkb ++ BitVec.ofBool k.ptb ++ k.stall

/-- Op 0x00 of the common map: add, sub, and, or, xor, sll, srl, sra, slt, sltu, min, max, minu, maxu, add1s, add2s, add3s. -/
def commonOp00 (w : Word) : Except Reserved Instr :=
  if fld 0 10 w = 0x0 then .ok (.add (fld 20 5 w) (fld 15 5 w) (fld 10 5 w)) else
  if fld 0 10 w = 0x1 then .ok (.sub (fld 20 5 w) (fld 15 5 w) (fld 10 5 w)) else
  if fld 0 10 w = 0x2 then .ok (.and (fld 20 5 w) (fld 15 5 w) (fld 10 5 w)) else
  if fld 0 10 w = 0x3 then .ok (.or (fld 20 5 w) (fld 15 5 w) (fld 10 5 w)) else
  if fld 0 10 w = 0x4 then .ok (.xor (fld 20 5 w) (fld 15 5 w) (fld 10 5 w)) else
  if fld 0 10 w = 0x5 then .ok (.sll (fld 20 5 w) (fld 15 5 w) (fld 10 5 w)) else
  if fld 0 10 w = 0x6 then .ok (.srl (fld 20 5 w) (fld 15 5 w) (fld 10 5 w)) else
  if fld 0 10 w = 0x7 then .ok (.sra (fld 20 5 w) (fld 15 5 w) (fld 10 5 w)) else
  if fld 0 10 w = 0x8 then .ok (.slt (fld 20 5 w) (fld 15 5 w) (fld 10 5 w)) else
  if fld 0 10 w = 0x9 then .ok (.sltu (fld 20 5 w) (fld 15 5 w) (fld 10 5 w)) else
  if fld 0 10 w = 0xa then .ok (.min (fld 20 5 w) (fld 15 5 w) (fld 10 5 w)) else
  if fld 0 10 w = 0xb then .ok (.max (fld 20 5 w) (fld 15 5 w) (fld 10 5 w)) else
  if fld 0 10 w = 0xc then .ok (.minu (fld 20 5 w) (fld 15 5 w) (fld 10 5 w)) else
  if fld 0 10 w = 0xd then .ok (.maxu (fld 20 5 w) (fld 15 5 w) (fld 10 5 w)) else
  if fld 0 10 w = 0xe then .ok (.add1s (fld 20 5 w) (fld 15 5 w) (fld 10 5 w)) else
  if fld 0 10 w = 0xf then .ok (.add2s (fld 20 5 w) (fld 15 5 w) (fld 10 5 w)) else
  if fld 0 10 w = 0x10 then .ok (.add3s (fld 20 5 w) (fld 15 5 w) (fld 10 5 w)) else
  .error .field

/-- Op 0x01 of the common map: mul, mulh, mulhu, mulhsu, div, divu, rem, remu. -/
def commonOp01 (w : Word) : Except Reserved Instr :=
  if fld 0 10 w = 0x0 then .ok (.mul (fld 20 5 w) (fld 15 5 w) (fld 10 5 w)) else
  if fld 0 10 w = 0x1 then .ok (.mulh (fld 20 5 w) (fld 15 5 w) (fld 10 5 w)) else
  if fld 0 10 w = 0x2 then .ok (.mulhu (fld 20 5 w) (fld 15 5 w) (fld 10 5 w)) else
  if fld 0 10 w = 0x3 then .ok (.mulhsu (fld 20 5 w) (fld 15 5 w) (fld 10 5 w)) else
  if fld 0 10 w = 0x4 then .ok (.div (fld 20 5 w) (fld 15 5 w) (fld 10 5 w)) else
  if fld 0 10 w = 0x5 then .ok (.divu (fld 20 5 w) (fld 15 5 w) (fld 10 5 w)) else
  if fld 0 10 w = 0x6 then .ok (.rem (fld 20 5 w) (fld 15 5 w) (fld 10 5 w)) else
  if fld 0 10 w = 0x7 then .ok (.remu (fld 20 5 w) (fld 15 5 w) (fld 10 5 w)) else
  .error .field

/-- Op 0x08 of the common map: slli, srli, srai. -/
def commonOp08 (w : Word) : Except Reserved Instr :=
  if fld 5 10 w = 0x0 then .ok (.slli (fld 20 5 w) (fld 15 5 w) (fld 0 5 w)) else
  if fld 5 10 w = 0x1 then .ok (.srli (fld 20 5 w) (fld 15 5 w) (fld 0 5 w)) else
  if fld 5 10 w = 0x2 then .ok (.srai (fld 20 5 w) (fld 15 5 w) (fld 0 5 w)) else
  .error .field

/-- Op 0x15 of the common map: amoAdd, amoMin, amoMax, amoAnd, amoOr, amoXor, amoSwap, amoCas. -/
def commonOp15 (w : Word) : Except Reserved Instr :=
  if fld 0 10 w = 0x0 then .ok (.amoAdd (fld 20 5 w) (fld 15 5 w) (fld 10 5 w)) else
  if fld 0 10 w = 0x1 then .ok (.amoMin (fld 20 5 w) (fld 15 5 w) (fld 10 5 w)) else
  if fld 0 10 w = 0x2 then .ok (.amoMax (fld 20 5 w) (fld 15 5 w) (fld 10 5 w)) else
  if fld 0 10 w = 0x3 then .ok (.amoAnd (fld 20 5 w) (fld 15 5 w) (fld 10 5 w)) else
  if fld 0 10 w = 0x4 then .ok (.amoOr (fld 20 5 w) (fld 15 5 w) (fld 10 5 w)) else
  if fld 0 10 w = 0x5 then .ok (.amoXor (fld 20 5 w) (fld 15 5 w) (fld 10 5 w)) else
  if fld 0 10 w = 0x6 then .ok (.amoSwap (fld 20 5 w) (fld 15 5 w) (fld 10 5 w)) else
  if fld 0 10 w = 0x7 then .ok (.amoCas (fld 20 5 w) (fld 15 5 w) (fld 10 5 w)) else
  .error .field

/-- Op 0x1e of the common map: loop. -/
def commonOp1e (w : Word) : Except Reserved Instr :=
  if fld 15 5 w = 0x0 then .ok (.loop (fld 20 5 w) (fld 0 15 w)) else
  .error .field

/-- Op 0x1f of the common map: loopi. -/
def commonOp1f (w : Word) : Except Reserved Instr :=
  if fld 20 5 w = 0x0 then .ok (.loopi (fld 10 10 w) (fld 0 10 w)) else
  .error .field

/-- Op 0x20 of the common map: lbrk, lbrkZ. -/
def commonOp20 (w : Word) : Except Reserved Instr :=
  if fld 20 5 w = 0x0 ∧ fld 0 15 w = 0x0 then .ok (.lbrk (fld 15 5 w)) else
  if fld 20 5 w = 0x0 ∧ fld 0 15 w = 0x1 then .ok (.lbrkZ (fld 15 5 w)) else
  .error .field

/-- Op 0x21 of the common map: qputReg, qpeek, qcount, qput, qtake, qtakeReg. -/
def commonOp21 (w : Word) : Except Reserved Instr :=
  if fld 20 5 w = 0x0 ∧ fld 13 2 w = 0x0 ∧ fld 0 12 w = 0x800 then .ok (.qputReg (fld 15 5 w) (fld 12 1 w)) else
  if fld 13 7 w = 0x2 ∧ fld 0 12 w = 0x0 then .ok (.qpeek (fld 20 5 w) (fld 12 1 w)) else
  if fld 13 7 w = 0x3 ∧ fld 0 12 w = 0x0 then .ok (.qcount (fld 20 5 w) (fld 12 1 w)) else
  if fld 13 12 w = 0x0 ∧ fld 11 1 w = 0x0 ∧ fld 0 3 w = 0x0 then .ok (.qput (fld 12 1 w) (fld 8 3 w) (fld 3 5 w)) else
  if fld 13 7 w = 0x1 ∧ fld 11 1 w = 0x0 ∧ fld 0 8 w = 0x0 then .ok (.qtake (fld 20 5 w) (fld 12 1 w) (fld 8 3 w)) else
  if fld 13 2 w = 0x1 ∧ fld 0 12 w = 0x800 then .ok (.qtakeReg (fld 20 5 w) (fld 15 5 w) (fld 12 1 w)) else
  .error .field

/-- Op 0x22 of the common map: barArrive, barRetire, barWait, barInit, barExpect, barExpectClr, barWaitchk, barTest. -/
def commonOp22 (w : Word) : Except Reserved Instr :=
  if fld 20 5 w = 0x0 ∧ fld 0 15 w = 0x2 then .ok (.barArrive (fld 15 5 w)) else
  if fld 20 5 w = 0x0 ∧ fld 0 15 w = 0x6 then .ok (.barRetire (fld 15 5 w)) else
  if fld 20 5 w = 0x0 ∧ fld 0 10 w = 0x3 then .ok (.barWait (fld 15 5 w) (fld 10 5 w)) else
  if fld 0 10 w = 0x0 then .ok (.barInit (fld 20 5 w) (fld 15 5 w) (fld 10 5 w)) else
  if fld 0 10 w = 0x1 then .ok (.barExpect (fld 20 5 w) (fld 15 5 w) (fld 10 5 w)) else
  if fld 0 10 w = 0x9 then .ok (.barExpectClr (fld 20 5 w) (fld 15 5 w) (fld 10 5 w)) else
  if fld 0 10 w = 0x4 then .ok (.barWaitchk (fld 20 5 w) (fld 15 5 w) (fld 10 5 w)) else
  if fld 0 10 w = 0x5 then .ok (.barTest (fld 20 5 w) (fld 15 5 w) (fld 10 5 w)) else
  .error .field

/-- Op 0x23 of the common map: fenceAck, fenceRel, fenceAcq, fenceAr. -/
def commonOp23 (w : Word) : Except Reserved Instr :=
  if fld 0 25 w = 0x18 then .ok (.fenceAck) else
  if fld 3 22 w = 0x0 then .ok (.fenceRel (fld 0 3 w)) else
  if fld 3 22 w = 0x1 then .ok (.fenceAcq (fld 0 3 w)) else
  if fld 3 22 w = 0x2 then .ok (.fenceAr (fld 0 3 w)) else
  .error .field

/-- Op 0x24 of the common map: hbar. -/
def commonOp24 (w : Word) : Except Reserved Instr :=
  if fld 3 22 w = 0x0 then .ok (.hbar (fld 0 3 w)) else
  .error .field

/-- Op 0x25 of the common map: csrR, csrW, csrS, csrC. -/
def commonOp25 (w : Word) : Except Reserved Instr :=
  if fld 12 8 w = 0x0 then .ok (.csrR (fld 20 5 w) (fld 0 12 w)) else
  if fld 12 3 w = 0x1 then .ok (.csrW (fld 20 5 w) (fld 15 5 w) (fld 0 12 w)) else
  if fld 12 3 w = 0x2 then .ok (.csrS (fld 20 5 w) (fld 15 5 w) (fld 0 12 w)) else
  if fld 12 3 w = 0x3 then .ok (.csrC (fld 20 5 w) (fld 15 5 w) (fld 0 12 w)) else
  .error .field

/-- Op 0x26 of the common map: hmov, hld, hst, hset, hget. -/
def commonOp26 (w : Word) : Except Reserved Instr :=
  if fld 24 1 w = 0x0 ∧ fld 19 1 w = 0x0 ∧ fld 0 15 w = 0x4 then .ok (.hmov (fld 20 4 w) (fld 15 4 w)) else
  if fld 24 1 w = 0x0 ∧ fld 0 15 w = 0x0 then .ok (.hld (fld 20 4 w) (fld 15 5 w)) else
  if fld 24 1 w = 0x0 ∧ fld 0 15 w = 0x1 then .ok (.hst (fld 20 4 w) (fld 15 5 w)) else
  if fld 24 1 w = 0x0 ∧ fld 15 5 w = 0x0 ∧ fld 8 2 w = 0x0 ∧ fld 0 3 w = 0x2 then .ok (.hset (fld 20 4 w) (fld 10 5 w) (fld 3 5 w)) else
  if fld 19 1 w = 0x0 ∧ fld 8 7 w = 0x0 ∧ fld 0 3 w = 0x3 then .ok (.hget (fld 20 5 w) (fld 15 4 w) (fld 3 5 w)) else
  .error .field

/-- Op 0x27 of the common map: allreduce, allgather, reducescatter, alltoall, bcast, cbar, cstat, ptabSet, ptabGet, placeConv, meshSet, rsPlan, rsStart, rsResume, rsStatus, rsAbort, futInit, futResolve, futReg, futPoison, futRead, ctxCreate, ctxGrant, ctxRevoke, ctxDestroy, ctxBudget, ctxKey, ctxScrub, ctxReceipt, nodeLaunch, nodeStatus, logArm, logRead, timeRead. -/
def commonOp27 (w : Word) : Except Reserved Instr :=
  if fld 0 8 w = 0x0 then .ok (.allreduce (fld 20 5 w) (fld 15 5 w) (fld 10 5 w) (fld 8 2 w)) else
  if fld 0 8 w = 0x1 then .ok (.allgather (fld 20 5 w) (fld 15 5 w) (fld 10 5 w) (fld 8 2 w)) else
  if fld 0 8 w = 0x2 then .ok (.reducescatter (fld 20 5 w) (fld 15 5 w) (fld 10 5 w) (fld 8 2 w)) else
  if fld 0 8 w = 0x3 then .ok (.alltoall (fld 20 5 w) (fld 15 5 w) (fld 10 5 w) (fld 8 2 w)) else
  if fld 0 8 w = 0x4 then .ok (.bcast (fld 20 5 w) (fld 15 5 w) (fld 10 5 w) (fld 8 2 w)) else
  if fld 0 8 w = 0x5 then .ok (.cbar (fld 20 5 w) (fld 15 5 w) (fld 10 5 w) (fld 8 2 w)) else
  if fld 0 8 w = 0x6 then .ok (.cstat (fld 20 5 w) (fld 15 5 w) (fld 10 5 w) (fld 8 2 w)) else
  if fld 0 8 w = 0x20 then .ok (.ptabSet (fld 20 5 w) (fld 15 5 w) (fld 10 5 w) (fld 8 2 w)) else
  if fld 0 8 w = 0x21 then .ok (.ptabGet (fld 20 5 w) (fld 15 5 w) (fld 10 5 w) (fld 8 2 w)) else
  if fld 0 8 w = 0x22 then .ok (.placeConv (fld 20 5 w) (fld 15 5 w) (fld 10 5 w) (fld 8 2 w)) else
  if fld 0 8 w = 0x23 then .ok (.meshSet (fld 20 5 w) (fld 15 5 w) (fld 10 5 w) (fld 8 2 w)) else
  if fld 0 8 w = 0x30 then .ok (.rsPlan (fld 20 5 w) (fld 15 5 w) (fld 10 5 w) (fld 8 2 w)) else
  if fld 0 8 w = 0x31 then .ok (.rsStart (fld 20 5 w) (fld 15 5 w) (fld 10 5 w) (fld 8 2 w)) else
  if fld 0 8 w = 0x32 then .ok (.rsResume (fld 20 5 w) (fld 15 5 w) (fld 10 5 w) (fld 8 2 w)) else
  if fld 0 8 w = 0x33 then .ok (.rsStatus (fld 20 5 w) (fld 15 5 w) (fld 10 5 w) (fld 8 2 w)) else
  if fld 0 8 w = 0x34 then .ok (.rsAbort (fld 20 5 w) (fld 15 5 w) (fld 10 5 w) (fld 8 2 w)) else
  if fld 0 8 w = 0x40 then .ok (.futInit (fld 20 5 w) (fld 15 5 w) (fld 10 5 w) (fld 8 2 w)) else
  if fld 0 8 w = 0x41 then .ok (.futResolve (fld 20 5 w) (fld 15 5 w) (fld 10 5 w) (fld 8 2 w)) else
  if fld 0 8 w = 0x42 then .ok (.futReg (fld 20 5 w) (fld 15 5 w) (fld 10 5 w) (fld 8 2 w)) else
  if fld 0 8 w = 0x43 then .ok (.futPoison (fld 20 5 w) (fld 15 5 w) (fld 10 5 w) (fld 8 2 w)) else
  if fld 0 8 w = 0x44 then .ok (.futRead (fld 20 5 w) (fld 15 5 w) (fld 10 5 w) (fld 8 2 w)) else
  if fld 0 8 w = 0x50 then .ok (.ctxCreate (fld 20 5 w) (fld 15 5 w) (fld 10 5 w) (fld 8 2 w)) else
  if fld 0 8 w = 0x51 then .ok (.ctxGrant (fld 20 5 w) (fld 15 5 w) (fld 10 5 w) (fld 8 2 w)) else
  if fld 0 8 w = 0x52 then .ok (.ctxRevoke (fld 20 5 w) (fld 15 5 w) (fld 10 5 w) (fld 8 2 w)) else
  if fld 0 8 w = 0x53 then .ok (.ctxDestroy (fld 20 5 w) (fld 15 5 w) (fld 10 5 w) (fld 8 2 w)) else
  if fld 0 8 w = 0x54 then .ok (.ctxBudget (fld 20 5 w) (fld 15 5 w) (fld 10 5 w) (fld 8 2 w)) else
  if fld 0 8 w = 0x55 then .ok (.ctxKey (fld 20 5 w) (fld 15 5 w) (fld 10 5 w) (fld 8 2 w)) else
  if fld 0 8 w = 0x56 then .ok (.ctxScrub (fld 20 5 w) (fld 15 5 w) (fld 10 5 w) (fld 8 2 w)) else
  if fld 0 8 w = 0x57 then .ok (.ctxReceipt (fld 20 5 w) (fld 15 5 w) (fld 10 5 w) (fld 8 2 w)) else
  if fld 0 8 w = 0x60 then .ok (.nodeLaunch (fld 20 5 w) (fld 15 5 w) (fld 10 5 w) (fld 8 2 w)) else
  if fld 0 8 w = 0x61 then .ok (.nodeStatus (fld 20 5 w) (fld 15 5 w) (fld 10 5 w) (fld 8 2 w)) else
  if fld 0 8 w = 0x68 then .ok (.logArm (fld 20 5 w) (fld 15 5 w) (fld 10 5 w) (fld 8 2 w)) else
  if fld 0 8 w = 0x69 then .ok (.logRead (fld 20 5 w) (fld 15 5 w) (fld 10 5 w) (fld 8 2 w)) else
  if fld 0 8 w = 0x6a then .ok (.timeRead (fld 20 5 w) (fld 15 5 w) (fld 10 5 w) (fld 8 2 w)) else
  .error .fn7

/-- Op 0x28 of the common map: nop, ecall, ebreak, done, yield. -/
def commonOp28 (w : Word) : Except Reserved Instr :=
  if fld 0 25 w = 0x0 then .ok (.nop) else
  if fld 0 25 w = 0x1 then .ok (.ecall) else
  if fld 0 25 w = 0x2 then .ok (.ebreak) else
  if fld 0 25 w = 0x3 then .ok (.done) else
  if fld 0 25 w = 0x4 then .ok (.yield) else
  .error .field

/-- The common half (R129 to R131, R49, R174, R177, R180, R182, R185, R145). -/
def decodeCommon (w : Word) : Except Reserved Instr :=
  match (fld 25 6 w).toNat with
  | 0x00 => commonOp00 w
  | 0x01 => commonOp01 w
  | 0x02 => .ok (.addi (fld 20 5 w) (fld 15 5 w) (fld 0 15 w))
  | 0x03 => .ok (.andi (fld 20 5 w) (fld 15 5 w) (fld 0 15 w))
  | 0x04 => .ok (.ori (fld 20 5 w) (fld 15 5 w) (fld 0 15 w))
  | 0x05 => .ok (.xori (fld 20 5 w) (fld 15 5 w) (fld 0 15 w))
  | 0x06 => .ok (.slti (fld 20 5 w) (fld 15 5 w) (fld 0 15 w))
  | 0x07 => .ok (.sltiu (fld 20 5 w) (fld 15 5 w) (fld 0 15 w))
  | 0x08 => commonOp08 w
  | 0x09 => .ok (.lui (fld 20 5 w) (fld 0 20 w))
  | 0x0a => .ok (.auipc (fld 20 5 w) (fld 0 20 w))
  | 0x0b => .ok (.lb (fld 20 5 w) (fld 15 5 w) (fld 0 15 w))
  | 0x0c => .ok (.lbu (fld 20 5 w) (fld 15 5 w) (fld 0 15 w))
  | 0x0d => .ok (.lh (fld 20 5 w) (fld 15 5 w) (fld 0 15 w))
  | 0x0e => .ok (.lhu (fld 20 5 w) (fld 15 5 w) (fld 0 15 w))
  | 0x0f => .ok (.lw (fld 20 5 w) (fld 15 5 w) (fld 0 15 w))
  | 0x10 => .ok (.sb (fld 20 5 w) (fld 15 5 w) (fld 0 15 w))
  | 0x11 => .ok (.sh (fld 20 5 w) (fld 15 5 w) (fld 0 15 w))
  | 0x12 => .ok (.sw (fld 20 5 w) (fld 15 5 w) (fld 0 15 w))
  | 0x13 => .ok (.lld (fld 20 5 w) (fld 15 5 w) (fld 0 15 w))
  | 0x14 => .ok (.sul (fld 20 5 w) (fld 15 5 w) (fld 0 15 w))
  | 0x15 => commonOp15 w
  | 0x16 => .ok (.beq (fld 20 5 w) (fld 15 5 w) (fld 0 15 w))
  | 0x17 => .ok (.bne (fld 20 5 w) (fld 15 5 w) (fld 0 15 w))
  | 0x18 => .ok (.blt (fld 20 5 w) (fld 15 5 w) (fld 0 15 w))
  | 0x19 => .ok (.bge (fld 20 5 w) (fld 15 5 w) (fld 0 15 w))
  | 0x1a => .ok (.bltu (fld 20 5 w) (fld 15 5 w) (fld 0 15 w))
  | 0x1b => .ok (.bgeu (fld 20 5 w) (fld 15 5 w) (fld 0 15 w))
  | 0x1c => .ok (.jal (fld 20 5 w) (fld 0 20 w))
  | 0x1d => .ok (.jalr (fld 20 5 w) (fld 15 5 w) (fld 0 15 w))
  | 0x1e => commonOp1e w
  | 0x1f => commonOp1f w
  | 0x20 => commonOp20 w
  | 0x21 => commonOp21 w
  | 0x22 => commonOp22 w
  | 0x23 => commonOp23 w
  | 0x24 => commonOp24 w
  | 0x25 => commonOp25 w
  | 0x26 => commonOp26 w
  | 0x27 => commonOp27 w
  | 0x28 => commonOp28 w
  | _ => .error .op

/-- Op 0x02 of the transfer map: dmaCp, dmaCpMc. -/
def transferOp02 (w : Word) : Except Reserved Instr :=
  if fld 4 1 w = 0x0 then .ok (.dmaCp (tokOf w) (fld 14 4 w) (fld 10 4 w) (fld 5 5 w) (fld 0 4 w)) else
  if fld 4 1 w = 0x1 then .ok (.dmaCpMc (tokOf w) (fld 14 4 w) (fld 10 4 w) (fld 5 5 w) (fld 0 4 w)) else
  .error .field

/-- Op 0x03 of the transfer map: dmaIx. -/
def transferOp03 (w : Word) : Except Reserved Instr :=
  if fld 0 1 w = 0x0 then .ok (.dmaIx (tokOf w) (fld 14 4 w) (fld 10 4 w) (fld 5 5 w) (fld 1 4 w)) else
  .error .field

/-- Op 0x04 of the transfer map: dmaSx. -/
def transferOp04 (w : Word) : Except Reserved Instr :=
  if fld 0 1 w = 0x0 then .ok (.dmaSx (tokOf w) (fld 14 4 w) (fld 10 4 w) (fld 5 5 w) (fld 1 4 w)) else
  .error .field

/-- Op 0x05 of the transfer map: dmaRd. -/
def transferOp05 (w : Word) : Except Reserved Instr :=
  if fld 0 1 w = 0x0 then .ok (.dmaRd (tokOf w) (fld 14 4 w) (fld 10 4 w) (fld 5 5 w) (fld 1 4 w)) else
  .error .field

/-- Op 0x06 of the transfer map: dmaWr. -/
def transferOp06 (w : Word) : Except Reserved Instr :=
  if fld 0 1 w = 0x0 then .ok (.dmaWr (tokOf w) (fld 14 4 w) (fld 10 4 w) (fld 5 5 w) (fld 1 4 w)) else
  .error .field

/-- Op 0x07 of the transfer map: stRel. -/
def transferOp07 (w : Word) : Except Reserved Instr :=
  if fld 8 1 w = 0x0 then .ok (.stRel (tokOf w) (fld 13 5 w) (fld 9 4 w) (fld 3 5 w) (fld 0 3 w)) else
  .error .field

/-- Op 0x08 of the transfer map: ldAcq. -/
def transferOp08 (w : Word) : Except Reserved Instr :=
  if fld 8 1 w = 0x0 then .ok (.ldAcq (tokOf w) (fld 13 5 w) (fld 9 4 w) (fld 3 5 w) (fld 0 3 w)) else
  .error .field

/-- Op 0x09 of the transfer map: ratAdd, ratMin, ratMax, ratAnd, ratOr, ratXor, ratSwap, ratCas. -/
def transferOp09 (w : Word) : Except Reserved Instr :=
  if fld 8 1 w = 0x0 ∧ fld 0 3 w = 0x0 then .ok (.ratAdd (tokOf w) (fld 13 5 w) (fld 9 4 w) (fld 3 5 w)) else
  if fld 8 1 w = 0x0 ∧ fld 0 3 w = 0x1 then .ok (.ratMin (tokOf w) (fld 13 5 w) (fld 9 4 w) (fld 3 5 w)) else
  if fld 8 1 w = 0x0 ∧ fld 0 3 w = 0x2 then .ok (.ratMax (tokOf w) (fld 13 5 w) (fld 9 4 w) (fld 3 5 w)) else
  if fld 8 1 w = 0x0 ∧ fld 0 3 w = 0x3 then .ok (.ratAnd (tokOf w) (fld 13 5 w) (fld 9 4 w) (fld 3 5 w)) else
  if fld 8 1 w = 0x0 ∧ fld 0 3 w = 0x4 then .ok (.ratOr (tokOf w) (fld 13 5 w) (fld 9 4 w) (fld 3 5 w)) else
  if fld 8 1 w = 0x0 ∧ fld 0 3 w = 0x5 then .ok (.ratXor (tokOf w) (fld 13 5 w) (fld 9 4 w) (fld 3 5 w)) else
  if fld 8 1 w = 0x0 ∧ fld 0 3 w = 0x6 then .ok (.ratSwap (tokOf w) (fld 13 5 w) (fld 9 4 w) (fld 3 5 w)) else
  if fld 8 1 w = 0x0 ∧ fld 0 3 w = 0x7 then .ok (.ratCas (tokOf w) (fld 13 5 w) (fld 9 4 w) (fld 3 5 w)) else
  .error .field

/-- Op 0x0a of the transfer map: rvat. -/
def transferOp0a (w : Word) : Except Reserved Instr :=
  if fld 0 1 w = 0x0 then .ok (.rvat (tokOf w) (fld 14 4 w) (fld 10 4 w) (fld 5 5 w) (fld 1 4 w)) else
  .error .field

/-- Op 0x0b of the transfer map: ldPlace. -/
def transferOp0b (w : Word) : Except Reserved Instr :=
  if fld 10 4 w = 0x0 ∧ fld 0 1 w = 0x0 then .ok (.ldPlace (tokOf w) (fld 14 4 w) (fld 5 5 w) (fld 1 4 w)) else
  .error .field

/-- Op 0x0c of the transfer map: stPlace. -/
def transferOp0c (w : Word) : Except Reserved Instr :=
  if fld 14 4 w = 0x0 ∧ fld 0 1 w = 0x0 then .ok (.stPlace (tokOf w) (fld 10 4 w) (fld 5 5 w) (fld 1 4 w)) else
  .error .field

/-- Op 0x0d of the transfer map: dmaProg, dmaProgRec. -/
def transferOp0d (w : Word) : Except Reserved Instr :=
  if fld 0 13 w = 0x0 then .ok (.dmaProg (tokOf w) (fld 13 5 w)) else
  if fld 0 3 w = 0x1 then .ok (.dmaProgRec (tokOf w) (fld 13 5 w) (fld 8 5 w) (fld 3 5 w)) else
  .error .field

/-- The transfer map (R137). -/
def decodeTransfer (w : Word) : Except Reserved Instr :=
  match (fld 25 6 w).toNat with
  | 0x00 => .ok (.dmaLd (tokOf w) (fld 14 4 w) (fld 10 4 w) (fld 5 5 w) (fld 0 5 w))
  | 0x01 => .ok (.dmaSt (tokOf w) (fld 14 4 w) (fld 10 4 w) (fld 5 5 w) (fld 0 5 w))
  | 0x02 => transferOp02 w
  | 0x03 => transferOp03 w
  | 0x04 => transferOp04 w
  | 0x05 => transferOp05 w
  | 0x06 => transferOp06 w
  | 0x07 => transferOp07 w
  | 0x08 => transferOp08 w
  | 0x09 => transferOp09 w
  | 0x0a => transferOp0a w
  | 0x0b => transferOp0b w
  | 0x0c => transferOp0c w
  | 0x0d => transferOp0d w
  | _ => .error .op

/-- Op 0x05 of the compute map: vabs. -/
def computeOp05 (w : Word) : Except Reserved Instr :=
  if fld 0 6 w = 0x0 then .ok (.vabs (tokOf w) (fld 12 6 w) (fld 6 6 w)) else
  .error .field

/-- Op 0x06 of the compute map: vneg. -/
def computeOp06 (w : Word) : Except Reserved Instr :=
  if fld 0 6 w = 0x0 then .ok (.vneg (tokOf w) (fld 12 6 w) (fld 6 6 w)) else
  .error .field

/-- Op 0x0a of the compute map: vnot. -/
def computeOp0a (w : Word) : Except Reserved Instr :=
  if fld 0 6 w = 0x0 then .ok (.vnot (tokOf w) (fld 12 6 w) (fld 6 6 w)) else
  .error .field

/-- Op 0x0e of the compute map: vclz. -/
def computeOp0e (w : Word) : Except Reserved Instr :=
  if fld 0 6 w = 0x0 then .ok (.vclz (tokOf w) (fld 12 6 w) (fld 6 6 w)) else
  .error .field

/-- Op 0x0f of the compute map: vpopc. -/
def computeOp0f (w : Word) : Except Reserved Instr :=
  if fld 0 6 w = 0x0 then .ok (.vpopc (tokOf w) (fld 12 6 w) (fld 6 6 w)) else
  .error .field

/-- Op 0x10 of the compute map: vcmpEq, vcmpNe, vcmpLt, vcmpLe, vcmpGt, vcmpGe. -/
def computeOp10 (w : Word) : Except Reserved Instr :=
  if fld 15 3 w = 0x0 then .ok (.vcmpEq (tokOf w) (fld 12 3 w) (fld 6 6 w) (fld 0 6 w)) else
  if fld 15 3 w = 0x1 then .ok (.vcmpNe (tokOf w) (fld 12 3 w) (fld 6 6 w) (fld 0 6 w)) else
  if fld 15 3 w = 0x2 then .ok (.vcmpLt (tokOf w) (fld 12 3 w) (fld 6 6 w) (fld 0 6 w)) else
  if fld 15 3 w = 0x3 then .ok (.vcmpLe (tokOf w) (fld 12 3 w) (fld 6 6 w) (fld 0 6 w)) else
  if fld 15 3 w = 0x4 then .ok (.vcmpGt (tokOf w) (fld 12 3 w) (fld 6 6 w) (fld 0 6 w)) else
  if fld 15 3 w = 0x5 then .ok (.vcmpGe (tokOf w) (fld 12 3 w) (fld 6 6 w) (fld 0 6 w)) else
  .error .field

/-- Op 0x11 of the compute map: vredsum. -/
def computeOp11 (w : Word) : Except Reserved Instr :=
  if fld 0 6 w = 0x0 then .ok (.vredsum (tokOf w) (fld 12 6 w) (fld 6 6 w)) else
  .error .field

/-- Op 0x12 of the compute map: vredmax. -/
def computeOp12 (w : Word) : Except Reserved Instr :=
  if fld 0 6 w = 0x0 then .ok (.vredmax (tokOf w) (fld 12 6 w) (fld 6 6 w)) else
  .error .field

/-- Op 0x13 of the compute map: vredmin. -/
def computeOp13 (w : Word) : Except Reserved Instr :=
  if fld 0 6 w = 0x0 then .ok (.vredmin (tokOf w) (fld 12 6 w) (fld 6 6 w)) else
  .error .field

/-- Op 0x15 of the compute map: vbcastG, vbcast. -/
def computeOp15 (w : Word) : Except Reserved Instr :=
  if fld 10 2 w = 0x0 ∧ fld 5 1 w = 0x1 then .ok (.vbcastG (tokOf w) (fld 12 6 w) (fld 6 4 w) (fld 0 5 w)) else
  if fld 5 1 w = 0x0 then .ok (.vbcast (tokOf w) (fld 12 6 w) (fld 6 6 w) (fld 0 5 w)) else
  .error .field

/-- Op 0x16 of the compute map: vslideDn, vslideUp. -/
def computeOp16 (w : Word) : Except Reserved Instr :=
  if fld 5 1 w = 0x0 then .ok (.vslideDn (tokOf w) (fld 12 6 w) (fld 6 6 w) (fld 0 5 w)) else
  if fld 5 1 w = 0x1 then .ok (.vslideUp (tokOf w) (fld 12 6 w) (fld 6 6 w) (fld 0 5 w)) else
  .error .field

/-- Op 0x19 of the compute map: vcvt. -/
def computeOp19 (w : Word) : Except Reserved Instr :=
  if fld 4 2 w = 0x0 then .ok (.vcvt (tokOf w) (fld 12 6 w) (fld 6 6 w) (fld 0 4 w)) else
  .error .field

/-- Op 0x1a of the compute map: vmov. -/
def computeOp1a (w : Word) : Except Reserved Instr :=
  if fld 0 6 w = 0x0 then .ok (.vmov (tokOf w) (fld 12 6 w) (fld 6 6 w)) else
  .error .field

/-- Op 0x1b of the compute map: vrdacc. -/
def computeOp1b (w : Word) : Except Reserved Instr :=
  if fld 5 7 w = 0x0 then .ok (.vrdacc (tokOf w) (fld 12 6 w) (fld 0 5 w)) else
  .error .field

/-- Op 0x23 of the compute map: vsel. -/
def computeOp23 (w : Word) : Except Reserved Instr :=
  if fld 3 3 w = 0x0 then .ok (.vsel (tokOf w) (fld 12 6 w) (fld 6 6 w) (fld 0 3 w)) else
  .error .field

/-- Op 0x28 of the compute map: vldTg, vld. -/
def computeOp28 (w : Word) : Except Reserved Instr :=
  if fld 11 1 w = 0x0 ∧ fld 0 4 w = 0x0 then .ok (.vldTg (tokOf w) (fld 12 6 w) (fld 6 5 w) (fld 4 2 w)) else
  if fld 11 1 w = 0x0 then .ok (.vld (tokOf w) (fld 12 6 w) (fld 6 5 w) (fld 4 2 w) (fld 0 4 w)) else
  .error .field

/-- Op 0x29 of the compute map: vst, vstTg. -/
def computeOp29 (w : Word) : Except Reserved Instr :=
  if fld 11 1 w = 0x0 ∧ fld 0 4 w = 0x0 then .ok (.vst (tokOf w) (fld 12 6 w) (fld 6 5 w) (fld 4 2 w)) else
  if fld 11 1 w = 0x0 ∧ fld 0 4 w = 0x1 then .ok (.vstTg (tokOf w) (fld 12 6 w) (fld 6 5 w) (fld 4 2 w)) else
  .error .field

/-- Op 0x2a of the compute map: vstm. -/
def computeOp2a (w : Word) : Except Reserved Instr :=
  if fld 11 1 w = 0x0 ∧ fld 5 1 w = 0x0 then .ok (.vstm (tokOf w) (fld 12 6 w) (fld 6 5 w) (fld 0 5 w)) else
  .error .field

/-- Op 0x2b of the compute map: vldx. -/
def computeOp2b (w : Word) : Except Reserved Instr :=
  if fld 11 1 w = 0x0 then .ok (.vldx (tokOf w) (fld 12 6 w) (fld 6 5 w) (fld 0 6 w)) else
  .error .field

/-- Op 0x30 of the compute map: mma. -/
def computeOp30 (w : Word) : Except Reserved Instr :=
  if fld 10 8 w = 0x0 ∧ fld 4 2 w = 0x0 then .ok (.mma (tokOf w) (fld 6 4 w) (fld 0 4 w)) else
  .error .field

/-- Op 0x31 of the compute map: mmaGx. -/
def computeOp31 (w : Word) : Except Reserved Instr :=
  if fld 10 2 w = 0x0 ∧ fld 4 2 w = 0x0 then .ok (.mmaGx (tokOf w) (fld 12 6 w) (fld 6 4 w) (fld 0 4 w)) else
  .error .field

/-- Op 0x32 of the compute map: rzero. -/
def computeOp32 (w : Word) : Except Reserved Instr :=
  if fld 0 18 w = 0x0 then .ok (.rzero (tokOf w)) else
  .error .field

/-- Op 0x33 of the compute map: rnext. -/
def computeOp33 (w : Word) : Except Reserved Instr :=
  if fld 0 18 w = 0x0 then .ok (.rnext (tokOf w)) else
  .error .field

/-- Op 0x34 of the compute map: epi. -/
def computeOp34 (w : Word) : Except Reserved Instr :=
  if fld 16 2 w = 0x0 ∧ fld 11 1 w = 0x0 ∧ fld 5 1 w = 0x0 then .ok (.epi (tokOf w) (fld 12 4 w) (fld 6 5 w) (fld 0 5 w)) else
  .error .field

/-- Op 0x35 of the compute map: mscaleRow, mscaleCol. -/
def computeOp35 (w : Word) : Except Reserved Instr :=
  if fld 12 6 w = 0x0 ∧ fld 0 6 w = 0x0 then .ok (.mscaleRow (tokOf w) (fld 6 6 w)) else
  if fld 12 6 w = 0x1 ∧ fld 0 6 w = 0x0 then .ok (.mscaleCol (tokOf w) (fld 6 6 w)) else
  .error .field

/-- Op 0x36 of the compute map: fadd. -/
def computeOp36 (w : Word) : Except Reserved Instr :=
  if fld 17 1 w = 0x0 ∧ fld 11 1 w = 0x0 ∧ fld 5 1 w = 0x0 then .ok (.fadd (tokOf w) (fld 12 5 w) (fld 6 5 w) (fld 0 5 w)) else
  .error .field

/-- Op 0x37 of the compute map: fsub. -/
def computeOp37 (w : Word) : Except Reserved Instr :=
  if fld 17 1 w = 0x0 ∧ fld 11 1 w = 0x0 ∧ fld 5 1 w = 0x0 then .ok (.fsub (tokOf w) (fld 12 5 w) (fld 6 5 w) (fld 0 5 w)) else
  .error .field

/-- Op 0x38 of the compute map: fmul. -/
def computeOp38 (w : Word) : Except Reserved Instr :=
  if fld 17 1 w = 0x0 ∧ fld 11 1 w = 0x0 ∧ fld 5 1 w = 0x0 then .ok (.fmul (tokOf w) (fld 12 5 w) (fld 6 5 w) (fld 0 5 w)) else
  .error .field

/-- Op 0x39 of the compute map: ffma. -/
def computeOp39 (w : Word) : Except Reserved Instr :=
  if fld 17 1 w = 0x0 ∧ fld 11 1 w = 0x0 ∧ fld 5 1 w = 0x0 then .ok (.ffma (tokOf w) (fld 12 5 w) (fld 6 5 w) (fld 0 5 w)) else
  .error .field

/-- Op 0x3a of the compute map: fmin, fmax, fcmp. -/
def computeOp3a (w : Word) : Except Reserved Instr :=
  if fld 17 1 w = 0x0 ∧ fld 11 1 w = 0x0 ∧ fld 5 1 w = 0x0 then .ok (.fmin (tokOf w) (fld 12 5 w) (fld 6 5 w) (fld 0 5 w)) else
  if fld 17 1 w = 0x0 ∧ fld 11 1 w = 0x1 ∧ fld 5 1 w = 0x0 then .ok (.fmax (tokOf w) (fld 12 5 w) (fld 6 5 w) (fld 0 5 w)) else
  if fld 17 1 w = 0x1 ∧ fld 11 1 w = 0x0 ∧ fld 5 1 w = 0x0 then .ok (.fcmp (tokOf w) (fld 12 5 w) (fld 6 5 w) (fld 0 5 w)) else
  .error .field

/-- Op 0x3b of the compute map: fsqrt, fcvtWS, fcvtWuS, fcvtSW, fcvtSWu, fcvtBfS, fcvtSBf, fcvtHS, fcvtSH, fdiv. -/
def computeOp3b (w : Word) : Except Reserved Instr :=
  if fld 17 1 w = 0x0 ∧ fld 11 1 w = 0x1 ∧ fld 0 6 w = 0x0 then .ok (.fsqrt (tokOf w) (fld 12 5 w) (fld 6 5 w)) else
  if fld 17 1 w = 0x1 ∧ fld 11 1 w = 0x0 ∧ fld 0 6 w = 0x0 then .ok (.fcvtWS (tokOf w) (fld 12 5 w) (fld 6 5 w)) else
  if fld 17 1 w = 0x1 ∧ fld 11 1 w = 0x0 ∧ fld 0 6 w = 0x1 then .ok (.fcvtWuS (tokOf w) (fld 12 5 w) (fld 6 5 w)) else
  if fld 17 1 w = 0x1 ∧ fld 11 1 w = 0x0 ∧ fld 0 6 w = 0x2 then .ok (.fcvtSW (tokOf w) (fld 12 5 w) (fld 6 5 w)) else
  if fld 17 1 w = 0x1 ∧ fld 11 1 w = 0x0 ∧ fld 0 6 w = 0x3 then .ok (.fcvtSWu (tokOf w) (fld 12 5 w) (fld 6 5 w)) else
  if fld 17 1 w = 0x1 ∧ fld 11 1 w = 0x0 ∧ fld 0 6 w = 0x4 then .ok (.fcvtBfS (tokOf w) (fld 12 5 w) (fld 6 5 w)) else
  if fld 17 1 w = 0x1 ∧ fld 11 1 w = 0x0 ∧ fld 0 6 w = 0x5 then .ok (.fcvtSBf (tokOf w) (fld 12 5 w) (fld 6 5 w)) else
  if fld 17 1 w = 0x1 ∧ fld 11 1 w = 0x0 ∧ fld 0 6 w = 0x6 then .ok (.fcvtHS (tokOf w) (fld 12 5 w) (fld 6 5 w)) else
  if fld 17 1 w = 0x1 ∧ fld 11 1 w = 0x0 ∧ fld 0 6 w = 0x7 then .ok (.fcvtSH (tokOf w) (fld 12 5 w) (fld 6 5 w)) else
  if fld 17 1 w = 0x0 ∧ fld 11 1 w = 0x0 ∧ fld 5 1 w = 0x0 then .ok (.fdiv (tokOf w) (fld 12 5 w) (fld 6 5 w) (fld 0 5 w)) else
  .error .field

/-- Op 0x3c of the compute map: pnot, pmov, pand, por, ppack, punpack. -/
def computeOp3c (w : Word) : Except Reserved Instr :=
  if fld 15 3 w = 0x0 ∧ fld 9 3 w = 0x2 ∧ fld 0 6 w = 0x0 then .ok (.pnot (tokOf w) (fld 12 3 w) (fld 6 3 w)) else
  if fld 15 3 w = 0x0 ∧ fld 9 3 w = 0x3 ∧ fld 0 6 w = 0x0 then .ok (.pmov (tokOf w) (fld 12 3 w) (fld 6 3 w)) else
  if fld 15 3 w = 0x0 ∧ fld 9 3 w = 0x0 ∧ fld 3 3 w = 0x0 then .ok (.pand (tokOf w) (fld 12 3 w) (fld 6 3 w) (fld 0 3 w)) else
  if fld 15 3 w = 0x0 ∧ fld 9 3 w = 0x1 ∧ fld 3 3 w = 0x0 then .ok (.por (tokOf w) (fld 12 3 w) (fld 6 3 w) (fld 0 3 w)) else
  if fld 9 3 w = 0x4 ∧ fld 0 6 w = 0x0 then .ok (.ppack (tokOf w) (fld 12 6 w) (fld 6 3 w)) else
  if fld 15 3 w = 0x0 ∧ fld 6 6 w = 0x28 then .ok (.punpack (tokOf w) (fld 12 3 w) (fld 0 6 w)) else
  .error .field

/-- Op 0x3d of the compute map: valloc, vshrink. -/
def computeOp3d (w : Word) : Except Reserved Instr :=
  if fld 6 12 w = 0x0 then .ok (.valloc (tokOf w) (fld 0 6 w)) else
  if fld 6 12 w = 0x40 then .ok (.vshrink (tokOf w) (fld 0 6 w)) else
  .error .field

/-- Op 0x3e of the compute map: pcfg. -/
def computeOp3e (w : Word) : Except Reserved Instr :=
  if fld 11 1 w = 0x0 ∧ fld 5 1 w = 0x0 then .ok (.pcfg (tokOf w) (fld 12 6 w) (fld 6 5 w) (fld 0 5 w)) else
  .error .field

/-- The compute map (R142, R143). -/
def decodeCompute (w : Word) : Except Reserved Instr :=
  match (fld 25 6 w).toNat with
  | 0x00 => .ok (.vadd (tokOf w) (fld 12 6 w) (fld 6 6 w) (fld 0 6 w))
  | 0x01 => .ok (.vsub (tokOf w) (fld 12 6 w) (fld 6 6 w) (fld 0 6 w))
  | 0x02 => .ok (.vmul (tokOf w) (fld 12 6 w) (fld 6 6 w) (fld 0 6 w))
  | 0x03 => .ok (.vmin (tokOf w) (fld 12 6 w) (fld 6 6 w) (fld 0 6 w))
  | 0x04 => .ok (.vmax (tokOf w) (fld 12 6 w) (fld 6 6 w) (fld 0 6 w))
  | 0x05 => computeOp05 w
  | 0x06 => computeOp06 w
  | 0x07 => .ok (.vand (tokOf w) (fld 12 6 w) (fld 6 6 w) (fld 0 6 w))
  | 0x08 => .ok (.vor (tokOf w) (fld 12 6 w) (fld 6 6 w) (fld 0 6 w))
  | 0x09 => .ok (.vxor (tokOf w) (fld 12 6 w) (fld 6 6 w) (fld 0 6 w))
  | 0x0a => computeOp0a w
  | 0x0b => .ok (.vsll (tokOf w) (fld 12 6 w) (fld 6 6 w) (fld 0 6 w))
  | 0x0c => .ok (.vsrl (tokOf w) (fld 12 6 w) (fld 6 6 w) (fld 0 6 w))
  | 0x0d => .ok (.vsra (tokOf w) (fld 12 6 w) (fld 6 6 w) (fld 0 6 w))
  | 0x0e => computeOp0e w
  | 0x0f => computeOp0f w
  | 0x10 => computeOp10 w
  | 0x11 => computeOp11 w
  | 0x12 => computeOp12 w
  | 0x13 => computeOp13 w
  | 0x14 => .ok (.vperm (tokOf w) (fld 12 6 w) (fld 6 6 w) (fld 0 6 w))
  | 0x15 => computeOp15 w
  | 0x16 => computeOp16 w
  | 0x17 => .ok (.vzip (tokOf w) (fld 12 6 w) (fld 6 6 w) (fld 0 6 w))
  | 0x18 => .ok (.vunzip (tokOf w) (fld 12 6 w) (fld 6 6 w) (fld 0 6 w))
  | 0x19 => computeOp19 w
  | 0x1a => computeOp1a w
  | 0x1b => computeOp1b w
  | 0x20 => .ok (.vfma (tokOf w) (fld 12 6 w) (fld 6 6 w) (fld 0 6 w))
  | 0x21 => .ok (.vfsh (tokOf w) (fld 12 6 w) (fld 6 6 w) (fld 0 6 w))
  | 0x22 => .ok (.vmac (tokOf w) (fld 12 6 w) (fld 6 6 w) (fld 0 6 w))
  | 0x23 => computeOp23 w
  | 0x28 => computeOp28 w
  | 0x29 => computeOp29 w
  | 0x2a => computeOp2a w
  | 0x2b => computeOp2b w
  | 0x30 => computeOp30 w
  | 0x31 => computeOp31 w
  | 0x32 => computeOp32 w
  | 0x33 => computeOp33 w
  | 0x34 => computeOp34 w
  | 0x35 => computeOp35 w
  | 0x36 => computeOp36 w
  | 0x37 => computeOp37 w
  | 0x38 => computeOp38 w
  | 0x39 => computeOp39 w
  | 0x3a => computeOp3a w
  | 0x3b => computeOp3b w
  | 0x3c => computeOp3c w
  | 0x3d => computeOp3d w
  | 0x3e => computeOp3e w
  | _ => .error .op

/-- The instruction whose fields a core reads from a word, by bit 31 and the core's map (R126). -/
def decodeFields (c : CoreId) (w : Word) : Except Reserved Instr :=
  if fld 31 1 w = 1 then (if c = .compute then decodeCompute w else decodeTransfer w) else decodeCommon w

/-- The decoder: every word gives one instruction or the reason it is a reserved encoding (R127). -/
def decode (c : CoreId) (w : Word) : Except Reserved Instr :=
  match decodeFields c w with
  | .error r => .error r
  | .ok i => match illFormed i with
    | some r => .error r
    | none => .ok i

/-- The encoder: the word of an instruction, none for a step that has no encoding. -/
def encode : Instr → Option Word
  | .add d a b => some (0x0#7 ++ d ++ a ++ b ++ 0x0#10)
  | .sub d a b => some (0x0#7 ++ d ++ a ++ b ++ 0x1#10)
  | .and d a b => some (0x0#7 ++ d ++ a ++ b ++ 0x2#10)
  | .or d a b => some (0x0#7 ++ d ++ a ++ b ++ 0x3#10)
  | .xor d a b => some (0x0#7 ++ d ++ a ++ b ++ 0x4#10)
  | .sll d a b => some (0x0#7 ++ d ++ a ++ b ++ 0x5#10)
  | .srl d a b => some (0x0#7 ++ d ++ a ++ b ++ 0x6#10)
  | .sra d a b => some (0x0#7 ++ d ++ a ++ b ++ 0x7#10)
  | .slt d a b => some (0x0#7 ++ d ++ a ++ b ++ 0x8#10)
  | .sltu d a b => some (0x0#7 ++ d ++ a ++ b ++ 0x9#10)
  | .min d a b => some (0x0#7 ++ d ++ a ++ b ++ 0xa#10)
  | .max d a b => some (0x0#7 ++ d ++ a ++ b ++ 0xb#10)
  | .minu d a b => some (0x0#7 ++ d ++ a ++ b ++ 0xc#10)
  | .maxu d a b => some (0x0#7 ++ d ++ a ++ b ++ 0xd#10)
  | .add1s d a b => some (0x0#7 ++ d ++ a ++ b ++ 0xe#10)
  | .add2s d a b => some (0x0#7 ++ d ++ a ++ b ++ 0xf#10)
  | .add3s d a b => some (0x0#7 ++ d ++ a ++ b ++ 0x10#10)
  | .mul d a b => some (0x1#7 ++ d ++ a ++ b ++ 0x0#10)
  | .mulh d a b => some (0x1#7 ++ d ++ a ++ b ++ 0x1#10)
  | .mulhu d a b => some (0x1#7 ++ d ++ a ++ b ++ 0x2#10)
  | .mulhsu d a b => some (0x1#7 ++ d ++ a ++ b ++ 0x3#10)
  | .div d a b => some (0x1#7 ++ d ++ a ++ b ++ 0x4#10)
  | .divu d a b => some (0x1#7 ++ d ++ a ++ b ++ 0x5#10)
  | .rem d a b => some (0x1#7 ++ d ++ a ++ b ++ 0x6#10)
  | .remu d a b => some (0x1#7 ++ d ++ a ++ b ++ 0x7#10)
  | .addi d a i => some (0x2#7 ++ d ++ a ++ i)
  | .andi d a i => some (0x3#7 ++ d ++ a ++ i)
  | .ori d a i => some (0x4#7 ++ d ++ a ++ i)
  | .xori d a i => some (0x5#7 ++ d ++ a ++ i)
  | .slti d a i => some (0x6#7 ++ d ++ a ++ i)
  | .sltiu d a i => some (0x7#7 ++ d ++ a ++ i)
  | .slli d a n => some (0x8#7 ++ d ++ a ++ 0x0#10 ++ n)
  | .srli d a n => some (0x8#7 ++ d ++ a ++ 0x1#10 ++ n)
  | .srai d a n => some (0x8#7 ++ d ++ a ++ 0x2#10 ++ n)
  | .lui d i => some (0x9#7 ++ d ++ i)
  | .auipc d i => some (0xa#7 ++ d ++ i)
  | .lb d a i => some (0xb#7 ++ d ++ a ++ i)
  | .lbu d a i => some (0xc#7 ++ d ++ a ++ i)
  | .lh d a i => some (0xd#7 ++ d ++ a ++ i)
  | .lhu d a i => some (0xe#7 ++ d ++ a ++ i)
  | .lw d a i => some (0xf#7 ++ d ++ a ++ i)
  | .sb g a i => some (0x10#7 ++ g ++ a ++ i)
  | .sh g a i => some (0x11#7 ++ g ++ a ++ i)
  | .sw g a i => some (0x12#7 ++ g ++ a ++ i)
  | .lld d a i => some (0x13#7 ++ d ++ a ++ i)
  | .sul g a i => some (0x14#7 ++ g ++ a ++ i)
  | .amoAdd d a b => some (0x15#7 ++ d ++ a ++ b ++ 0x0#10)
  | .amoMin d a b => some (0x15#7 ++ d ++ a ++ b ++ 0x1#10)
  | .amoMax d a b => some (0x15#7 ++ d ++ a ++ b ++ 0x2#10)
  | .amoAnd d a b => some (0x15#7 ++ d ++ a ++ b ++ 0x3#10)
  | .amoOr d a b => some (0x15#7 ++ d ++ a ++ b ++ 0x4#10)
  | .amoXor d a b => some (0x15#7 ++ d ++ a ++ b ++ 0x5#10)
  | .amoSwap d a b => some (0x15#7 ++ d ++ a ++ b ++ 0x6#10)
  | .amoCas d a b => some (0x15#7 ++ d ++ a ++ b ++ 0x7#10)
  | .beq a b k => some (0x16#7 ++ a ++ b ++ k)
  | .bne a b k => some (0x17#7 ++ a ++ b ++ k)
  | .blt a b k => some (0x18#7 ++ a ++ b ++ k)
  | .bge a b k => some (0x19#7 ++ a ++ b ++ k)
  | .bltu a b k => some (0x1a#7 ++ a ++ b ++ k)
  | .bgeu a b k => some (0x1b#7 ++ a ++ b ++ k)
  | .jal d k => some (0x1c#7 ++ d ++ k)
  | .jalr d a i => some (0x1d#7 ++ d ++ a ++ i)
  | .loop a k => some (0x1e#7 ++ a ++ 0x0#5 ++ k)
  | .loopi n k => some (0x1f#7 ++ 0x0#5 ++ n ++ k)
  | .lbrk a => some (0x20#7 ++ 0x0#5 ++ a ++ 0x0#15)
  | .lbrkZ a => some (0x20#7 ++ 0x0#5 ++ a ++ 0x1#15)
  | .qput n c t => some (0x21#7 ++ 0x0#12 ++ n ++ 0x0#1 ++ c ++ t ++ 0x0#3)
  | .qputReg a n => some (0x21#7 ++ 0x0#5 ++ a ++ 0x0#2 ++ n ++ 0x800#12)
  | .qtake d n c => some (0x21#7 ++ d ++ 0x1#7 ++ n ++ 0x0#1 ++ c ++ 0x0#8)
  | .qtakeReg d a n => some (0x21#7 ++ d ++ a ++ 0x1#2 ++ n ++ 0x800#12)
  | .qpeek d n => some (0x21#7 ++ d ++ 0x2#7 ++ n ++ 0x0#12)
  | .qcount d n => some (0x21#7 ++ d ++ 0x3#7 ++ n ++ 0x0#12)
  | .barInit c a b => some (0x22#7 ++ c ++ a ++ b ++ 0x0#10)
  | .barExpect c a b => some (0x22#7 ++ c ++ a ++ b ++ 0x1#10)
  | .barExpectClr c a b => some (0x22#7 ++ c ++ a ++ b ++ 0x9#10)
  | .barArrive a => some (0x22#7 ++ 0x0#5 ++ a ++ 0x2#15)
  | .barWait a b => some (0x22#7 ++ 0x0#5 ++ a ++ b ++ 0x3#10)
  | .barWaitchk c a b => some (0x22#7 ++ c ++ a ++ b ++ 0x4#10)
  | .barTest d a b => some (0x22#7 ++ d ++ a ++ b ++ 0x5#10)
  | .barRetire a => some (0x22#7 ++ 0x0#5 ++ a ++ 0x6#15)
  | .fenceRel s => some (0x23#7 ++ 0x0#22 ++ s)
  | .fenceAcq s => some (0x23#7 ++ 0x1#22 ++ s)
  | .fenceAr s => some (0x23#7 ++ 0x2#22 ++ s)
  | .fenceAck => some (0x23#7 ++ 0x18#25)
  | .hbar s => some (0x24#7 ++ 0x0#22 ++ s)
  | .csrR d c => some (0x25#7 ++ d ++ 0x0#8 ++ c)
  | .csrW d a c => some (0x25#7 ++ d ++ a ++ 0x1#3 ++ c)
  | .csrS d a c => some (0x25#7 ++ d ++ a ++ 0x2#3 ++ c)
  | .csrC d a c => some (0x25#7 ++ d ++ a ++ 0x3#3 ++ c)
  | .hld h a => some (0x26#7 ++ 0x0#1 ++ h ++ a ++ 0x0#15)
  | .hst h a => some (0x26#7 ++ 0x0#1 ++ h ++ a ++ 0x1#15)
  | .hset h b f => some (0x26#7 ++ 0x0#1 ++ h ++ 0x0#5 ++ b ++ 0x0#2 ++ f ++ 0x2#3)
  | .hget d h f => some (0x26#7 ++ d ++ 0x0#1 ++ h ++ 0x0#7 ++ f ++ 0x3#3)
  | .hmov h k => some (0x26#7 ++ 0x0#1 ++ h ++ 0x0#1 ++ k ++ 0x4#15)
  | .nop => some (0x28#7 ++ 0x0#25)
  | .ecall => some (0x28#7 ++ 0x1#25)
  | .ebreak => some (0x28#7 ++ 0x2#25)
  | .done => some (0x28#7 ++ 0x3#25)
  | .yield => some (0x28#7 ++ 0x4#25)
  | .allreduce d a b m => some (0x27#7 ++ d ++ a ++ b ++ m ++ 0x0#8)
  | .allgather d a b m => some (0x27#7 ++ d ++ a ++ b ++ m ++ 0x1#8)
  | .reducescatter d a b m => some (0x27#7 ++ d ++ a ++ b ++ m ++ 0x2#8)
  | .alltoall d a b m => some (0x27#7 ++ d ++ a ++ b ++ m ++ 0x3#8)
  | .bcast d a b m => some (0x27#7 ++ d ++ a ++ b ++ m ++ 0x4#8)
  | .cbar d a b m => some (0x27#7 ++ d ++ a ++ b ++ m ++ 0x5#8)
  | .cstat d a b m => some (0x27#7 ++ d ++ a ++ b ++ m ++ 0x6#8)
  | .ptabSet d a b m => some (0x27#7 ++ d ++ a ++ b ++ m ++ 0x20#8)
  | .ptabGet d a b m => some (0x27#7 ++ d ++ a ++ b ++ m ++ 0x21#8)
  | .placeConv d a b m => some (0x27#7 ++ d ++ a ++ b ++ m ++ 0x22#8)
  | .meshSet d a b m => some (0x27#7 ++ d ++ a ++ b ++ m ++ 0x23#8)
  | .rsPlan d a b m => some (0x27#7 ++ d ++ a ++ b ++ m ++ 0x30#8)
  | .rsStart d a b m => some (0x27#7 ++ d ++ a ++ b ++ m ++ 0x31#8)
  | .rsResume d a b m => some (0x27#7 ++ d ++ a ++ b ++ m ++ 0x32#8)
  | .rsStatus d a b m => some (0x27#7 ++ d ++ a ++ b ++ m ++ 0x33#8)
  | .rsAbort d a b m => some (0x27#7 ++ d ++ a ++ b ++ m ++ 0x34#8)
  | .futInit d a b m => some (0x27#7 ++ d ++ a ++ b ++ m ++ 0x40#8)
  | .futResolve d a b m => some (0x27#7 ++ d ++ a ++ b ++ m ++ 0x41#8)
  | .futReg d a b m => some (0x27#7 ++ d ++ a ++ b ++ m ++ 0x42#8)
  | .futPoison d a b m => some (0x27#7 ++ d ++ a ++ b ++ m ++ 0x43#8)
  | .futRead d a b m => some (0x27#7 ++ d ++ a ++ b ++ m ++ 0x44#8)
  | .ctxCreate d a b m => some (0x27#7 ++ d ++ a ++ b ++ m ++ 0x50#8)
  | .ctxGrant d a b m => some (0x27#7 ++ d ++ a ++ b ++ m ++ 0x51#8)
  | .ctxRevoke d a b m => some (0x27#7 ++ d ++ a ++ b ++ m ++ 0x52#8)
  | .ctxDestroy d a b m => some (0x27#7 ++ d ++ a ++ b ++ m ++ 0x53#8)
  | .ctxBudget d a b m => some (0x27#7 ++ d ++ a ++ b ++ m ++ 0x54#8)
  | .ctxKey d a b m => some (0x27#7 ++ d ++ a ++ b ++ m ++ 0x55#8)
  | .ctxScrub d a b m => some (0x27#7 ++ d ++ a ++ b ++ m ++ 0x56#8)
  | .ctxReceipt d a b m => some (0x27#7 ++ d ++ a ++ b ++ m ++ 0x57#8)
  | .nodeLaunch d a b m => some (0x27#7 ++ d ++ a ++ b ++ m ++ 0x60#8)
  | .nodeStatus d a b m => some (0x27#7 ++ d ++ a ++ b ++ m ++ 0x61#8)
  | .logArm d a b m => some (0x27#7 ++ d ++ a ++ b ++ m ++ 0x68#8)
  | .logRead d a b m => some (0x27#7 ++ d ++ a ++ b ++ m ++ 0x69#8)
  | .timeRead d a b m => some (0x27#7 ++ d ++ a ++ b ++ m ++ 0x6a#8)
  | .dmaLd k a b c d => some (0x40#7 ++ k.bits ++ a ++ b ++ c ++ d)
  | .dmaSt k a b c d => some (0x41#7 ++ k.bits ++ a ++ b ++ c ++ d)
  | .dmaCp k a b c d => some (0x42#7 ++ k.bits ++ a ++ b ++ c ++ 0x0#1 ++ d)
  | .dmaCpMc k a b c d => some (0x42#7 ++ k.bits ++ a ++ b ++ c ++ 0x1#1 ++ d)
  | .dmaIx k a b c d => some (0x43#7 ++ k.bits ++ a ++ b ++ c ++ d ++ 0x0#1)
  | .dmaSx k a b c d => some (0x44#7 ++ k.bits ++ a ++ b ++ c ++ d ++ 0x0#1)
  | .dmaRd k a b c d => some (0x45#7 ++ k.bits ++ a ++ b ++ c ++ d ++ 0x0#1)
  | .dmaWr k a b c d => some (0x46#7 ++ k.bits ++ a ++ b ++ c ++ d ++ 0x0#1)
  | .stRel k a g c x => some (0x47#7 ++ k.bits ++ a ++ g ++ 0x0#1 ++ c ++ x)
  | .ldAcq k a g c x => some (0x48#7 ++ k.bits ++ a ++ g ++ 0x0#1 ++ c ++ x)
  | .ratAdd k a g c => some (0x49#7 ++ k.bits ++ a ++ g ++ 0x0#1 ++ c ++ 0x0#3)
  | .ratMin k a g c => some (0x49#7 ++ k.bits ++ a ++ g ++ 0x0#1 ++ c ++ 0x1#3)
  | .ratMax k a g c => some (0x49#7 ++ k.bits ++ a ++ g ++ 0x0#1 ++ c ++ 0x2#3)
  | .ratAnd k a g c => some (0x49#7 ++ k.bits ++ a ++ g ++ 0x0#1 ++ c ++ 0x3#3)
  | .ratOr k a g c => some (0x49#7 ++ k.bits ++ a ++ g ++ 0x0#1 ++ c ++ 0x4#3)
  | .ratXor k a g c => some (0x49#7 ++ k.bits ++ a ++ g ++ 0x0#1 ++ c ++ 0x5#3)
  | .ratSwap k a g c => some (0x49#7 ++ k.bits ++ a ++ g ++ 0x0#1 ++ c ++ 0x6#3)
  | .ratCas k a g c => some (0x49#7 ++ k.bits ++ a ++ g ++ 0x0#1 ++ c ++ 0x7#3)
  | .rvat k a b c d => some (0x4a#7 ++ k.bits ++ a ++ b ++ c ++ d ++ 0x0#1)
  | .ldPlace k a c d => some (0x4b#7 ++ k.bits ++ a ++ 0x0#4 ++ c ++ d ++ 0x0#1)
  | .stPlace k b c d => some (0x4c#7 ++ k.bits ++ 0x0#4 ++ b ++ c ++ d ++ 0x0#1)
  | .dmaProg k a => some (0x4d#7 ++ k.bits ++ a ++ 0x0#13)
  | .dmaProgRec k a b c => some (0x4d#7 ++ k.bits ++ a ++ b ++ c ++ 0x1#3)
  | .vadd k a b c => some (0x40#7 ++ k.bits ++ a ++ b ++ c)
  | .vsub k a b c => some (0x41#7 ++ k.bits ++ a ++ b ++ c)
  | .vmul k a b c => some (0x42#7 ++ k.bits ++ a ++ b ++ c)
  | .vmin k a b c => some (0x43#7 ++ k.bits ++ a ++ b ++ c)
  | .vmax k a b c => some (0x44#7 ++ k.bits ++ a ++ b ++ c)
  | .vabs k a b => some (0x45#7 ++ k.bits ++ a ++ b ++ 0x0#6)
  | .vneg k a b => some (0x46#7 ++ k.bits ++ a ++ b ++ 0x0#6)
  | .vand k a b c => some (0x47#7 ++ k.bits ++ a ++ b ++ c)
  | .vor k a b c => some (0x48#7 ++ k.bits ++ a ++ b ++ c)
  | .vxor k a b c => some (0x49#7 ++ k.bits ++ a ++ b ++ c)
  | .vnot k a b => some (0x4a#7 ++ k.bits ++ a ++ b ++ 0x0#6)
  | .vsll k a b c => some (0x4b#7 ++ k.bits ++ a ++ b ++ c)
  | .vsrl k a b c => some (0x4c#7 ++ k.bits ++ a ++ b ++ c)
  | .vsra k a b c => some (0x4d#7 ++ k.bits ++ a ++ b ++ c)
  | .vclz k a b => some (0x4e#7 ++ k.bits ++ a ++ b ++ 0x0#6)
  | .vpopc k a b => some (0x4f#7 ++ k.bits ++ a ++ b ++ 0x0#6)
  | .vcmpEq k d b c => some (0x50#7 ++ k.bits ++ 0x0#3 ++ d ++ b ++ c)
  | .vcmpNe k d b c => some (0x50#7 ++ k.bits ++ 0x1#3 ++ d ++ b ++ c)
  | .vcmpLt k d b c => some (0x50#7 ++ k.bits ++ 0x2#3 ++ d ++ b ++ c)
  | .vcmpLe k d b c => some (0x50#7 ++ k.bits ++ 0x3#3 ++ d ++ b ++ c)
  | .vcmpGt k d b c => some (0x50#7 ++ k.bits ++ 0x4#3 ++ d ++ b ++ c)
  | .vcmpGe k d b c => some (0x50#7 ++ k.bits ++ 0x5#3 ++ d ++ b ++ c)
  | .vredsum k a b => some (0x51#7 ++ k.bits ++ a ++ b ++ 0x0#6)
  | .vredmax k a b => some (0x52#7 ++ k.bits ++ a ++ b ++ 0x0#6)
  | .vredmin k a b => some (0x53#7 ++ k.bits ++ a ++ b ++ 0x0#6)
  | .vperm k a b c => some (0x54#7 ++ k.bits ++ a ++ b ++ c)
  | .vbcast k a b g => some (0x55#7 ++ k.bits ++ a ++ b ++ 0x0#1 ++ g)
  | .vbcastG k a t g => some (0x55#7 ++ k.bits ++ a ++ 0x0#2 ++ t ++ 0x1#1 ++ g)
  | .vslideDn k a b g => some (0x56#7 ++ k.bits ++ a ++ b ++ 0x0#1 ++ g)
  | .vslideUp k a b g => some (0x56#7 ++ k.bits ++ a ++ b ++ 0x1#1 ++ g)
  | .vzip k a b c => some (0x57#7 ++ k.bits ++ a ++ b ++ c)
  | .vunzip k a b c => some (0x58#7 ++ k.bits ++ a ++ b ++ c)
  | .vcvt k a b t => some (0x59#7 ++ k.bits ++ a ++ b ++ 0x0#2 ++ t)
  | .vmov k a b => some (0x5a#7 ++ k.bits ++ a ++ b ++ 0x0#6)
  | .vrdacc k a g => some (0x5b#7 ++ k.bits ++ a ++ 0x0#7 ++ g)
  | .vfma k a b c => some (0x60#7 ++ k.bits ++ a ++ b ++ c)
  | .vfsh k a b c => some (0x61#7 ++ k.bits ++ a ++ b ++ c)
  | .vmac k a b c => some (0x62#7 ++ k.bits ++ a ++ b ++ c)
  | .vsel k a b p => some (0x63#7 ++ k.bits ++ a ++ b ++ 0x0#3 ++ p)
  | .vld k a g o t => some (0x68#7 ++ k.bits ++ a ++ 0x0#1 ++ g ++ o ++ t)
  | .vldTg k a g o => some (0x68#7 ++ k.bits ++ a ++ 0x0#1 ++ g ++ o ++ 0x0#4)
  | .vst k a g o => some (0x69#7 ++ k.bits ++ a ++ 0x0#1 ++ g ++ o ++ 0x0#4)
  | .vstTg k a g o => some (0x69#7 ++ k.bits ++ a ++ 0x0#1 ++ g ++ o ++ 0x1#4)
  | .vstm k a g h => some (0x6a#7 ++ k.bits ++ a ++ 0x0#1 ++ g ++ 0x0#1 ++ h)
  | .vldx k a g c => some (0x6b#7 ++ k.bits ++ a ++ 0x0#1 ++ g ++ c)
  | .mma k b c => some (0x70#7 ++ k.bits ++ 0x0#8 ++ b ++ 0x0#2 ++ c)
  | .mmaGx k a b c => some (0x71#7 ++ k.bits ++ a ++ 0x0#2 ++ b ++ 0x0#2 ++ c)
  | .rzero k => some (0x72#7 ++ k.bits ++ 0x0#18)
  | .rnext k => some (0x73#7 ++ k.bits ++ 0x0#18)
  | .epi k h g b => some (0x74#7 ++ k.bits ++ 0x0#2 ++ h ++ 0x0#1 ++ g ++ 0x0#1 ++ b)
  | .mscaleRow k a => some (0x75#7 ++ k.bits ++ 0x0#6 ++ a ++ 0x0#6)
  | .mscaleCol k a => some (0x75#7 ++ k.bits ++ 0x1#6 ++ a ++ 0x0#6)
  | .fadd k d a b => some (0x76#7 ++ k.bits ++ 0x0#1 ++ d ++ 0x0#1 ++ a ++ 0x0#1 ++ b)
  | .fsub k d a b => some (0x77#7 ++ k.bits ++ 0x0#1 ++ d ++ 0x0#1 ++ a ++ 0x0#1 ++ b)
  | .fmul k d a b => some (0x78#7 ++ k.bits ++ 0x0#1 ++ d ++ 0x0#1 ++ a ++ 0x0#1 ++ b)
  | .ffma k d a b => some (0x79#7 ++ k.bits ++ 0x0#1 ++ d ++ 0x0#1 ++ a ++ 0x0#1 ++ b)
  | .fmin k d a b => some (0x7a#7 ++ k.bits ++ 0x0#1 ++ d ++ 0x0#1 ++ a ++ 0x0#1 ++ b)
  | .fmax k d a b => some (0x7a#7 ++ k.bits ++ 0x0#1 ++ d ++ 0x1#1 ++ a ++ 0x0#1 ++ b)
  | .fcmp k d a b => some (0x7a#7 ++ k.bits ++ 0x1#1 ++ d ++ 0x0#1 ++ a ++ 0x0#1 ++ b)
  | .fdiv k d a b => some (0x7b#7 ++ k.bits ++ 0x0#1 ++ d ++ 0x0#1 ++ a ++ 0x0#1 ++ b)
  | .fsqrt k d a => some (0x7b#7 ++ k.bits ++ 0x0#1 ++ d ++ 0x1#1 ++ a ++ 0x0#6)
  | .fcvtWS k d a => some (0x7b#7 ++ k.bits ++ 0x1#1 ++ d ++ 0x0#1 ++ a ++ 0x0#6)
  | .fcvtWuS k d a => some (0x7b#7 ++ k.bits ++ 0x1#1 ++ d ++ 0x0#1 ++ a ++ 0x1#6)
  | .fcvtSW k d a => some (0x7b#7 ++ k.bits ++ 0x1#1 ++ d ++ 0x0#1 ++ a ++ 0x2#6)
  | .fcvtSWu k d a => some (0x7b#7 ++ k.bits ++ 0x1#1 ++ d ++ 0x0#1 ++ a ++ 0x3#6)
  | .fcvtBfS k d a => some (0x7b#7 ++ k.bits ++ 0x1#1 ++ d ++ 0x0#1 ++ a ++ 0x4#6)
  | .fcvtSBf k d a => some (0x7b#7 ++ k.bits ++ 0x1#1 ++ d ++ 0x0#1 ++ a ++ 0x5#6)
  | .fcvtHS k d a => some (0x7b#7 ++ k.bits ++ 0x1#1 ++ d ++ 0x0#1 ++ a ++ 0x6#6)
  | .fcvtSH k d a => some (0x7b#7 ++ k.bits ++ 0x1#1 ++ d ++ 0x0#1 ++ a ++ 0x7#6)
  | .pand k d a b => some (0x7c#7 ++ k.bits ++ 0x0#3 ++ d ++ 0x0#3 ++ a ++ 0x0#3 ++ b)
  | .por k d a b => some (0x7c#7 ++ k.bits ++ 0x0#3 ++ d ++ 0x1#3 ++ a ++ 0x0#3 ++ b)
  | .pnot k d a => some (0x7c#7 ++ k.bits ++ 0x0#3 ++ d ++ 0x2#3 ++ a ++ 0x0#6)
  | .pmov k d a => some (0x7c#7 ++ k.bits ++ 0x0#3 ++ d ++ 0x3#3 ++ a ++ 0x0#6)
  | .ppack k d a => some (0x7c#7 ++ k.bits ++ d ++ 0x4#3 ++ a ++ 0x0#6)
  | .punpack k d v => some (0x7c#7 ++ k.bits ++ 0x0#3 ++ d ++ 0x28#6 ++ v)
  | .valloc k n => some (0x7d#7 ++ k.bits ++ 0x0#12 ++ n)
  | .vshrink k n => some (0x7d#7 ++ k.bits ++ 0x40#12 ++ n)
  | .pcfg k p a b => some (0x7e#7 ++ k.bits ++ p ++ 0x0#1 ++ a ++ 0x0#1 ++ b)
  | .time _ => none
  | .reservedEncoding _ => none
  | .collectiveEpisode => none
  | .memberLost => none
  | .trestleTransferComplete => none
  | .progressRecordWrite => none
  | .copReply => none
  | .engineCredit => none
  | .sourceCredit => none
  | .dmaCompletion => none
  | .engineFault => none
  | .mmaCompletion => none
  | .epiCompletion => none
  | .fixedLatencyWrite => none
  | .stopCapture => none
  | .trapDelivery => none
  | .handlerRun => none
  | .stateWindow => none
  | .resume => none
  | .resumeRetry => none
  | .skip => none
  | .kill => none
  | .pass => none
  | .deadlock => none
  | .lockLost => none
  | .leaseEnd => none
  | .packetNop => none
  | .node => none
  | .graph => none
  | .packetCompletion => none
  | .queuePoll => none
  | .heldLineInvalidate => none
  | .nodeDecrement => none
  | .distributorPlace => none
  | .dieReport => none
  | .taskCompletion => none
  | .sliceTick => none
  | .drainBound => none
  | .checkpoint => none
  | .saveCommit => none
  | .saveDeadline => none
  | .gracePeriodEnd => none
  | .restore => none
  | .heldEvent => none
  | .codePageCheck => none
  | .codeGenerationFree => none
  | .write => none
  | .readRequest => none
  | .readData => none
  | .acknowledgement => none
  | .orderedFlag => none
  | .countOnlyFlag => none
  | .atomic => none
  | .control => none
  | .refusedPacketResend => none
  | .integrityBlock => none
  | .linkFail => none
  | .linkKeyexh => none
  | .packageLost => none
  | .softError => none
  | .powerSample => none
  | .junctionSample => none
  | .limitStep => none
  | .powerLoss => none
  | .powerUp => none
  | .bootgo => none
  | .qdesc => none
  | .load => none
  | .unload => none
  | .aperture => none
  | .settick => none
  | .transit => none
  | .mailboxResume => none
  | .rkey => none
  | .linktab => none
  | .linkkey => none
  | .lifecycle => none
  | .apsize => none
  | .hostWrite => none
  | .hostRead => none
  | .registerWrite => none
  | .malformedPacket => none
  | .reservedOpcode => none
  | .functionEnable => none
  | .keystoneMapWrite => none
  | .powerLimitSet => none
  | .codeStoreDrop => none

/-- The core that runs a word of the opcode table when only its bits are given: the two private maps overlap, so a private word goes
to the load core where the transfer map decodes it and else to the compute core; a common word goes to the load core. -/
def tableCore (w : Word) : CoreId :=
  if fld 31 1 w = 1 then (match decode .load w with | .ok _ => .load | .error _ => .compute) else .load

/-- The instruction that the decoder reads from a word numbered as spec/opcode_table.json numbers it (one 32-bit word, R126). -/
def decodeTableWord (nbits w : Nat) : Option Instr :=
  if nbits ≤ 32 ∧ w < 2 ^ nbits then
    match decode (tableCore (BitVec.ofNat 32 w)) (BitVec.ofNat 32 w) with
    | .ok i => some i
    | .error _ => none
  else none

end Sys2Proof
end

