-- ==== Sys2Proof/Machine/Float.lean ====
section
/-! DEFINITION. Number formats, rounding and conversion (chapter 03, R56 to R78), on bit patterns held as Nat. -/

namespace Sys2Proof.Machine

/-- The format tags of R62; codes 11 to 15 are held by no register. -/
inductive Fmt where
  | empty | int32 | int16 | int8 | uint8 | fp32 | bf16 | fp16 | e4m3 | e5m2 | ds8
  deriving DecidableEq, Repr

/-- The tag code (R62). -/
def Fmt.code : Fmt → Nat
  | .empty => 0 | .int32 => 1 | .int16 => 2 | .int8 => 3 | .uint8 => 4 | .fp32 => 5 | .bf16 => 6 | .fp16 => 7 | .e4m3 => 8
  | .e5m2 => 9 | .ds8 => 10

/-- The format of a tag code, none for 11 and above (R62). -/
def Fmt.ofCode : Nat → Option Fmt
  | 0 => some .empty | 1 => some .int32 | 2 => some .int16 | 3 => some .int8 | 4 => some .uint8 | 5 => some .fp32
  | 6 => some .bf16 | 7 => some .fp16 | 8 => some .e4m3 | 9 => some .e5m2 | 10 => some .ds8 | _ => none

/-- Element width in bits (R62); EMPTY has none. -/
def Fmt.width : Fmt → Nat
  | .empty => 0 | .int32 => 32 | .fp32 => 32 | .int16 => 16 | .bf16 => 16 | .fp16 => 16 | .int8 => 8 | .uint8 => 8
  | .e4m3 => 8 | .e5m2 => 8 | .ds8 => 8

/-- An integer format (R56). -/
def Fmt.isInt : Fmt → Bool
  | .int32 | .int16 | .int8 | .uint8 => true
  | .empty | .fp32 | .bf16 | .fp16 | .e4m3 | .e5m2 | .ds8 => false

/-- A binary floating-point format (R57). -/
def Fmt.isFp : Fmt → Bool
  | .fp32 | .bf16 | .fp16 | .e4m3 | .e5m2 => true
  | .empty | .int32 | .int16 | .int8 | .uint8 | .ds8 => false

/-- Rounding modes (R65). -/
inductive Rm where
  | rne | rz | ru | rd | sr
  deriving DecidableEq, Repr

/-- RMODE.RM as software reads it (R65). -/
def Rm.code : Rm → Nat
  | .rne => 0 | .rz => 1 | .ru => 2 | .rd => 3 | .sr => 4

/-- RMODE.RM as software writes it: 5, 6 and 7 store 0 (R65). -/
def Rm.ofCode : Nat → Rm
  | 1 => .rz | 2 => .ru | 3 => .rd | 4 => .sr | _ => .rne

/-- The exact value of an element: ±m × 2^e, an infinity or a NaN. -/
inductive FpNum where
  | nan
  | inf (neg : Bool)
  | fin (neg : Bool) (m : Nat) (e : Int)
  deriving DecidableEq, Repr

/-- x × 2^k rounded down, for a k of either sign. -/
def scale2 (x : Nat) (k : Int) : Nat := if 0 ≤ k then x <<< k.toNat else x >>> (-k).toNat

/-! ### Integers (R56) -/

/-- The least and greatest value of an integer format. -/
def Fmt.range : Fmt → Int × Int
  | .int32 => (-2147483648, 2147483647)
  | .int16 => (-32768, 32767)
  | .int8 => (-128, 127)
  | .uint8 => (0, 255)
  | _ => (0, 0)

/-- The value of an integer element. -/
def intVal (f : Fmt) (x : Nat) : Int :=
  if f = .uint8 then (x : Int) else if x < 2 ^ (f.width - 1) then (x : Int) else (x : Int) - 2 ^ f.width

/-- The w-bit pattern of an integer, modulo 2^w. -/
def wrap (w : Nat) (x : Int) : Nat := (x % 2 ^ w).toNat

/-- Sat(x, f) of R6, as a bit pattern. -/
def satInt (f : Fmt) (x : Int) : Nat :=
  let (lo, hi) := f.range
  wrap f.width (if x < lo then lo else if hi < x then hi else x)

/-! ### Floating-point formats (R57) -/

/-- Exponent width, fraction width, bias. -/
def Fmt.layout : Fmt → Nat × Nat × Nat
  | .fp32 => (8, 23, 127)
  | .bf16 => (8, 7, 127)
  | .fp16 => (5, 10, 15)
  | .e4m3 => (4, 3, 7)
  | .e5m2 => (5, 2, 15)
  | _ => (0, 0, 0)

/-- The largest finite magnitude's bit pattern (R57). -/
def Fmt.maxFinite : Fmt → Nat
  | .fp32 => 0x7F7FFFFF
  | .bf16 => 0x7F7F
  | .fp16 => 0x7BFF
  | .e4m3 => 0x7E
  | .e5m2 => 0x7B
  | _ => 0

/-- The canonical NaN (R57). -/
def Fmt.nan : Fmt → Nat
  | .fp32 => 0x7FC00000
  | .bf16 => 0x7FC0
  | .fp16 => 0x7E00
  | .e4m3 => 0x7F
  | .e5m2 => 0x7E
  | _ => 0

/-- The positive infinity; for FP8E4M3, which has none, the value that R71 gives instead (448). -/
def Fmt.infinity : Fmt → Nat
  | .fp32 => 0x7F800000
  | .bf16 => 0x7F80
  | .fp16 => 0x7C00
  | .e4m3 => 0x7E
  | .e5m2 => 0x7C
  | _ => 0

/-- A magnitude with its sign bit. -/
def withSign (f : Fmt) (neg : Bool) (x : Nat) : Nat := if neg then x + 2 ^ (f.width - 1) else x

/-- The value of a floating-point element (R57). -/
def fpVal (f : Fmt) (x : Nat) : FpNum :=
  let (eb, w, b) := f.layout
  let neg := x.testBit (eb + w)
  let E := (x >>> w) % 2 ^ eb
  let F := x % 2 ^ w
  if f = .e4m3 ∧ E = 15 ∧ F = 7 then .nan else
  if f ≠ .e4m3 ∧ E = 2 ^ eb - 1 then (if F = 0 then .inf neg else .nan) else
  if E = 0 then .fin neg F (1 - (b : Int) - w) else .fin neg (2 ^ w + F) ((E : Int) - b - w)

/-! ### DS8 and SC16 (R58 to R60) -/

/-- One DS8 term in units of 2^-6. -/
def ds8Term (neg : Bool) (code : Nat) : Int :=
  if code = 7 then 0 else if neg then -(2 ^ (6 - code) : Int) else 2 ^ (6 - code)

/-- A DS8 weight in units of 2^-6 (R58). -/
def ds8Units (x : Nat) : Int := ds8Term (x.testBit 7) (x / 16 % 8) + ds8Term (x.testBit 3) (x % 8)

/-- A DS8 weight as a value. -/
def ds8Val (x : Nat) : FpNum := .fin (decide (ds8Units x < 0)) (ds8Units x).natAbs (-6)

/-- The value of an SC16 scale (R60). -/
def sc16Val (x : Nat) : FpNum :=
  let e := x / 256 % 256
  if e = 0 then .fin false 0 0 else if e = 255 then .nan else .fin false (256 + x % 256) ((e : Int) - 135)

/-- The exact value of an element of any data format. -/
def elemVal (f : Fmt) (x : Nat) : FpNum :=
  if f.isInt then .fin (decide (intVal f x < 0)) (intVal f x).natAbs 0 else if f = .ds8 then ds8Val x else fpVal f x

/-! ### Rounding (R65 to R70) -/

/-- LfsrStep (R68). -/
def lfsrStep (x : Word) : Word := if x.getLsbD 0 then (x >>> 1) ^^^ 0x80200003#32 else x >>> 1

/-- n steps of the generator. -/
def lfsrSteps : Nat → Word → Word
  | 0, x => x
  | n + 1, x => lfsrSteps n (lfsrStep x)

/-- Draw16 (R68): the state after 16 steps; the drawn number is its bits [15:0]. -/
def draw16 (x : Word) : Word := lfsrSteps 16 x

/-- One draw where the mode is SR: the number r and the state after it. -/
def drawIf (yes : Bool) (l : Word) : Nat × Word := if yes then ((draw16 l).toNat % 65536, draw16 l) else (0, l)

/-- Whether n units and rem / 2^k of a unit round to n + 1 units (R67, R68; r is the SR draw). -/
def roundsUp (m : Rm) (neg : Bool) (r n rem k : Nat) : Bool :=
  match m with
  | .rne => decide (2 ^ k < 2 * rem ∨ (2 * rem = 2 ^ k ∧ n % 2 = 1))
  | .rz => false
  | .ru => decide (neg = false ∧ 0 < rem)
  | .rd => decide (neg = true ∧ 0 < rem)
  | .sr => decide (2 ^ k * 65536 ≤ rem * 65536 + r * 2 ^ k)

/-- m × 2^e rounded to a whole number of units 2^q. -/
def roundUnits (md : Rm) (neg : Bool) (r m : Nat) (e q : Int) : Nat :=
  if q ≤ e then m <<< (e - q).toNat else
    let k := (q - e).toNat
    let n := m >>> k
    if roundsUp md neg r n (m % 2 ^ k) k then n + 1 else n

/-- What a result beyond the largest finite value becomes (the table of R71). -/
def overflow (f : Fmt) (md : Rm) (neg : Bool) : Nat :=
  if f = .e4m3 ∨ f = .e5m2 then f.maxFinite else
  match md with
  | .rne => f.infinity
  | .rz => f.maxFinite
  | .ru => if neg then f.maxFinite else f.infinity
  | .rd => if neg then f.infinity else f.maxFinite
  | .sr => f.maxFinite

/-- Round(x, f, m) for a floating-point format f, as a bit pattern (R67 to R71; r is the SR draw). -/
def fpRound (f : Fmt) (md : Rm) (r : Nat) : FpNum → Nat
  | .nan => f.nan
  | .inf neg => withSign f neg f.infinity
  | .fin neg m e =>
    if m = 0 then withSign f neg 0 else
    let (_, w, b) := f.layout
    let qmin : Int := 1 - (b : Int) - w
    let q := max ((m.log2 : Int) + e - w) qmin
    let bits := (q - qmin).toNat * 2 ^ w + roundUnits md neg r m e q
    withSign f neg (if f.maxFinite < bits then overflow f md neg else bits)

/-- Rounding to an integer format, then saturation; NaN gives 0 (R72). -/
def intRound (f : Fmt) (md : Rm) (r : Nat) : FpNum → Nat
  | .nan => 0
  | .inf neg => satInt f (if neg then f.range.1 else f.range.2)
  | .fin neg m e =>
    let n := roundUnits md neg r m e 0
    satInt f (if neg then -(n : Int) else n)

/-- How far |x| lies from v × 2^-6, in a common unit, with x = a × 2^e. -/
def ds8Dist (a : Int) (e : Int) (v : Int) : Nat :=
  if -6 ≤ e then (a * 2 ^ (e + 6).toNat - v).natAbs else (a - v * 2 ^ (-6 - e).toNat).natAbs

/-- The better of two DS8 bytes for a × 2^e: nearer, then smaller magnitude, then the one found first. -/
def ds8Better (a e : Int) (best x : Nat) : Nat :=
  let db := ds8Dist a e (ds8Units best)
  let dx := ds8Dist a e (ds8Units x)
  if dx < db ∨ (dx = db ∧ (ds8Units x).natAbs < (ds8Units best).natAbs) then x else best

/-- The canonical DS8 encoding nearest to a value (R59, R72). -/
def ds8Round : FpNum → Nat
  | .nan => 0x77
  | .inf neg => if neg then 0x88 else 0x00
  | .fin neg m e =>
    let a : Int := if neg then -(m : Int) else m
    let x := (List.range 256).foldl (ds8Better a e) 0
    if ds8Units x = 0 then 0x77 else x

/-! ### Exact arithmetic (R71) -/

/-- Change of sign. -/
def FpNum.negate : FpNum → FpNum
  | .nan => .nan
  | .inf n => .inf (!n)
  | .fin n m e => .fin (!n) m e

/-- The sign, false for NaN. -/
def FpNum.sign : FpNum → Bool
  | .nan => false
  | .inf n => n
  | .fin n _ _ => n

/-- Exact product; 0 × ∞ is NaN. -/
def FpNum.mul : FpNum → FpNum → FpNum
  | .nan, _ => .nan
  | _, .nan => .nan
  | .inf a, .inf b => .inf (a != b)
  | .inf a, .fin b m _ => if m = 0 then .nan else .inf (a != b)
  | .fin a m _, .inf b => if m = 0 then .nan else .inf (a != b)
  | .fin a m e, .fin b n f => .fin (a != b) (m * n) (e + f)

/-- ±m × 2^e in units of 2^q, q ≤ e. -/
def signedUnits (neg : Bool) (m : Nat) (e q : Int) : Int :=
  let n : Int := (m <<< (e - q).toNat : Nat)
  if neg then -n else n

/-- Exact sum; the sign of an exact zero sum depends on the mode RD alone (R71). -/
def FpNum.add (rd : Bool) : FpNum → FpNum → FpNum
  | .nan, _ => .nan
  | _, .nan => .nan
  | .inf a, .inf b => if a = b then .inf a else .nan
  | .inf a, .fin _ _ _ => .inf a
  | .fin _ _ _, .inf b => .inf b
  | .fin a m e, .fin b n f =>
    let q := min e f
    let x := signedUnits a m e q + signedUnits b n f q
    if x = 0 then .fin (if m = 0 ∧ n = 0 ∧ a = b then a else rd) 0 q else .fin (decide (x < 0)) x.natAbs q

/-- The quotient, exact up to a last bit that stands for a nonzero rest: at least 64 bits are kept, which decides every rounding of
a 32-bit format, SR included (R241). -/
def FpNum.div : FpNum → FpNum → FpNum
  | .nan, _ => .nan
  | _, .nan => .nan
  | .inf _, .inf _ => .nan
  | .inf a, .fin b _ _ => .inf (a != b)
  | .fin a _ _, .inf b => .fin (a != b) 0 0
  | .fin a m e, .fin b n f =>
    if n = 0 then (if m = 0 then .nan else .inf (a != b)) else
    let k := 64 + n.log2
    let x := m <<< k
    .fin (a != b) (2 * (x / n) + (if x % n = 0 then 0 else 1)) (e - f - k - 1)

/-- The largest r below 2^k that adds to acc with (acc + r)^2 ≤ n. -/
def isqrtBits (n : Nat) : Nat → Nat → Nat
  | 0, acc => acc
  | k + 1, acc => isqrtBits n k (if (acc + 2 ^ k) * (acc + 2 ^ k) ≤ n then acc + 2 ^ k else acc)

/-- The square root, exact up to a last bit that stands for a nonzero rest, at least 64 bits kept. -/
def FpNum.sqrt : FpNum → FpNum
  | .nan => .nan
  | .inf neg => if neg then .nan else .inf false
  | .fin neg m e =>
    if m = 0 then .fin neg 0 0 else if neg then .nan else
    let k := 128 + (e % 2).toNat
    let x := m <<< k
    let r := isqrtBits x (x.log2 / 2 + 1) 0
    .fin false (2 * r + (if r * r = x then 0 else 1)) ((e - k) / 2 - 1)

/-- The value of a finite number compared: −1, 0 or 1 as an Int; both finite or infinite. -/
def FpNum.cmp : FpNum → FpNum → Option Int
  | .nan, _ => none
  | _, .nan => none
  | .inf a, .inf b => some (if a = b then 0 else if a then -1 else 1)
  | .inf a, .fin _ _ _ => some (if a then -1 else 1)
  | .fin _ _ _, .inf b => some (if b then 1 else -1)
  | .fin a m e, .fin b n f =>
    let q := min e f
    some (signedUnits a m e q - signedUnits b n f q).sign

/-! ### Conversions (R72) -/

/-- The format pairs whose results are rounded by the mode, and so draw under SR (R69, R72). -/
def convRounds (src dst : Fmt) : Bool :=
  if src = dst ∨ dst = .ds8 ∨ dst = .empty ∨ src = .empty then false else
  if src.isInt then dst.isFp else
  if dst.isInt then true else
  match src, dst with
  | .fp32, _ => true
  | .bf16, .fp32 => false
  | .fp16, .fp32 => false
  | .bf16, _ => true
  | .fp16, _ => true
  | .e4m3, .e5m2 => true
  | .e5m2, .e4m3 => true
  | .ds8, .e4m3 => true
  | .ds8, .e5m2 => true
  | _, _ => false

/-- One element converted (R72); DS8 results are canonical (R59). -/
def convElem (src dst : Fmt) (md : Rm) (r : Nat) (x : Nat) : Nat :=
  if dst = .ds8 then ds8Round (elemVal src x) else
  if src = dst then x else
  if src.isInt ∧ dst.isInt then satInt dst (intVal src x) else
  if dst.isInt then intRound dst md r (elemVal src x) else fpRound dst md r (elemVal src x)

/-- A conversion with its draw, threading the LFSR state. -/
def convDraw (src dst : Fmt) (md : Rm) (l : Word) (x : Nat) : Nat × Word :=
  let (r, l') := drawIf (md = .sr && convRounds src dst) l
  (convElem src dst md r x, l')

/-- A result of a floating-point format rounded with its draw. -/
def roundDraw (f : Fmt) (md : Rm) (l : Word) (x : FpNum) : Nat × Word :=
  let (r, l') := drawIf (md = .sr) l
  (fpRound f md r x, l')

/-- A list of results, drawn in list order. -/
def mapDraw {α β : Type} (f : Word → α → β × Word) : Word → List α → List β × Word
  | l, [] => ([], l)
  | l, x :: xs =>
    let (y, l') := f l x
    let (ys, l'') := mapDraw f l' xs
    (y :: ys, l'')

/-! ### Matrix K-steps (R73 to R75) -/

/-- Exp(p): 2^e ≤ |p| < 2^(e+1), none for zero and for specials. -/
def FpNum.exp : FpNum → Option Int
  | .fin _ m e => if m = 0 then none else some ((m.log2 : Int) + e)
  | _ => none

/-- The greatest exponent of a list of products. -/
def maxExp (ps : List FpNum) : Option Int :=
  ps.foldl (fun b p => match b, p.exp with
    | none, x => x
    | some y, none => some y
    | some y, some x => some (max y x)) none

/-- Sign(p) × Floor(|p| / 2^q). -/
def FpNum.floorUnits (q : Int) : FpNum → Int
  | .fin neg m e => if neg then -(scale2 m (e - q) : Int) else scale2 m (e - q)
  | _ => 0

/-- The truncated sum of one step's products (R75). -/
def kSum (ps : List FpNum) : FpNum :=
  if ps.any (· = .nan) then .nan else
  if ps.any (· = .inf false) ∧ ps.any (· = .inf true) then .nan else
  if ps.any (· = .inf false) then .inf false else
  if ps.any (· = .inf true) then .inf true else
  match maxExp ps with
  | none => .fin false 0 0
  | some e =>
    let n := (ps.map (FpNum.floorUnits (e - 48))).foldl (· + ·) 0
    .fin (decide (n < 0)) n.natAbs (e - 48)

/-- KStep (R75): the new FP32 accumulator from the old one, the scales and the sixteen products. -/
def kStep (acc : Nat) (sa sb : FpNum) (ps : List FpNum) : Nat :=
  fpRound .fp32 .rne 0 (FpNum.add false (fpVal .fp32 acc) ((kSum ps).mul sa |>.mul sb))

/-! ### Reduction trees (R76, R77) -/

/-- One level of the tree, threading the draws. -/
def reduceLevel {α : Type} (op : Word → α → α → α × Word) : Word → List α → List α × Word
  | l, x :: y :: t =>
    let (z, l') := op l x y
    let (zs, l'') := reduceLevel op l' t
    (z :: zs, l'')
  | l, t => (t, l)

/-- Reduce (R77): n levels. -/
def reduceTree {α : Type} (op : Word → α → α → α × Word) : Nat → Word → List α → List α × Word
  | 0, l, xs => (xs, l)
  | n + 1, l, xs =>
    let (ys, l') := reduceLevel op l xs
    reduceTree op n l' ys

end Sys2Proof.Machine
end

