-- ==== Sys2Proof/Machine/State.lean ====
section
/-! DEFINITION. The state of the machine: one package and what it has sent and is yet to receive. INVENTORY.md lists every field with
the rule that names it and its reset value. -/

namespace Sys2Proof.Machine

/-- Why the machine stops: never. Every trap, notification, rejection and failure that the spec describes is a next state, so this
type has no constructor. -/
inductive Fault where
  deriving DecidableEq, Repr

/-- Why an instruction has no meaning here. -/
inductive Refusal where
  /-- raised by exec for an instruction without a meaning in this model. Safe. -/
  | notModelled (mnemonic : String)
  deriving DecidableEq, Repr

/-! ### Traps -/

/-- What an operation report names: its task and core, sequence number, transfer-map op, faulting element and DONE (R416). -/
structure OpRef where
  tid : Nat
  core : CoreId
  seq : BitVec 16
  opc : Nat
  felem : Nat
  done : Nat
  deriving DecidableEq, Repr

/-- A trap as it is raised: what R416 records of its cause. -/
structure Trap where
  cls : TrapClass
  /-- PRECISE. -/
  precise : Bool := true
  /-- ASYNC. -/
  async : Bool := false
  /-- ACCESS: 0 none, 1 read, 2 write, 3 fetch, 4 atomic. -/
  access : Nat := 0
  addr : Nat := 0
  opclass : Nat := 0
  ecode : Nat := 0
  status : Nat := 0
  fn7 : Nat := 0
  /-- ENGINE: 0 none, 1 load BTE, 2 store BTE, 3 array, 4 epilogue, 5 cop engine. -/
  engine : Nat := 0
  op : Option OpRef := none
  /-- NODE of the record, where it is not the task's (R416). -/
  node : Option Nat := none
  /-- the PC of the record, where it is not the saved PC (R411). -/
  pc : Option Word := none
  deriving DecidableEq, Repr

/-! ### Token queues (R41 to R48) -/

/-- The asynchronous operation that owns a pending slot. -/
inductive Owner where
  | dma (c : CoreId) (seq : BitVec 16)
  | mma (n : Nat)
  | epi (n : Nat)
  deriving DecidableEq, Repr

/-- An occupied slot: filled with a token in a cycle, pending, or poisoned with a fault (R42, R44, R47). -/
inductive Slot where
  | filled (tk : Byte) (at_ : Nat)
  | pending (o : Owner)
  | poisoned (o : Owner) (t : Trap)
  deriving DecidableEq, Repr

/-- A token queue, head first. `freed` is the cycle of the last take: that slot is free from the next cycle (R44). -/
structure Queue where
  slots : List Slot := []
  freed : Option Nat := none
  deriving DecidableEq, Repr

/-- The six queues of a tile (R41). -/
structure Queues where
  lc : Queue := {}
  cl : Queue := {}
  cs : Queue := {}
  sc : Queue := {}
  ls : Queue := {}
  sl : Queue := {}
  deriving DecidableEq, Repr

/-! ### A core -/

/-- What a stream waits for (R53, R55). -/
inductive Wait where
  | run
  | take
  | reserve
  | hbarTile
  /-- a barrier wait: the slot's memory key and whether it lies in tile scratch. -/
  | bar (key : Nat) (tile : Bool)
  /-- a barrier wait whose slot has been retired (R176). -/
  | barGone
  /-- a wait that does not park: an interlock, a lock bit, a fence, an engine entry, a reply. -/
  | other
  deriving DecidableEq, Repr

/-- What holds a stream back before its next issue. -/
inductive Hold where
  /-- the completion of its own operation, under MODE.PRECISE (R195); the word is the PC of the instruction. -/
  | op (seq : BitVec 16) (pc : Word)
  /-- the reply of its cop in Wait mode, which retires the cop (R144). -/
  | reply (n : Nat)
  /-- the completion of a cop in Post or Async mode under MODE.PRECISE (R408). -/
  | cop (n : Nat) (pc : Word)
  /-- the word of its ld.acq from another package, which retires the ld.acq: register, token bits and stall count. -/
  | packet (id : Nat) (gd : GReg) (k : Tok)
  deriving DecidableEq, Repr

/-- A register named by an instruction. -/
inductive Reg where
  | g (r : GReg)
  | h (r : HReg)
  | v (n : Nat)
  | p (r : PReg)
  deriving DecidableEq, Repr

/-- A fixed-latency result in flight (R134): a whole register, a v register's data that keeps the tag (INT32 in place of EMPTY, R238),
or a v register's tag alone (R235). -/
inductive Land where
  | g (r : GReg) (x : Word)
  | v (r : Nat) (x : BitVec 2048) (t : Fmt)
  | data (r : Nat) (x : BitVec 2048)
  | tag (r : Nat) (t : Fmt)
  | p (r : PReg) (x : BitVec 64)
  deriving DecidableEq, Repr

/-- A result in flight and the cycle in which it lands. -/
structure Flight where
  land : Land
  at_ : Nat
  deriving DecidableEq, Repr

/-- A loop frame (R170). -/
structure LoopFrame where
  start : Word
  stop : Word
  count : Word
  deriving DecidableEq, Repr

/-- The packets a stream has sent to one package in one counted group, per path, since its last flag there (R124). -/
structure SentCount where
  pkg : BitVec 12
  group : Nat
  counts : List Nat
  /-- the number of the first packet since that flag. -/
  since : Nat
  /-- the path of the flags of this key: it changes only when every flag sent by it has been acknowledged. -/
  route : Option Nat
  deriving DecidableEq, Repr

/-- One stream core (R13, R36). -/
structure CoreSt where
  pc : Word
  g : Vector (BitVec 32) 32
  /-- handle registers; the LOCK bit stays 0 here, as it is held by the running mma (R89). -/
  h : Vector (BitVec 256) 16
  precise : Bool
  checkstall : Bool
  stklim : Word
  timeh : Word
  /-- innermost frame first (R169). -/
  loops : List LoopFrame
  /-- the stream has retired done (R38). -/
  fin : Bool
  /-- the earliest cycle of the next issue (R133). -/
  next : Nat
  wait : Wait
  /-- g operands of the instruction that waits after its issue, as it read them then (R134, R411). -/
  latch : List (GReg × Word)
  /-- the request block of a cop that waits for a request entry, as it read it then (R265). -/
  latchB : List Byte
  hold : Option Hold
  flight : List Flight
  /-- g registers interlocked on a reply: of a cop request or of a packet (R144, R206). -/
  pend : List (GReg × Hold)
  /-- the lost mark of R99. -/
  lost : Bool
  /-- the next SEQ of the core's BTE, and whether it has wrapped (R191). -/
  seq : BitVec 16
  /-- faults that wait for the stream's next report point (R267, R409). -/
  late : List Trap
  /-- g registers whose Async reply was a trap: a reader raises it (R283). -/
  dead : List (GReg × Trap)
  /-- hbar episodes arrived in, scopes 0 to 4 (R178), and the scope the stream waits in. -/
  hbarN : Vector Nat 5
  hbarIn : Option Nat
  /-- the number of the next packet when the release under way was first tried (R123), and whether a write it covers has been
  acknowledged negatively since (R428); the target and group whose writes an ordered flag exempts (R124). -/
  relMark : Option Nat
  relExempt : Option (BitVec 12 × Nat)
  relBad : Option Trap
  /-- collective episodes issued, scopes 0 to 4 (R272). -/
  collN : Vector Nat 5
  sent : List SentCount
  /-- registers with an uncorrectable error (R444); v and p registers stand in the compute core's list. -/
  bad : List Reg
  deriving DecidableEq, Repr

/-- A core with every register zero and no stream. -/
def CoreSt.empty : CoreSt where
  pc := 0
  g := Vector.replicate 32 0
  h := Vector.replicate 16 0
  precise := false
  checkstall := false
  stklim := 0
  timeh := 0
  loops := []
  fin := true
  next := 0
  wait := .run
  latch := []
  latchB := []
  hold := none
  flight := []
  pend := []
  lost := false
  seq := 0
  late := []
  dead := []
  hbarN := Vector.replicate 5 0
  hbarIn := none
  relMark := none
  relExempt := none
  relBad := none
  collN := Vector.replicate 5 0
  sent := []
  bad := []

/-! ### Engines of a tile -/

/-- A tile-map entry that is valid: logical and physical tile (R27). -/
structure TileMap where
  l : Nat
  p : BitVec 8
  deriving DecidableEq, Repr

/-- A package-map entry that is valid: logical package, GROUP and MEMBER, RCREF (R27). -/
structure PkgMap where
  l : Nat
  p : BitVec 12
  rcref : BitVec 20
  deriving DecidableEq, Repr

/-- What a transfer operation does (chapter 08). -/
inductive OpKind where
  | copy
  | multicast (first count : Nat)
  | gather (list : Nat) (zoob : Bool)
  | scatter (list : Nat)
  | rd (paths : Nat)
  | wr (paths ogrp : Nat)
  | rvat (paths ogrp : Nat)
  /-- rat: atomic code, package, address, operand, compare value, destination register. -/
  | rat (code pkg addr : Nat) (b cmp : Word) (gd : GReg)
  | ldPlace (desc : Word)
  | stPlace (desc : Word)
  deriving DecidableEq, Repr

/-- A BTE operation with its progress record (R191 to R194). -/
structure Op where
  core : CoreId
  seq : BitVec 16
  opc : Nat
  kind : OpKind
  hd : BitVec 256
  hs : BitVec 256
  /-- destination and source barrier: memory key of the slot. -/
  dbar : Option Nat
  sbar : Option Nat
  /-- the instruction's own address. -/
  pc : Word
  /-- DONE, TOTAL. -/
  done : Nat
  total : Nat
  /-- STATE 1 queued, 2 running, 3 faulted. -/
  running : Bool
  fault : Option Trap
  /-- the fault has been reported and the operation not restarted: it is the subject of a stop. -/
  reported : Bool
  /-- a packet of it has been acknowledged negatively: it is a broken remote write (R427). -/
  broken : Bool
  /-- destination bytes credited, and packets acknowledged of a remote write. -/
  credited : Nat
  acked : List Nat
  srcDone : Bool
  /-- the paths that its packets use (R188, R385). -/
  paths : List Nat
  /-- MODE.PRECISE at issue. -/
  precise : Bool
  /-- the package-map entry of a target in another package; none for this package. -/
  remote : Option PkgMap
  /-- where it stands among the cop requests: how many were sent before it (R342). -/
  recv : Nat
  /-- a placement operation: the home that it has asked for its turn and the number of the request, whether the home has let it begin, and
  its first free value once it has begun (R332, R342). -/
  ask : Option (PkgMap × Nat)
  granted : Bool
  free : Option Nat
  deriving DecidableEq, Repr

/-- A matrix operation before its completion point (R254, R263). -/
structure Mma where
  id : Nat
  a : Option HReg
  b : HReg
  /-- the operands' handles, the ring counter of its slot, K-steps applied, whether it is an mma.gx, and its index lanes. -/
  ha : BitVec 256
  hb : BitVec 256
  slot : BitVec 4
  steps : Nat
  gather : Bool
  lanes : BitVec 2048
  deriving DecidableEq, Repr

/-- An epilogue command before its completion point (R259, R260). -/
structure Epi where
  id : Nat
  h : BitVec 256
  cmd : Word
  bias : Word
  /-- the ring counter of the slot it consumes. -/
  slot : BitVec 4
  /-- LFSRE at its turn in the order of issue: its draws start there (R69). -/
  lfsr : Word
  deriving DecidableEq, Repr

/-- 256 bytes pushed through an output port and not yet in memory: the cycle in which they land, and their key (R214). -/
structure Push where
  at_ : Nat
  key : Nat
  val : BitVec 2048
  deriving DecidableEq, Repr

/-- A vector port's parameter set (R217). -/
structure Port where
  addr : Word := 0
  fmt : Fmt := .empty
  n0 : BitVec 16 := 0
  n1 : BitVec 16 := 0
  n2 : BitVec 16 := 0
  s0 : Word := 0
  s1 : Word := 0
  s2 : Word := 0
  pos : Word := 0
  deriving DecidableEq, Repr

/-! ### A tile -/

/-- The task on a tile (R32, R36). -/
structure Task where
  /-- the number of this start of a task since power-up; kept across save and restore. -/
  id : Nat := 0
  cnum : Nat := 0
  /-- logical tile. -/
  ltile : Nat := 0
  /-- launch node: address, run, instance index, ICOUNT, NODEID. -/
  node : Nat := 0
  run : Nat := 0
  inst : Nat := 0
  icount : Nat := 0
  nodeid : Nat := 0
  gang : Bool := false
  restartable : Bool := false
  pinned : Bool := false
  prio : Nat := 0
  /-- R37's limit S in bytes. -/
  limit : Nat := 0
  /-- REMTIME in cycles, and the cycle of the last start or resumption (R317). -/
  remtime : Nat := 0
  started : Nat := 0
  /-- the node's ready order (R316). -/
  order : Nat := 0
  /-- the code epoch at the start (R373). -/
  epoch : Nat := 0
  /-- CODEOBJ and its loaded generation. -/
  code : Nat := 0
  gen : Nat := 0
  deriving DecidableEq, Repr

/-- A stop under way or in force (R410 to R414). -/
structure Stop where
  trap : Trap
  core : Option CoreId
  /-- the saved state has been captured and the record written. -/
  captured : Bool
  deriving DecidableEq, Repr

/-- One tile and its task. -/
structure Tile where
  ptile : BitVec 8
  /-- the context whose state the tile holds (R23, R85). -/
  owner : Option Nat
  resident : Bool
  task : Task
  lc : CoreSt
  cc : CoreSt
  sc : CoreSt
  v : Vector (BitVec 2048) 56
  vtag : Vector Fmt 56
  vallot : BitVec 6
  p : Vector (BitVec 64) 8
  vgrp : BitVec 4
  rmode : Rm
  lfsrc : Word
  lfsre : Word
  /-- pi0 to pi3, po0, po1. -/
  ports : Vector Port 6
  /-- port pushes on their way to memory, oldest first. -/
  pushes : List Push
  q : Queues
  ringHd : BitVec 4
  ringTl : BitVec 4
  ops : List Op
  mmas : List Mma
  epis : List Epi
  /-- the number of the next array operation or epilogue command. -/
  nextId : Nat
  tumbler : Nat
  stop : Option Stop
  /-- the cycle in which a draining task is checkpointed (R318). -/
  drain : Option Nat
  /-- a checkpoint has begun: the cycle in which the image is written (R319). -/
  saving : Option Nat
  deriving DecidableEq, Repr

/-- A tile that holds no task and no context's state. -/
def Tile.empty (pt : BitVec 8) : Tile where
  ptile := pt
  owner := none
  resident := false
  task := {}
  lc := .empty
  cc := .empty
  sc := .empty
  v := Vector.replicate 56 0
  vtag := Vector.replicate 56 .empty
  vallot := 8
  p := (Vector.replicate 8 0).set 0 (-1#64)
  vgrp := 1
  rmode := .rne
  lfsrc := 1
  lfsre := 1
  ports := Vector.replicate 6 {}
  pushes := []
  q := {}
  ringHd := 0
  ringTl := 0
  ops := []
  mmas := []
  epis := []
  nextId := 0
  tumbler := 0
  stop := none
  drain := none
  saving := none

/-! ### The package -/

/-- A timed event: the cycle in which it takes place, the step and its operands. -/
structure Due where
  at_ : Nat
  ev : Instr
  arg : EvArg
  deriving DecidableEq, Repr

/-- A set lock bit: the memory key of its bank, its number, its holder, the cycle in which it was set (R98, R99). -/
structure Lock where
  bank : Nat
  bit : Nat
  tile : BitVec 8
  core : CoreId
  since : Nat
  deriving DecidableEq, Repr

/-- A memory grant: a run of pages of the child mapped onto a run of its parent's pages (R354). -/
structure Window where
  page : Nat
  parentPage : Nat
  count : Nat
  r : Bool
  w : Bool
  x : Bool
  deriving DecidableEq, Repr

/-- A range monitor (R296, R364). -/
structure Monitor where
  n : Nat
  /-- the context that armed it. -/
  owner : Nat
  base : Nat
  len : Nat
  countR : Bool
  countW : Bool
  reads : Nat := 0
  writes : Nat := 0
  first : BitVec 64 := 0
  last : BitVec 64 := 0
  /-- whether its counts have changed since its previous log entry (R365). -/
  changed : Bool := false
  deriving DecidableEq, Repr

/-- A tile or package-map entry granted to a child (R288): the caller's entry, the child, its entry, and the physical tile. -/
structure Given where
  pkg : Bool
  unit : Nat
  child : Nat
  at_ : Nat
  tile : BitVec 8
  deriving DecidableEq, Repr

/-- A run of a receipt record (R366, R367). -/
structure Scrubbed where
  kind : Nat
  byScrub : Bool
  count : Nat
  first : Nat
  last : Nat
  bytes : Nat
  deriving DecidableEq, Repr

/-- A receipt record (R290, R293, R366). -/
structure Receipt where
  runs : List Scrubbed := []
  path : List Nat := []
  kepoch : Nat := 0
  tstart : Nat := 0
  tend : Nat := 0
  deriving DecidableEq, Repr

/-- A planned transfer (R346): destination and source rank, and the box: low corner and extents of dimensions 0 to 3. -/
structure Xfer where
  q : Nat
  p : Nat
  lo : List Nat
  ext : List Nat
  deriving DecidableEq, Repr

/-- A re-shard job (R280, R281, R348). -/
structure Job where
  n : Nat
  /-- 1 PLANNED, 2 RUNNING, 3 STOPPED, 4 DONE. -/
  st : Nat
  srec : Nat
  drec : Nat
  prog : Nat
  plan : List Xfer
  /-- the element width in bytes. -/
  width : Nat
  sver : Nat
  dver : Nat
  /-- transfers complete. -/
  done : List Nat := []
  fclass : Nat := 0
  fxfer : Nat := 2 ^ 32 - 1
  faddr : Nat := 0
  /-- the request whose reply is outstanding, and whether its turn on both tensors has come (R342). -/
  req : Option Nat := none
  began : Bool := false
  /-- the other packages that are homes of its tensors and have been asked for its turn: record index, home, number of the request, and
  whether the home has let it begin (R342). -/
  asks : List (Nat × PkgMap × Nat × Bool) := []
  /-- NEXT and the cycle of the last write of the progress record. -/
  wnext : Nat := 0
  wtime : Nat := 0
  deriving DecidableEq, Repr

/-- A saved task (R319 to R322): its slot, the GEN it is valid under, whether its directory entry is valid, the tile's registers,
queues, ring counters and records, and the live barrier slots of its scratch with their causes, as offsets. The ring slots and the
scratch stand in the save area itself. -/
structure Image where
  slot : Nat
  gen : Nat
  valid : Bool
  tile : Tile
  bars : List Nat
  errs : List (Nat × Trap)
  /-- a disposition written while the task is saved, and what was written through its state window before it (R414, R418). -/
  disp : Option Word
  writes : List (Nat × Byte)
  deriving DecidableEq, Repr

/-- A context (chapter 14). -/
structure Ctx where
  cnum : Nat
  cgen : Nat
  parent : Nat
  depth : Nat
  hard : Bool
  /-- the hard partition that contains it, 1 to 20, or 0 (R352, R384). -/
  part : Nat
  destroyed : Bool
  tmap : List TileMap
  pmap : List PkgMap
  wins : List Window
  /-- granted quad banks and die banks: physical unit and mask (R82). -/
  qbanks : List (Nat × Nat)
  dbanks : List (Nat × Nat)
  /-- host queues granted; the keystone holds the rest (R299). -/
  queues : List Nat
  /-- tile and package-map entries granted to children (R288). -/
  given : List Given
  /-- the reference time at which its guest time would have been 0 with no time paused (R320). -/
  born : BitVec 64
  /-- guest time: what it adds to the reference time in ns, and the time it stands at while stopped (R324). -/
  gbase : BitVec 64
  gstop : Option (BitVec 64)
  /-- SHARE, and the share and suspension asked for by ctx.budget until the next tick (R291, R312). -/
  share : Nat
  newShare : Option Nat
  pauseReq : Bool
  resumeReq : Bool
  paused : Bool
  throttled : Bool
  /-- switched out, or being switched out (R314, R315). -/
  out : Bool
  balance : Int
  transit : Bool
  lost : Bool
  torn : Bool
  /-- the cycle of the save deadline of a switch out under way, and whether its grace period runs (R438). -/
  deadline : Option Nat
  /-- translation generation (R355, R359). -/
  tgen : Nat
  /-- the virtual function bound to it, 0 for none (R353). -/
  vf : Nat
  /-- save area: address in the parent's space, size in KiB, and GEN (R287, R320). -/
  save : Nat
  saveKB : Nat
  gen : Nat
  saved : List Image
  /-- hold queue, oldest first (R323). -/
  held : List (Nat × HeldEv)
  /-- key epoch (R292). -/
  kepoch : Nat
  /-- the caller's name of each quad or die whose banks it was granted: die or quad, physical unit, logical unit (R367). -/
  bankNames : List (Bool × Nat × Nat)
  mesh : List (Nat × BitVec 512)
  ptab : List (Nat × BitVec 512)
  mons : List Monitor
  /-- entries appended to its log ring (R365). -/
  logN : Nat
  rcpt : Receipt
  jobs : List Job
  /-- the generation last assigned to each code identifier (R371). -/
  cgens : List (Nat × Nat)
  deriving DecidableEq, Repr

/-- A loaded generation of a code object (R371 to R373, R447). -/
structure Code where
  cnum : Nat
  ident : Nat
  gen : Nat
  /-- its place in the code store, code section size in bytes, pages checked. -/
  slot : Nat
  size : Nat
  checked : List Nat
  /-- the image's address, and the HASH entries of the header copied at LOAD. -/
  image : Nat := 0
  hash : List (List Byte) := []
  quarantined : Bool := false
  /-- UNLOADING, with its epoch U. -/
  unload : Option Nat := none
  deriving DecidableEq, Repr

/-- What sent a packet that awaits an acknowledgement or an answer. -/
inductive Own where
  /-- a BTE operation, and which of its packets. -/
  | op (seq : BitVec 16) (part : Nat)
  /-- an st.rel, or an ordered flag. -/
  | rel
  /-- an ld.acq. -/
  | acq
  /-- a count-only flag. -/
  | counts
  /-- a cop request: which of its packets. -/
  | req (n part : Nat)
  /-- a transfer of a re-shard job: which of its packets. -/
  | xfer (cnum job x part : Nat)
  deriving DecidableEq, Repr

/-- A packet not yet acknowledged or answered: the task, tile and core it came from, what it is part of, whether it is a remote write
(R121), its first destination element, and for a read request the bytes that have come. -/
structure Sent where
  pkt : Packet
  tid : Nat
  tile : BitVec 8
  core : CoreId
  own : Own
  write : Bool
  elem : Nat := 0
  data : Option (List Byte) := none
  /-- it waits at the source, as no path is usable (R385). -/
  waits : Bool := false
  /-- it was refused for a full order table, and waits to be sent again (R124). -/
  again : Bool := false
  deriving DecidableEq, Repr

/-- A cop request sent and not yet answered (R184, R268 to R270). -/
structure Req where
  n : Nat
  tid : Nat
  tile : BitVec 8
  core : CoreId
  cnum : Nat
  fn7 : Nat
  mode : Nat
  gd : GReg
  pc : Word
  precise : Bool
  ga : Word
  gb : Word
  block : List Byte
  /-- memory key of the completion barrier slot and of the source barrier slot. -/
  dbar : Option Nat
  sbar : Option Nat
  /-- the episode of a collective. -/
  ep : Option EpKey
  /-- packets with a number below this are covered by the release at issue, where there is one (R283). -/
  mark : Nat
  /-- 0 received; 1 under way; a conversion: 1 reading, 2 writing, 3 sent to its home, 4 comparing the members' records; 9 performed, the
  reply is on its way. -/
  phase : Nat := 0
  /-- a request from another package: that package, and the request's number there. -/
  origin : Option (BitVec 12 × Nat) := none
  /-- a conversion: the mesh image that it found when it came, the members' copies of the record that have come, its first free value
  (R332, R341). -/
  noted : Option (BitVec 512) := none
  copies : List (BitVec 12 × Option (BitVec 512)) := []
  free : Nat := 0
  /-- the reply: STATUS and the whole word, and the trap the function raises at the stream, if any (R283). -/
  status : Nat := 0
  word : Word := 0
  raise : Option Trap := none
  deriving DecidableEq, Repr

/-! ### The launcher (chapter 12) -/

/-- A command queue that has been described (R299, R300, R304). -/
structure QSt where
  n : Nat
  desc : BitVec 256
  /-- the read and write index. -/
  rd : Nat
  wr : Nat
  /-- poll interval and next due time, in ns. -/
  ival : Nat
  due : Nat
  deriving DecidableEq, Repr

/-- A command packet parsed and not yet complete (R301, R302): 0 parsed, 1 started, 2 running; the nodes it has counted and which have
not ended. -/
structure Pkt where
  q : Nat
  idx : Nat
  pkt : BitVec 512
  st : Nat
  cnum : Nat
  nodes : List Nat
  deriving DecidableEq, Repr

/-- A node in the launcher's table (R308). -/
structure NodeRec where
  cnum : Nat
  addr : Nat
  /-- 0 waiting, 1 ready, 2 running, 3 complete, 4 rejected, 5 poisoned. -/
  st : Nat
  /-- its run is over: the next decrement begins a new one. -/
  ended : Bool
  run : Nat
  /-- the record as it was read when the node became ready. -/
  img : BitVec 512
  /-- when it became ready: cycle and order, and the tile that sent the decrement. -/
  readyAt : Nat
  order : Nat
  src : Option (BitVec 8)
  /-- instances still to place, instances not yet complete, and a0 of instance 0's compute stream. -/
  place : List Nat
  left : Nat
  a0 : Word
  /-- the run's future has been poisoned and its tasks are being killed: no instance is placed any more. -/
  dead : Bool
  deriving DecidableEq, Repr

/-! ### Traps on their way (R415 to R419) -/

/-- A trap record: delivered or waiting. -/
structure Mail where
  /-- order of raising. -/
  n : Nat
  /-- physical quad of the mailbox; none is the firmware core (R362). -/
  quad : Option Nat
  slot : Option Nat
  trap : Trap
  /-- the stopped task, its tile and the reporting core; none for a notification. -/
  tid : Option Nat
  tile : Option (BitVec 8)
  core : Option CoreId
  /-- the faulting and the handling context. -/
  fctx : Nat
  /-- the context from which a PASS goes on, and the handler once the search has found it (R361). -/
  passed : Option Nat
  hctx : Option Nat
  /-- the handler found when the trap was raised, with HENTRY and HSTACK as its control page then had them (R363). -/
  found : Option (Nat × Option (Word × Word))
  /-- bytes written through the state window, by offset in the image, oldest first; they take effect at resumption (R418). -/
  writes : List (Nat × Byte)
  record : BitVec 2048
  /-- a run is under way: HENTRY, HSTACK and the slot number in a0 (R417). -/
  running : Option (Word × Word × Word)
  deriving DecidableEq, Repr

/-! ### Fabric, host, power and boot -/

/-- An order-table entry (R124): source package, tile, core and group, applied counts, broken mark, flags held in order. -/
structure OrderEntry where
  src : BitVec 12
  tile : BitVec 8
  core : BitVec 2
  group : BitVec 3
  applied : List Nat
  broken : Bool
  flags : List Packet
  deriving DecidableEq, Repr

/-- What a link carries: a packet, or a control message to a package (R383, R384). -/
inductive Wire where
  | pkt (p : Packet)
  | ctl (dst : BitVec 12) (m : Ctl)
  deriving DecidableEq, Repr

/-- An integrity block sent and not acknowledged: its first flit's counter, whether it marks a switch of keys, and what it carries (R386;
one packet a block, log 34). -/
structure Block where
  counter : Nat
  switch : Bool
  wire : Wire
  deriving DecidableEq, Repr

/-- A link of the fabric switch, both directions as this end sees them (R386, R432, R433). -/
structure Link where
  n : Nat
  enabled : Bool
  /-- the send and the receive direction have failed. -/
  failTx : Bool
  failRx : Bool
  keyexh : Bool
  /-- flit counter of the next block sent. -/
  counter : Nat
  cur : Option (BitVec 256 × BitVec 48)
  next : Option (BitVec 256 × BitVec 48)
  /-- keys that have been switched from and not erased, oldest first, with the blocks sent under each and not acknowledged (R386). -/
  olds : List ((BitVec 256 × BitVec 48) × Nat)
  /-- failed transmissions of the block being received, and of the oldest unacknowledged block sent. -/
  tries : Nat
  failed : Nat
  /-- the blocks sent and not acknowledged, oldest first. -/
  blocks : List Block
  /-- LINK.KEYLOW has been raised for the key in use. -/
  low : Bool
  deriving DecidableEq, Repr

/-- A PCIe function (R377, R380): 0 the PF, 1 to 96 the VFs. -/
structure Func where
  n : Nat
  on : Bool
  apbase : Nat
  /-- log2 of the aperture size. -/
  aplog : Nat
  cmd : BitVec 512
  rsp : BitVec 512
  bell : Word
  deriving DecidableEq, Repr

/-- The power controller (R19, R21), in mW and degrees Celsius. -/
structure Power where
  on : Bool
  /-- the compute dies have power (R390). -/
  dies : Bool
  /-- the limit the firmware core last set, and the limit in force. -/
  set : Nat
  limit : Nat
  /-- samples of the running 1 ms window, newest first. -/
  window : List Nat
  /-- empty issue cycles are being inserted. -/
  slow : Bool
  temps : List Nat
  /-- the limit is being lowered; the cycle since which every die has read below 100. -/
  hot : Bool
  cool : Option Nat
  /-- the fatal error has been sent. -/
  fatal : Bool
  deriving DecidableEq, Repr

/-- Boot ROM, fuses and security engine (R388 to R390, R448). -/
structure Boot where
  /-- fuses: lifecycle state, minimum SVN, vendor key hash, number of the device secret; whether they fail their own check. -/
  life : Nat
  minSvn : Nat
  keyHash : BitVec 256
  secret : Nat
  fuseBad : Bool
  ready : Bool
  err : Nat
  tries : Nat
  /-- the vendor public key, decode table and firmware of the running image. -/
  vendor : List Byte
  table : List Byte
  firmware : List Byte
  bootId : BitVec 128
  rseq : Nat
  /-- the receipt key pair has been derived. -/
  keyed : Bool
  deriving DecidableEq, Repr

/-- The whole machine. -/
structure State where
  /-- the tile in focus, the other tiles in turn order, and the core with the turn (log 1). -/
  tile : Tile
  rest : List Tile
  sel : CoreId
  /-- how many tiles have had their turns in this cycle. -/
  turn : Nat
  /-- core cycles since power-up. -/
  now : Nat
  due : List Due
  arg : EvArg
  /-- the number of the next free value (log 3). -/
  freeN : Nat
  mem : List Host.Cell
  locks : List Lock
  /-- lld and amo waits in arrival order: bank, bit, tile, core (R98). -/
  lockq : List (Nat × Nat × BitVec 8 × CoreId)
  /-- keys of the slots that are barriers: set by bar.init, cleared by bar.retire (R91). -/
  bars : List Nat
  /-- for a slot whose ERR an engine set, the fault that set it (R93, R194, R268). -/
  errs : List (Nat × Trap)
  /-- keys of the words (SRAM) and bursts (HBM) with an uncorrectable error: 64-byte units in HBM, 8-byte units elsewhere (R444). -/
  poison : List Nat
  /-- pages of contexts whose translation has an uncorrectable error: context and page (R444). -/
  badPages : List (Nat × Nat)
  ctxs : List Ctx
  /-- the last CGEN of each context number that has been freed (R285). -/
  cgenPast : List (Nat × Nat)
  /-- the last key epoch of a key slot whose context number is free again (R292). -/
  keyPast : List (Nat × Nat)
  codes : List Code
  /-- GROUP and MEMBER of this package (R382). -/
  self : BitVec 12
  /-- packets and control messages sent, in order; answers and control messages that wait for a usable path (R432); packets not yet
  acknowledged; the number of the next packet. -/
  outbox : List Packet
  ctlOut : List (BitVec 12 × Ctl)
  outWait : List Wire
  unacked : List Sent
  pktN : Nat
  /-- links of other packages that are not in service, as the fabric has told (R385). -/
  farDown : List (BitVec 12 × Nat)
  /-- tensors whose shard a plain write has met during a conversion or job under way: context and index (R344). -/
  spoiled : List (Nat × Nat)
  /-- hbar arrivals of other packages (R51), and the episodes in which the others have been told of this package's (R178, R179). -/
  hbars : List (BitVec 12 × EpKey)
  hbarTold : List EpKey
  /-- the participants of collectives at .pod that each package has, this one among them, as they have been told (R272). -/
  parts : List (BitVec 12 × EpKey × List Part)
  /-- waiter records that belong to the future engine: key, node and next record as it linked them (R104). -/
  waits : List (Nat × Nat × Nat)
  /-- cop requests under way, and the number of the next. -/
  reqs : List Req
  reqN : Nat
  /-- the number of the next task start. -/
  taskN : Nat
  /-- key tags of HBM pages other than 0 (R357): page and key slot. -/
  keyTags : List (Nat × Nat)
  /-- units retired by a scrub, and units that do not read back as written (R445). -/
  retired : List Nat
  stuck : List Nat
  /-- owned lines of the remote atomic cache and the cycle in which the lease ends (R100). -/
  rac : List (Nat × Nat)
  /-- code epoch (R373), and the next free place of the code store. -/
  epoch : Nat
  codeN : Nat
  queues : List QSt
  /-- the queue the scanner served last, and the cycle of its next poll (R304). -/
  scanLast : Nat
  scanAt : Nat
  packets : List Pkt
  nodes : List NodeRec
  /-- order of the next ready node. -/
  readyN : Nat
  /-- free tiles per die as last reported to the distributor, and the free scratch in KiB: context, die, mask, KiB (R310). -/
  reports : List (Nat × Nat × Nat × Nat)
  /-- slice length in µs, the length from the next tick, the cycle of the last tick (R314). -/
  tickT : Nat
  tickNew : Nat
  tickAt : Nat
  mail : List Mail
  mailN : Nat
  /-- collective episodes of which a participant was killed or lost (R274, R435). -/
  gone : List EpKey
  orders : List OrderEntry
  links : List Link
  lostPkgs : List (BitVec 12)
  fns : List Func
  /-- MSI-X messages sent, oldest first: function and vector. -/
  msix : List (Nat × Nat)
  /-- host reads completed: function, bytes, CXL poison. -/
  hostIn : List (Nat × List Byte × Bool)
  /-- the bytes that the QMCs' loads have returned, by quad, oldest first (R362, R417). -/
  qmcIn : List (Nat × List Byte)
  /-- keys of the boot window's bytes are those of CD0's die scratch; the fatal error and the rest stand here. -/
  power : Power
  boot : Boot
  deriving DecidableEq, Repr

/-- The keystone as the boot leaves it before the firmware writes its maps (R285, R353). -/
def Ctx.keystone : Ctx where
  cnum := 0
  cgen := 0
  parent := 0
  depth := 0
  hard := false
  part := 0
  destroyed := false
  tmap := []
  pmap := []
  wins := []
  qbanks := (List.range 64).map fun i => (i, 0xFFFF)
  dbanks := (List.range 8).map fun i => (i, 0xFFFFFFFF)
  queues := []
  given := []
  born := 0
  gbase := 0
  gstop := none
  share := 0
  newShare := none
  pauseReq := false
  resumeReq := false
  paused := false
  throttled := false
  out := false
  balance := 0
  transit := false
  lost := false
  torn := false
  deadline := none
  tgen := 0
  vf := 0
  save := 0
  saveKB := 0
  gen := 0
  saved := []
  held := []
  kepoch := 0
  bankNames := []
  mesh := []
  ptab := []
  mons := []
  logN := 0
  rcpt := {}
  jobs := []
  cgens := []

/-- The power controller after power-up. -/
def Power.up : Power where
  on := true
  dies := true
  set := 3000000
  limit := 3000000
  window := []
  slow := false
  temps := []
  hot := false
  cool := none
  fatal := false

/-- The boot ROM and fuses: every fuse 0, so BLANK (log 2). -/
def Boot.up : Boot where
  life := 0
  minSvn := 0
  keyHash := 0
  secret := 0
  fuseBad := false
  ready := false
  err := 0
  tries := 0
  vendor := []
  table := []
  firmware := []
  bootId := 0
  rseq := 0
  keyed := false

/-- The machine right after reset. -/
def State.reset : State where
  tile := .empty 0
  rest := []
  sel := .load
  turn := 0
  now := 0
  due := []
  arg := .none
  freeN := 0
  mem := []
  locks := []
  lockq := []
  bars := []
  errs := []
  poison := []
  badPages := []
  ctxs := [.keystone]
  cgenPast := []
  keyPast := []
  codes := []
  self := 0
  outbox := []
  ctlOut := []
  outWait := []
  unacked := []
  pktN := 1
  farDown := []
  spoiled := []
  hbars := []
  hbarTold := []
  parts := []
  waits := []
  reqs := []
  reqN := 1
  taskN := 1
  keyTags := []
  retired := []
  stuck := []
  rac := []
  epoch := 0
  codeN := 1
  queues := []
  scanLast := 4095
  scanAt := 0
  packets := []
  nodes := []
  readyN := 0
  reports := []
  tickT := 1000
  tickNew := 1000
  tickAt := 0
  mail := []
  mailN := 0
  gone := []
  orders := []
  links := []
  lostPkgs := []
  fns := [{ n := 0, on := true, apbase := 0, aplog := 38, cmd := 0, rsp := 0, bell := 0 }]
  msix := []
  hostIn := []
  qmcIn := []
  power := .up
  boot := .up

end Sys2Proof.Machine
end

