-- ==== Sys2Proof/Machine/Mem.lean ====
section
/-! DEFINITION. The package's memories as one sparse list of (key, byte), and where each memory space lies in the keys. -/

namespace Sys2Proof.Machine

/-- A memory: keys strictly rising, no byte 0 listed (an unlisted key reads 0, R85). -/
abbrev Mem := List Host.Cell

/-- The canonical form. -/
abbrev Mem.wf (m : Mem) : Prop := m.Pairwise (fun a b => a.1 < b.1) ∧ ∀ c ∈ m, c.2 ≠ 0

/-- One byte. -/
def Mem.read (m : Mem) (k : Nat) : Byte :=
  match m.find? (fun c => c.1 == k) with
  | some c => c.2
  | none => 0

/-- n bytes from key k. -/
def Mem.readRange (m : Mem) (k n : Nat) : List Byte := (List.range n).map fun i => Mem.read m (k + i)

/-- The listed cells of bytes laid from key k. -/
def Mem.cells : Nat → List Byte → Mem
  | _, [] => []
  | k, b :: bs => if b = 0 then Mem.cells (k + 1) bs else (k, b) :: Mem.cells (k + 1) bs

/-- The memory after bytes are written from key k. -/
def Mem.writeRange (m : Mem) (k : Nat) (bs : List Byte) : Mem :=
  m.filter (fun c => decide (c.1 < k)) ++ (Mem.cells k bs ++ m.filter (fun c => decide (k + bs.length ≤ c.1)))

/-- The memory after n bytes from key k are zeroed. -/
def Mem.zero (m : Mem) (k n : Nat) : Mem := m.filter fun c => decide (c.1 < k ∨ k + n ≤ c.1)

/-- A little-endian number (R5). -/
def leNat : List Byte → Nat
  | [] => 0
  | b :: bs => b.toNat + 256 * leNat bs

/-- The n low bytes of a number, least significant first (R5). -/
def leBytes : Nat → Nat → List Byte
  | 0, _ => []
  | n + 1, x => BitVec.ofNat 8 x :: leBytes n (x / 256)

/-! ### Keys

Package physical addresses are the keys below 2^44. The other spaces lie above them, disjoint. -/

/-- Key of byte 0 of a tile's scratch (2 MiB). -/
def tileKey (pt : Nat) : Nat := 2 ^ 48 + pt * 2 ^ 21

/-- Key of byte 0 of a quad's scratch (8 MiB). -/
def quadKey (pq : Nat) : Nat := 2 ^ 49 + pq * 2 ^ 23

/-- Key of byte 0 of a die's scratch (32 MiB). -/
def dieKey (pd : Nat) : Nat := 2 ^ 50 + pd * 2 ^ 25

/-- Key of byte 0 of a ring slot (R90). -/
def ringKey (pt slot : Nat) : Nat := 2 ^ 51 + pt * 2 ^ 17 + slot * 2 ^ 14

/-- Key of the first code byte of a place in the code store (R372). -/
def codeKey (slot : Nat) : Nat := 2 ^ 52 + slot * 2 ^ 32

/-- Physical quad and die of a physical tile (R13). -/
def pquad (pt : Nat) : Nat := pt / 4
/-- Physical die of a physical tile (R13). -/
def pdie (pt : Nat) : Nat := pt / 32

/-- A physical address that memory backs (R16). -/
def hbmBacked (a : Nat) : Bool := decide (a / 2 ^ 39 < 16 ∧ a % 2 ^ 39 < 48 * 2 ^ 30)

end Sys2Proof.Machine
end

