-- ==== Sys2Proof/Machine/Ops.lean ====
section
/-! DEFINITION. The operations every meaning is written over: registers, interlocks, issue and retirement, tokens, scratch access,
events, and taking an exception. -/

namespace Sys2Proof.Machine

/-- Why an instruction does not take place now: it waits, or it raises a trap. -/
inductive Halt where
  | wait (w : Wait)
  | trap (t : Trap)
  deriving DecidableEq, Repr

/-- What an instruction's checks and effect give. -/
abbrev Act (α : Type) := Except Halt α

/-- A condition that raises a trap where it fails. -/
def check (p : Prop) [Decidable p] (t : Trap) : Act Unit := if p then .ok () else .error (.trap t)

/-- A condition that waits where it fails. -/
def await (p : Prop) [Decidable p] (w : Wait) : Act Unit := if p then .ok () else .error (.wait w)

/-! ### Tiles and cores -/

/-- One core of a tile. -/
def Tile.core (t : Tile) : CoreId → CoreSt
  | .load => t.lc
  | .compute => t.cc
  | .store => t.sc

/-- A tile with one core replaced. -/
def Tile.setCore (t : Tile) (c : CoreId) (x : CoreSt) : Tile :=
  match c with
  | .load => { t with lc := x }
  | .compute => { t with cc := x }
  | .store => { t with sc := x }

/-- A tile with a change made to each core. -/
def Tile.mapCores (t : Tile) (f : CoreSt → CoreSt) : Tile := { t with lc := f t.lc, cc := f t.cc, sc := f t.sc }

/-- The core with the turn. -/
def State.core (s : State) : CoreSt := s.tile.core s.sel

/-- The state with the tile in focus changed. -/
def State.setTile (s : State) (t : Tile) : State := { s with tile := t }

/-- The state with the core with the turn replaced. -/
def State.setCore (s : State) (x : CoreSt) : State := s.setTile (s.tile.setCore s.sel x)

/-- The tiles of the package that hold state, the one in focus first. -/
def State.tiles (s : State) : List Tile := s.tile :: s.rest

/-- The tile with a physical number. -/
def State.findTile (s : State) (pt : BitVec 8) : Option Tile := s.tiles.find? fun t => t.ptile == pt

/-- A change made to the tile with a physical number. -/
def State.mapTile (s : State) (pt : BitVec 8) (f : Tile → Tile) : State :=
  { s with tile := if s.tile.ptile = pt then f s.tile else s.tile
           rest := s.rest.map fun t => if t.ptile = pt then f t else t }

/-- The tile with a physical number and the tile in focus change places; nothing where no such tile holds state. -/
def State.swap (s : State) (pt : BitVec 8) : Option State :=
  if s.tile.ptile = pt then some s else
  match s.rest.find? fun t => t.ptile == pt with
  | none => none
  | some t => some { s with tile := t, rest := s.rest.map fun u => if u.ptile = pt then s.tile else u }

/-- A change made with a core of a tile in focus; the focus and the turn stay as they were. -/
def State.onCore (s : State) (pt : BitVec 8) (c : CoreId) (f : State → State) : Option State :=
  match s.swap pt with
  | none => none
  | some t => ((f { t with sel := c }).swap s.tile.ptile).map fun u => { u with sel := s.sel }

/-! ### Registers (R134, R135, R156) -/

/-- The register that a result in flight goes to. -/
def Land.reg : Land → Reg
  | .g r _ => .g r
  | .v n _ _ => .v n
  | .data n _ => .v n
  | .tag n _ => .v n
  | .p r _ => .p r

/-- A g register; g0 reads zero. -/
def CoreSt.rg (c : CoreSt) (r : GReg) : Word := if r = 0 then 0 else c.g[r.toNat]'r.isLt

/-- The core without the results in flight to a register (R135). -/
def CoreSt.overtake (c : CoreSt) (r : Reg) : CoreSt := { c with flight := c.flight.filter fun f => f.land.reg ≠ r }

/-- A write to a g register; a write to g0 is discarded (R156). -/
def CoreSt.wg (c : CoreSt) (r : GReg) (x : Word) : CoreSt :=
  if r = 0 then c else { c.overtake (.g r) with g := c.g.set r.toNat x r.isLt, bad := c.bad.filter (· ≠ .g r), dead := c.dead.filter fun d => d.1 ≠ r }

/-- A g register of the core with the turn. -/
def State.g (s : State) (r : GReg) : Word := s.core.rg r

/-- A write to a g register of the core with the turn. -/
def State.putG (s : State) (r : GReg) (x : Word) : State := s.setCore (s.core.wg r x)

/-- A predicate register; p0 reads all ones (R239). -/
def Tile.rp (t : Tile) (r : PReg) : BitVec 64 := if r = 0 then -1 else t.p[r.toNat]'r.isLt

/-! ### Waiting, retiring, trapping -/

/-- The stream stays at its instruction. -/
def State.park (s : State) (w : Wait) : State := s.setCore { s.core with wait := w }

/-- The back edge (R171): next PC and loop stack after the instruction at pc retires. -/
def backEdge (pc : Word) : List LoopFrame → Word × List LoopFrame
  | [] => (pc + 4, [])
  | f :: fs =>
    if f.stop = pc then
      if 1 < f.count.toNat then (f.start, { f with count := f.count - 1 } :: fs) else backEdge pc fs
    else (pc + 4, f :: fs)

/-- Retirement: the back edge acts and the next issue comes no earlier than the cycle after (R133). -/
def CoreSt.retire (c : CoreSt) (now stall : Nat) : CoreSt :=
  { c with pc := (backEdge c.pc c.loops).1, loops := (backEdge c.pc c.loops).2, next := now + 1 + stall, wait := .run, latch := [] }

/-- Retirement by a taken branch or jump: no back edge (R171). -/
def CoreSt.jump (c : CoreSt) (now : Nat) (target : Word) : CoreSt := { c with pc := target, next := now + 1, wait := .run, latch := [] }

/-- The core with the turn retires an instruction without a stall count. -/
def State.retire (s : State) : State := s.setCore (s.core.retire s.now 0)

/-- The core with the turn retires a private instruction. -/
def State.retirePriv (s : State) (stall : BitVec 3) : State := s.setCore (s.core.retire s.now stall.toNat)

/-- The core with the turn jumps. -/
def State.jump (s : State) (target : Word) : State := s.setCore (s.core.jump s.now target)

/-- An event put in its place: after every event of its cycle and before. -/
def insertDue (d : Due) : List Due → List Due
  | [] => [d]
  | e :: es => if e.at_ ≤ d.at_ then e :: insertDue d es else d :: e :: es

/-- An event scheduled n cycles from now. -/
def State.after (s : State) (n : Nat) (ev : Instr) (arg : EvArg) : State :=
  { s with due := insertDue ⟨s.now + n, ev, arg⟩ s.due }

/-- A trap handed to the mailboxes: a stop's (with task, tile and core) or a notification against a context (R404, R415). The search for
its handler and its slot are made by TRAP_DELIVERY. -/
def State.post (s : State) (t : Trap) (fctx : Nat) (stop : Option (Nat × BitVec 8)) (c : Option CoreId) : State :=
  ({ s with mailN := s.mailN + 1
            mail := s.mail ++ [{ n := s.mailN, quad := none, slot := none, trap := t, tid := stop.map (·.1), tile := stop.map (·.2)
                                 core := c, fctx := fctx, passed := none, hctx := none, found := none, writes := [], record := 0, running := none }] }
    : State).after 0 .trapDelivery .none

/-- A notification (R404). -/
def State.notify (s : State) (t : Trap) (fctx : Nat) : State := s.post { t with precise := false } fctx none none

/-- A task's operations once the fault of one of them is reported (R407). -/
def markReported (tid : Nat) (t : Trap) (ops : List Op) : List Op :=
  match t.op with
  | none => ops
  | some r => ops.map fun o => if r.tid = tid ∧ o.core = r.core ∧ o.seq = r.seq ∧ o.fault.isSome then { o with reported := true } else o

/-- A core in which a trap has been reported: it waits for no report point any more, and the stop that begins saves an instruction that
waits as not executed (R411). -/
def CoreSt.reported (x : CoreSt) (t : Trap) : CoreSt :=
  { x with latch := [], late := x.late.erase t, dead := x.dead.filter (fun d => d.2 ≠ t), relBad := if x.relBad = some t then none else x.relBad }

/-- A tile whose task is stopped or being saved: no stream issues, and its engines stand still (R319, R412). -/
def Tile.halted (t : Tile) : Bool := t.stop.isSome || t.saving.isSome

/-- Taking an exception (R410, R411): the first fault begins the task's stop, the streams halt where they stand (an instruction that
waits is saved as not executed), and the capture follows. A fault raised after a stop has begun is not raised. -/
def State.takeTrap (s : State) (c : Option CoreId) (t : Trap) : State :=
  match s.tile.stop with
  | some _ => s
  | none =>
    let u := s.tile.mapCores fun x => x.reported t
    ({ s with tile := { u with stop := some { trap := t, core := c, captured := false }, ops := markReported s.tile.task.id t s.tile.ops }
              lockq := s.lockq.filter fun w => w.2.2.1 ≠ s.tile.ptile } : State).after 0 .stopCapture (.tile s.tile.ptile)

/-- A g operand of an instruction that waits after its issue: as it was read at the issue (R134, R411). -/
def State.opd (s : State) (r : GReg) : Word := ((s.core.latch.find? fun x => x.1 == r).map (·.2)).getD (s.g r)

/-- The stream waits after the issue of an instruction that read rs. -/
def State.parkIssued (s : State) (rs : List GReg) (w : Wait) : State :=
  s.setCore { s.core with wait := w, latch := rs.map fun r => (r, s.opd r) }

/-- What the machine does on the result of an instruction of the core with the turn. -/
def finish (s : State) : Act State → Host.Outcome State Fault Refusal
  | .ok t => .next t
  | .error (.wait w) => .next (s.park w)
  | .error (.trap t) => .next (s.takeTrap (some s.sel) t)

/-- What the machine does on the result of a body whose instruction read rs and waits after its issue. -/
def finishIssued (s : State) (rs : List GReg) : Act State → Host.Outcome State Fault Refusal
  | .ok t => .next t
  | .error (.wait w) => .next (s.parkIssued rs w)
  | .error (.trap t) => .next (s.takeTrap (some s.sel) t)

/-! ### Interlocks and early readers (R134, R144) -/

/-- Whether a result in flight to a register has still to land. -/
def CoreSt.early (c : CoreSt) (now : Nat) (r : Reg) : Bool := c.flight.any fun f => f.land.reg = r ∧ now < f.at_

/-- The stopped, unreported operation a register waits for, if that is what it waits for (R206). -/
def Tile.faultOf (t : Tile) (c : CoreId) : Hold → Option Trap
  | .op seq _ => (t.ops.find? fun o => o.core = c ∧ o.seq = seq).bind fun o => if o.reported then none else o.fault
  | _ => none

/-- One register read: an interlocked one waits, or reports the fault that its value died of (R206). -/
def readyG (s : State) (r : GReg) : Act Unit :=
  match s.core.pend.find? fun p => p.1 = r with
  | none => match s.core.dead.find? fun d => d.1 = r with
    | none => .ok ()
    | some d => .error (.trap d.2)
  | some p => match s.tile.faultOf s.sel p.2 with
    | some t => .error (.trap t)
    | none => .error (.wait .other)

/-- One register written: it waits for the reply that an earlier instruction is owed (R144). -/
def readyW (s : State) (r : GReg) : Act Unit :=
  match s.core.pend.find? fun p => p.1 = r with
  | none => .ok ()
  | some p => match s.tile.faultOf s.sel p.2 with
    | some _ => .ok ()
    | none => .error (.wait .other)

/-- Every register of a list satisfies a check. -/
def allG (f : GReg → Act Unit) : List GReg → Act Unit
  | [] => .ok ()
  | r :: rs => match f r with
    | .ok _ => allG f rs
    | .error h => .error h

/-- STALL.CHECK (R134, R423). -/
def stallCheck (s : State) (rs : List Reg) : Act Unit :=
  check (s.core.checkstall = false ∨ rs.any (s.core.early s.now) = false) { cls := .stallCheck }

/-- A read of a register with an uncorrectable error (R444). -/
def regError (s : State) (rs : List Reg) : Act Unit := check (rs.any s.core.bad.contains = false) { cls := .memError }

/-- The interlocks, early-reader check and register errors of an instruction that reads g registers rs and others os, and writes g
registers ws. -/
def hazards (s : State) (rs : List GReg) (os : List Reg) (ws : List GReg) : Act Unit := do
  allG (readyG s) rs
  allG (readyW s) ws
  stallCheck s (rs.map .g ++ os)
  regError s (rs.map .g ++ os)

/-- A common instruction that reads rs and writes ws: the interlocks, then its checks and effect (R156, R157). -/
def common (s : State) (rs ws : List GReg) (body : Act State) : Host.Outcome State Fault Refusal :=
  finish s (do hazards s rs [] ws; body)

/-- The interlocks of an instruction that may wait after its issue (R411): all of them at its first try, those of its destinations later. -/
def hazardsIssued (s : State) (rs ws : List GReg) : Act Unit := if s.core.latch = [] then hazards s rs [] ws else allG (readyW s) ws

/-- A common instruction that waits after its issue (R411): its interlocks and operands are those of its first try. -/
def commonIssued (s : State) (rs ws : List GReg) (body : Act State) : Host.Outcome State Fault Refusal :=
  match hazardsIssued s rs ws with
  | .error h => finish s (.error h)
  | .ok _ => finishIssued s rs body

/-! ### Token queues (R42 to R47) -/

/-- Neighbour A and neighbour B (R42). -/
def nbr (c : CoreId) (b : Bool) : CoreId :=
  match c, b with
  | .load, false => .compute
  | .load, true => .store
  | .compute, false => .load
  | .compute, true => .store
  | .store, false => .compute
  | .store, true => .load

/-- The queue from one core to another. -/
def Queues.get (q : Queues) : CoreId → CoreId → Queue
  | .load, .compute => q.lc
  | .compute, .load => q.cl
  | .compute, .store => q.cs
  | .store, .compute => q.sc
  | .load, .store => q.ls
  | .store, .load => q.sl
  | .load, .load => {}
  | .compute, .compute => {}
  | .store, .store => {}

/-- The queues with the one from one core to another replaced. -/
def Queues.set (q : Queues) (x y : CoreId) (u : Queue) : Queues :=
  match x, y with
  | .load, .compute => { q with lc := u }
  | .compute, .load => { q with cl := u }
  | .compute, .store => { q with cs := u }
  | .store, .compute => { q with sc := u }
  | .load, .store => { q with ls := u }
  | .store, .load => { q with sl := u }
  | .load, .load => q
  | .compute, .compute => q
  | .store, .store => q

/-- A change made to every queue. -/
def Queues.map (f : Queue → Queue) (q : Queues) : Queues := ⟨f q.lc, f q.cl, f q.cs, f q.sc, f q.ls, f q.sl⟩

/-- Whether a slot shows as filled in a cycle (R44). -/
def Slot.shown (now : Nat) : Slot → Bool
  | .filled _ a => decide (a < now)
  | .pending _ => false
  | .poisoned _ _ => false

/-- The filled run at the head (R50). -/
def Queue.run (q : Queue) (now : Nat) : Nat := (q.slots.takeWhile (Slot.shown now)).length

/-- Free slots as seen in a cycle: the one freed in this cycle counts from the next (R44). -/
def Queue.free (q : Queue) (now : Nat) : Nat := 16 - q.slots.length - (if q.freed = some now then 1 else 0)

/-- The class of a token (R41). -/
def tokenClass (tk : Byte) : BitVec 3 := fld 5 3 tk

/-- A take of a class (R43, R47): the token and the queue after it. -/
def Queue.take (q : Queue) (now : Nat) (cl : BitVec 3) : Act (Byte × Queue) :=
  match q.slots with
  | .filled tk a :: rest =>
    if a < now ∧ tokenClass tk = cl then .ok (tk, { slots := rest, freed := some now }) else .error (.wait .take)
  | .poisoned _ t :: _ => .error (.trap t)
  | _ => .error (.wait .take)

/-- A reservation at the tail (R43). -/
def Queue.put (q : Queue) (now : Nat) (x : Slot) : Act Queue :=
  if 1 ≤ q.free now then .ok { q with slots := q.slots ++ [x] } else .error (.wait .reserve)

/-- An implicit take from a neighbour where the bit is set. -/
def takeBit (s : State) (yes : Bool) (b : Bool) : Act State :=
  if yes then
    match (s.tile.q.get (nbr s.sel b) s.sel).take s.now 0 with
    | .ok (_, q) => .ok (s.setTile { s.tile with q := s.tile.q.set (nbr s.sel b) s.sel q })
    | .error h => .error h
  else .ok s

/-- An implicit put to a neighbour where the bit is set. -/
def putBit (s : State) (yes : Bool) (b : Bool) (x : Slot) : Act State :=
  if yes then
    match (s.tile.q.get s.sel (nbr s.sel b)).put s.now x with
    | .ok q => .ok (s.setTile { s.tile with q := s.tile.q.set s.sel (nbr s.sel b) q })
    | .error h => .error h
  else .ok s

/-- The takes and reservations of a private instruction, all in one cycle (R43); x is what each reserved slot holds: the token of a
synchronous instruction, filled at its retirement, or a pending slot. -/
def tokens (s : State) (k : Tok) (x : Slot) : Act State := do
  let s ← takeBit s k.tka false
  let s ← takeBit s k.tkb true
  let s ← putBit s k.pta false x
  putBit s k.ptb true x

/-- A private instruction (R132 to R134, R212): decode check, tokens, interlocks and early readers, then its checks and effect. -/
def priv (s : State) (k : Tok) (x : Slot) (dec : Act Unit) (rs : List GReg) (os : List Reg) (ws : List GReg)
    (body : State → Act State) : Host.Outcome State Fault Refusal :=
  finish s (do
    dec
    let t ← tokens s k x
    hazards s rs os ws
    let u ← body t
    .ok (u.retirePriv k.stall))

/-- The cycle by which the port pushes of the compute stream have landed (R214). -/
def State.landBy (s : State) : Nat := if s.sel = .compute then s.tile.pushes.foldl (fun m p => max m p.at_) s.now else s.now

/-- The token of an implicit put, filled in this cycle, or once the stream's port pushes, which it releases, have landed (R41, R46,
R211). -/
def State.token (s : State) : Slot := .filled 0 s.landBy

/-- A release, an issue to an engine or the end of the stream waits until the stream's port pushes have landed (R211). -/
def settled (s : State) : Act Unit := await (s.sel = .compute → s.tile.pushes = []) .other

/-- An access of n bytes at a key waits until the stream's port pushes that overlap it have landed (R213). -/
def pushed (s : State) (k n : Nat) : Act Unit :=
  await (s.sel = .compute → s.tile.pushes.any (fun p => decide (p.key < k + n ∧ k < p.key + 256)) = false) .other

/-! ### Memory -/

/-- A number read from memory, little-endian. -/
def State.readNat (s : State) (k n : Nat) : Nat := leNat (Mem.readRange s.mem k n)

/-- The unit of SECDED protection that holds a key (R444): 64-byte bursts of HBM, 64-bit words of SRAM. -/
def errSize (k : Nat) : Nat := if k < 2 ^ 44 then 64 else 8

/-- Whether a read of n bytes meets poison (R444). -/
def State.poisoned (s : State) (k n : Nat) : Bool := s.poison.any fun u => decide (u < k + n ∧ k < u + errSize u)

/-- The poison left after a write of n bytes: a unit that the write covers whole is poisoned no more (R444). -/
def State.cure (s : State) (k n : Nat) : List Nat := s.poison.filter fun u => !decide (k ≤ u ∧ u + errSize u ≤ k + n)

/-- Bytes written to memory. -/
def State.writeBytes (s : State) (k : Nat) (bs : List Byte) : State :=
  { s with mem := Mem.writeRange s.mem k bs, poison := s.cure k bs.length }

/-- n bytes of memory zeroed. -/
def State.zeroBytes (s : State) (k n : Nat) : State := { s with mem := Mem.zero s.mem k n, poison := s.cure k n }

/-- A number written to memory, little-endian, n bytes. -/
def State.writeNat (s : State) (k n x : Nat) : State := s.writeBytes k (leBytes n x)

/-- The next free value, w bits wide (log 3). -/
def State.freeVal (s : State) (w : Nat) : Nat × State :=
  (Config.freeValue s.freeN w % 2 ^ w, { s with freeN := s.freeN + 1 })

/-- A plain write leaves each live barrier slot it touches undefined (R96). -/
def State.smash (s : State) (k n : Nat) : List Nat → State
  | [] => s
  | b :: bs =>
    if b < k + n ∧ k < b + 16 then ((s.freeVal 128).2.writeNat b 16 (s.freeVal 128).1).smash k n bs else s.smash k n bs

/-- An access of n bytes that leaves the live barrier slots it touches undefined (R96). -/
def State.spoil (s : State) (k n : Nat) : State := s.smash k n s.bars

/-- A plain write of bytes, by a stream or an engine (R96, R111). -/
def State.store (s : State) (k : Nat) (bs : List Byte) : State := (s.writeBytes k bs).smash k bs.length s.bars

/-- The remote atomic cache gives up the lines of n bytes that a local access is about to touch (R101). -/
def State.yields (s : State) (k n : Nat) : State := { s with rac := s.rac.filter fun x => !decide (k / 128 ≤ x.1 ∧ x.1 ≤ (k + n - 1) / 128) }

/-- A plain write of a number of n bytes. -/
def State.storeNat (s : State) (k n x : Nat) : State := s.store k (leBytes n x)

/-! ### Contexts -/

/-- The context with a number. -/
def State.ctx? (s : State) (n : Nat) : Option Ctx := s.ctxs.find? fun c => c.cnum == n

/-- A change made to a context. -/
def State.mapCtx (s : State) (n : Nat) (f : Ctx → Ctx) : State :=
  { s with ctxs := s.ctxs.map fun c => if c.cnum = n then f c else c }

/-- The granted bank mask of a context in a unit (R82). -/
def bankMask (l : List (Nat × Nat)) (u : Nat) : Nat := ((l.find? fun x => x.1 == u).map (·.2)).getD 0

/-- Whether every bank from first to last is granted. -/
def banksHeld (mask first last : Nat) : Bool := (List.range (last - first + 1)).all fun i => mask.testBit (first + i)

/-! ### Scratch access (R79 to R83, R37) -/

/-- The key of n scratch bytes at a scalar address, for the task of a tile; none outside what the task may access. -/
def scratchKeyOf (s : State) (t : Tile) (a n : Nat) : Option Nat :=
  let pt := t.ptile.toNat
  if a < 2 ^ 21 then
    if a + n ≤ t.task.limit then some (tileKey pt + a) else none
  else
  match s.ctx? t.task.cnum with
  | none => none
  | some c =>
    if 0x01000000 ≤ a ∧ a + n ≤ 0x01800000 then
      let o := a - 0x01000000
      if banksHeld (bankMask c.qbanks (pquad pt)) (o / 2 ^ 19) ((o + n - 1) / 2 ^ 19) then some (quadKey (pquad pt) + o) else none
    else if 0x04000000 ≤ a ∧ a + n ≤ 0x06000000 then
      let o := a - 0x04000000
      if banksHeld (bankMask c.dbanks (pdie pt)) (o / 2 ^ 20) ((o + n - 1) / 2 ^ 20) then some (dieKey (pdie pt) + o) else none
    else none

/-- The key of n scratch bytes for the task in focus. -/
def scratchKey (s : State) (a n : Nat) : Option Nat := scratchKeyOf s s.tile a n

/-- A synchronous read of n bytes at a key meets no poison (R444); a names the address. -/
def clean (s : State) (k n a acc : Nat) : Act Unit := check (s.poisoned k n = false) { cls := .memError, access := acc, addr := a }

/-- SCRATCH.RANGE, with the access kind. -/
def scratchAt (s : State) (a n acc : Nat) : Act Nat :=
  match scratchKey s a n with
  | some k => .ok k
  | none => .error (.trap { cls := .scratchRange, access := acc, addr := a })

/-- The address checks of a synchronous access of n bytes with a given alignment (R163, R212): MISALIGN, SCRATCH.RANGE, STACK.LIMIT
where the base register is sp; the key of the access. -/
def placeAt (s : State) (base : GReg) (a : Word) (al n acc : Nat) : Act Nat := do
  check (a.toNat % al = 0) { cls := .misalign, access := acc, addr := a.toNat }
  let k ← scratchAt s a.toNat n acc
  check (base ≠ 2 ∨ s.core.stklim.toNat ≤ a.toNat) { cls := .stackLimit, access := acc, addr := a.toNat }
  .ok k

/-- A read meets no uncorrectable error (R444), after every check that the spec orders (DESIGN CHOICE, log 16); a write needs none. -/
def cleanRead (s : State) (k n a acc : Nat) : Act Unit := if acc = 2 then .ok () else clean s k n a acc

/-- The address checks of a synchronous access, the wait for port pushes in its way (R213), and an uncorrectable error of the bytes
read; the key of the access. -/
def accessAt (s : State) (base : GReg) (a : Word) (al n acc : Nat) : Act Nat := do
  let k ← placeAt s base a al n acc
  pushed s k n
  cleanRead s k n a.toNat acc
  .ok k

/-- The checks of R163 for a naturally aligned access. -/
def scalarAt (s : State) (base : GReg) (a : Word) (n acc : Nat) : Act Nat := accessAt s base a n n acc

end Sys2Proof.Machine
end

