-- ==== Sys2Proof/Machine/Alu.lean ====
section
/-! DEFINITION. Integer arithmetic of the common half (R158 to R161). -/

namespace Sys2Proof.Machine

/-- A register instruction: gd := f(ga, gb). -/
def alu (f : Word → Word → Word) (d a b : GReg) (s : State) : Host.Outcome State Fault Refusal :=
  common s [a, b] [d] (.ok (s.putG d (f (s.g a) (s.g b))).retire)

/-- An immediate instruction: gd := f(ga). -/
def aluImm (f : Word → Word) (d a : GReg) (s : State) : Host.Outcome State Fault Refusal :=
  common s [a] [d] (.ok (s.putG d (f (s.g a))).retire)

/-- A truth value as a word. -/
def bit (b : Bool) : Word := if b then 1 else 0

/-- imm15, sign-extended (R128). -/
def imm (i : BitVec 15) : Word := i.signExtend 32

/-- R158. -/
def execAdd (d a b : GReg) (s : State) := alu (· + ·) d a b s
/-- R158. -/
def execSub (d a b : GReg) (s : State) := alu (· - ·) d a b s
/-- R158. -/
def execAnd (d a b : GReg) (s : State) := alu (· &&& ·) d a b s
/-- R158. -/
def execOr (d a b : GReg) (s : State) := alu (· ||| ·) d a b s
/-- R158. -/
def execXor (d a b : GReg) (s : State) := alu (· ^^^ ·) d a b s
/-- R158: the shift amount is gb[4:0]. -/
def execSll (d a b : GReg) (s : State) := alu (fun x y => x <<< (y.toNat % 32)) d a b s
/-- R158. -/
def execSrl (d a b : GReg) (s : State) := alu (fun x y => x >>> (y.toNat % 32)) d a b s
/-- R158. -/
def execSra (d a b : GReg) (s : State) := alu (fun x y => x.sshiftRight (y.toNat % 32)) d a b s
/-- R158. -/
def execSlt (d a b : GReg) (s : State) := alu (fun x y => bit (x.slt y)) d a b s
/-- R158. -/
def execSltu (d a b : GReg) (s : State) := alu (fun x y => bit (x.ult y)) d a b s
/-- R158. -/
def execMin (d a b : GReg) (s : State) := alu (fun x y => if x.slt y then x else y) d a b s
/-- R158. -/
def execMax (d a b : GReg) (s : State) := alu (fun x y => if x.slt y then y else x) d a b s
/-- R158. -/
def execMinu (d a b : GReg) (s : State) := alu (fun x y => if x.ult y then x else y) d a b s
/-- R158. -/
def execMaxu (d a b : GReg) (s : State) := alu (fun x y => if x.ult y then y else x) d a b s
/-- R158. -/
def execAdd1s (d a b : GReg) (s : State) := alu (fun x y => (x <<< 1) + y) d a b s
/-- R158. -/
def execAdd2s (d a b : GReg) (s : State) := alu (fun x y => (x <<< 2) + y) d a b s
/-- R158. -/
def execAdd3s (d a b : GReg) (s : State) := alu (fun x y => (x <<< 3) + y) d a b s

/-- R159. -/
def execMul (d a b : GReg) (s : State) := alu (fun x y => BitVec.ofInt 32 (x.toInt * y.toInt)) d a b s
/-- R159: bits [63:32] of the product. -/
def execMulh (d a b : GReg) (s : State) := alu (fun x y => BitVec.ofInt 32 (x.toInt * y.toInt / 2 ^ 32)) d a b s
/-- R159. -/
def execMulhu (d a b : GReg) (s : State) := alu (fun x y => BitVec.ofNat 32 (x.toNat * y.toNat / 2 ^ 32)) d a b s
/-- R159. -/
def execMulhsu (d a b : GReg) (s : State) := alu (fun x y => BitVec.ofInt 32 (x.toInt * y.toNat / 2 ^ 32)) d a b s

/-- Signed division (R159). -/
def divWord (x y : Word) : Word :=
  if y = 0 then 0xFFFFFFFF else if x = 0x80000000 ∧ y = 0xFFFFFFFF then 0x80000000 else BitVec.ofInt 32 (x.toInt.tdiv y.toInt)

/-- Signed remainder (R159). -/
def remWord (x y : Word) : Word :=
  if y = 0 then x else if x = 0x80000000 ∧ y = 0xFFFFFFFF then 0 else
  BitVec.ofInt 32 (x.toInt - y.toInt * x.toInt.tdiv y.toInt)

/-- Unsigned division (R159). -/
def divuWord (x y : Word) : Word := if y = 0 then 0xFFFFFFFF else BitVec.ofNat 32 (x.toNat / y.toNat)

/-- Unsigned remainder (R159). -/
def remuWord (x y : Word) : Word := if y = 0 then x else BitVec.ofNat 32 (x.toNat % y.toNat)

/-- R159. -/
def execDiv (d a b : GReg) (s : State) := alu divWord d a b s
/-- R159. -/
def execDivu (d a b : GReg) (s : State) := alu divuWord d a b s
/-- R159. -/
def execRem (d a b : GReg) (s : State) := alu remWord d a b s
/-- R159. -/
def execRemu (d a b : GReg) (s : State) := alu remuWord d a b s

/-- R160. -/
def execAddi (d a : GReg) (i : BitVec 15) (s : State) := aluImm (· + imm i) d a s
/-- R160. -/
def execAndi (d a : GReg) (i : BitVec 15) (s : State) := aluImm (· &&& imm i) d a s
/-- R160. -/
def execOri (d a : GReg) (i : BitVec 15) (s : State) := aluImm (· ||| imm i) d a s
/-- R160. -/
def execXori (d a : GReg) (i : BitVec 15) (s : State) := aluImm (· ^^^ imm i) d a s
/-- R160. -/
def execSlti (d a : GReg) (i : BitVec 15) (s : State) := aluImm (fun x => bit (x.slt (imm i))) d a s
/-- R160. -/
def execSltiu (d a : GReg) (i : BitVec 15) (s : State) := aluImm (fun x => bit (x.ult (imm i))) d a s
/-- R160. -/
def execSlli (d a : GReg) (n : BitVec 5) (s : State) := aluImm (· <<< n.toNat) d a s
/-- R160. -/
def execSrli (d a : GReg) (n : BitVec 5) (s : State) := aluImm (· >>> n.toNat) d a s
/-- R160. -/
def execSrai (d a : GReg) (n : BitVec 5) (s : State) := aluImm (·.sshiftRight n.toNat) d a s

/-- imm20 × 4,096 modulo 2^32 (R161). -/
def upper (i : BitVec 20) : Word := i ++ 0#12

/-- R161. -/
def execLui (d : GReg) (i : BitVec 20) (s : State) : Host.Outcome State Fault Refusal :=
  common s [] [d] (.ok (s.putG d (upper i)).retire)

/-- R161. -/
def execAuipc (d : GReg) (i : BitVec 20) (s : State) : Host.Outcome State Fault Refusal :=
  common s [] [d] (.ok (s.putG d (s.core.pc + upper i)).retire)

end Sys2Proof.Machine
end

