-- ==== Sys2Proof/Machine/Operands.lean ====
section
/-! DEFINITION. The operand forms: handles (R86 to R89), barrier slots (R92, R93), lock bits (R98), immediates. -/

namespace Sys2Proof.Machine

/-! ### Handles (R86, R87) -/

/-- A handle's 256 bits. -/
abbrev Handle := BitVec 256

/-- BASE. -/
def Handle.base (h : Handle) : Nat := (fld 0 48 h).toNat
/-- LEVEL: 0 tile, 1 quad, 2 die, 3 global. -/
def Handle.level (h : Handle) : Nat := (fld 48 2 h).toNat
/-- FMT, the tag code. -/
def Handle.fmt (h : Handle) : Nat := (fld 50 4 h).toNat
/-- The format, EMPTY where the code is reserved. -/
def Handle.format (h : Handle) : Fmt := (Fmt.ofCode (Handle.fmt h)).getD .empty
/-- EXT0 to EXT3. -/
def Handle.ext (h : Handle) (n : Nat) : Nat := (fld (54 + 16 * n) 16 h).toNat
/-- STR1 to STR3, signed. -/
def Handle.str (h : Handle) (n : Nat) : Int := (fld (118 + 32 * (n - 1)) 32 h).toInt
/-- SOFF. -/
def Handle.soff (h : Handle) : Nat := (fld 214 24 h).toNat
/-- RO. -/
def Handle.ro (h : Handle) : Bool := fld 238 1 h == 1
/-- The reserved bits [245:240]. -/
def Handle.reserved (h : Handle) : Nat := (fld 240 6 h).toNat
/-- PLACE.SEL. -/
def Handle.sel (h : Handle) : Nat := (fld 254 2 h).toNat
/-- PLACE[7:0]. -/
def Handle.unit (h : Handle) : Nat := (fld 246 8 h).toNat

/-- Element width in bytes. -/
def Handle.width (h : Handle) : Nat := (Handle.format h).width / 8
/-- The number of elements. -/
def Handle.count (h : Handle) : Nat := Handle.ext h 0 * Handle.ext h 1 * Handle.ext h 2 * Handle.ext h 3
/-- Bytes(h) of R198. -/
def Handle.bytes (h : Handle) : Nat := Handle.count h * Handle.width h

/-- Addr(h, i0, i1, i2, i3) (R87), an integer: a stride may lead below 0. -/
def Handle.addr (h : Handle) (i0 i1 i2 i3 : Nat) : Int :=
  Handle.base h + i0 * Handle.width h + i1 * Handle.str h 1 + i2 * Handle.str h 2 + i3 * Handle.str h 3

/-- The address of an element by its number in element order (R87). -/
def Handle.elem (h : Handle) (e : Nat) : Int :=
  let n0 := Handle.ext h 0
  let n1 := Handle.ext h 1
  let n2 := Handle.ext h 2
  Handle.addr h (e % n0) (e / n0 % n1) (e / (n0 * n1) % n2) (e / (n0 * n1 * n2))

/-- ByteAddr(h, p) of R198. -/
def Handle.byteAddr (h : Handle) (p : Nat) : Int := Handle.elem h (p / Handle.width h) + (p % Handle.width h : Nat)

/-- An integer address as the record shows it. -/
def addrNat (a : Int) : Nat := (a % 2 ^ 64).toNat

/-- The field of a handle that a field code names: its lowest bit and width (R182). -/
def hField : Nat → Nat × Nat
  | 0 => (0, 32) | 1 => (32, 16) | 2 => (48, 2) | 3 => (50, 4) | 4 => (54, 16) | 5 => (70, 16) | 6 => (86, 16) | 7 => (102, 16)
  | 8 => (118, 32) | 9 => (150, 32) | 10 => (182, 32) | 11 => (214, 24) | 12 => (238, 1) | 13 => (239, 1) | _ => (246, 10)

/-- x with its n bits from lo replaced by the low n bits of y. -/
def putField {w : Nat} (x : BitVec w) (lo n : Nat) (y : Nat) : BitVec w :=
  let m : BitVec w := BitVec.ofNat w (2 ^ n - 1) <<< lo
  (x &&& ~~~m) ||| (BitVec.ofNat w y <<< lo &&& m)

/-- A handle with LOCK as given (R89). -/
def Handle.withLock (h : Handle) (on : Bool) : Handle := putField h 239 1 (if on then 1 else 0)

/-- Whether a handle register of the compute core is a source of a running mma (R89). -/
def Tile.locked (t : Tile) (r : HReg) : Bool := t.mmas.any fun m => m.b == r || m.a == some r

/-- A handle register of a core, with LOCK as it reads (R89). -/
def Tile.rh (t : Tile) (c : CoreId) (r : HReg) : Handle :=
  Handle.withLock ((t.core c).h[r.toNat]'r.isLt) (decide (c = .compute) && t.locked r)

/-- A handle register of the core with the turn. -/
def State.h (s : State) (r : HReg) : Handle := s.tile.rh s.sel r

/-- A write to a handle register; the LOCK bit written is ignored (R89). -/
def State.putH (s : State) (r : HReg) (x : Handle) : State :=
  s.setCore { s.core with h := s.core.h.set r.toNat (Handle.withLock x false) r.isLt, bad := s.core.bad.filter (· ≠ .h r) }

/-- A write to a locked handle waits (R89). -/
def awaitUnlocked (s : State) (r : HReg) : Act Unit :=
  await (¬(s.sel = .compute ∧ s.tile.locked r = true)) .other

/-! ### Places (R26 to R31) -/

/-- The physical tile of a logical tile. -/
def Ctx.tileOf (c : Ctx) (l : Nat) : Option (BitVec 8) := (c.tmap.find? fun e => e.l == l).map (·.p)
/-- Every valid entry of a context's tile map: those it may place on, and those it has granted on (R288, R351). -/
def Ctx.tileMap (c : Ctx) : List TileMap := c.tmap ++ (c.given.filter fun g => !g.pkg).map fun g => { l := g.unit, p := g.tile }
/-- The physical quad of a logical quad. -/
def Ctx.quadOf (c : Ctx) (l : Nat) : Option Nat := (c.tileMap.find? fun e => e.l / 4 == l).map fun e => pquad e.p.toNat
/-- The physical die of a logical die. -/
def Ctx.dieOf (c : Ctx) (l : Nat) : Option Nat := (c.tileMap.find? fun e => e.l / 32 == l).map fun e => pdie e.p.toNat
/-- The package map entry of a logical package. -/
def Ctx.pkgOf (c : Ctx) (l : Nat) : Option PkgMap := c.pmap.find? fun e => e.l == l

/-- The physical unit that holds a tile at a level. -/
def ownUnit (pt level : Nat) : Nat := if level = 0 then pt else if level = 1 then pquad pt else pdie pt

/-- The physical unit that PLACE names for the issuing tile, at its level: SEL 0 is the own unit (R86). -/
def placeUnit (c : Ctx) (pt level sel unit : Nat) : Option Nat :=
  match sel with
  | 0 => some (ownUnit pt level)
  | 1 => (c.tileOf unit).map (·.toNat)
  | 2 => c.quadOf unit
  | _ => c.dieOf unit

/-- Check 1 of R88. -/
def Handle.formOk (h : Handle) : Bool :=
  decide (Handle.reserved h = 0 ∧ Handle.fmt h ≤ 10) &&
  (match Handle.sel h with
   | 0 => decide (Handle.unit h = 0)
   | 1 => decide (Handle.level h = 0)
   | 2 => decide (Handle.unit h < 64 ∧ Handle.level h = 1)
   | _ => decide (Handle.unit h < 8 ∧ Handle.level h = 2)) &&
  decide (Handle.level h = 3 → Handle.base h < 2 ^ 44)

/-- Checks 1 to 3 of R88: far tells whether the instruction may name another unit, own whether it requires PLACE.SEL = 0. -/
def handleForm (s : State) (h : Handle) (far own : Bool) : Act Unit := do
  check (Handle.formOk h = true) { cls := .handleForm }
  check (Handle.fmt h ≠ 0) { cls := .tagCheck }
  check (¬(own = true ∧ Handle.sel h ≠ 0)) { cls := .handleForm }
  match Handle.sel h with
  | 0 => .ok ()
  | _ =>
    let u := (s.ctx? s.tile.task.cnum).bind fun c =>
      placeUnit c s.tile.ptile.toNat (Handle.level h) (Handle.sel h) (Handle.unit h)
    check (far = true ∨ u = some (ownUnit s.tile.ptile.toNat (Handle.level h))) { cls := .handleForm }
    check (u.isSome = true) { cls := .placeUnmapped }

/-! ### Barrier slots (R92, R93) -/

/-- A barrier slot. -/
structure Bar where
  phase : Bool
  err : Bool
  live : Bool
  isOpen : Bool
  ecode : Nat
  pend : Nat
  bytes : Nat
  chunk : BitVec 64
  deriving DecidableEq, Repr

/-- The slot held in 16 bytes. -/
def Bar.ofNat (x : Nat) : Bar where
  phase := x.testBit 0
  err := x.testBit 1
  live := x.testBit 2
  isOpen := x.testBit 3
  ecode := x / 16 % 8
  pend := x / 2 ^ 16 % 2 ^ 16
  bytes := x / 2 ^ 32 % 2 ^ 32
  chunk := BitVec.ofNat 64 (x / 2 ^ 64)

/-- The 16 bytes of a slot. -/
def Bar.toNat (b : Bar) : Nat :=
  b.phase.toNat + b.err.toNat * 2 + b.live.toNat * 4 + b.isOpen.toNat * 8 + b.ecode * 16 + b.pend * 2 ^ 16 + b.bytes * 2 ^ 32 +
  b.chunk.toNat * 2 ^ 64

/-- The flip check. -/
def Bar.flip (b : Bar) : Bar :=
  if b.isOpen = true ∧ b.pend = 0 ∧ b.bytes = 0 then { b with phase := !b.phase, isOpen := false } else b

/-- ERR set with a cause; the first cause stays. -/
def Bar.fail (b : Bar) (e : Nat) : Bar := if b.err then b else { b with err := true, ecode := e }

/-- bar.init (R93, R174). -/
def Bar.init (n b : Nat) : Bar :=
  let pend := if n < 2 ^ 16 then n else 0
  { phase := false, err := decide (2 ^ 16 ≤ n), live := true, isOpen := decide (0 < pend + b),
    ecode := if n < 2 ^ 16 then 0 else 2, pend := pend, bytes := b, chunk := 0 }

/-- bar.expect (R93). -/
def Bar.expect (b : Bar) (n k : Nat) (clr : Bool) : Bar :=
  let b := if clr then { b with chunk := 0, err := false, ecode := 0 } else b
  let b := if b.pend + n < 2 ^ 16 then { b with pend := b.pend + n } else b.fail 2
  let b := if b.bytes + k < 2 ^ 32 then { b with bytes := b.bytes + k } else b.fail 1
  ({ b with isOpen := true } : Bar).flip

/-- bar.arrive (R93). -/
def Bar.arrive (b : Bar) : Bar := if b.pend = 0 then b.fail 2 else ({ b with pend := b.pend - 1 } : Bar).flip

/-- An engine credit (R93, R430). -/
def Bar.credit (b : Bar) (k : Nat) (c : BitVec 64) : Bar :=
  if b.bytes < k then ({ b with bytes := 0 } : Bar).fail 1
  else ({ b with bytes := b.bytes - k, chunk := b.chunk ||| c } : Bar).flip

/-- The slot at a key. -/
def State.bar (s : State) (k : Nat) : Bar := Bar.ofNat (s.readNat k 16)

/-- A slot's new contents: one atomic step on the slot. -/
def State.putBar (s : State) (k : Nat) (b : Bar) : State := s.writeNat k 16 b.toNat

/-- An engine's update of a slot; one that arrives for a slot no longer live is discarded (R93). -/
def State.engineBar (s : State) (k : Option Nat) (f : Bar → Bar) : State :=
  match k with
  | none => s
  | some k => if (s.bar k).live then s.putBar k (f (s.bar k)) else s

/-- An engine error: ERR with a cause, and the fault that a BAR.ERROR will name (R93, R194). -/
def State.engineErr (s : State) (k : Option Nat) (e : Nat) (t : Trap) : State :=
  match k with
  | none => s
  | some k =>
    if (s.bar k).live = true ∧ (s.bar k).err = false then
      { (s.putBar k ((s.bar k).fail e)) with errs := (k, t) :: s.errs.filter fun x => x.1 ≠ k }
    else s

/-- The slot of a bar instruction: MISALIGN, SCRATCH.RANGE (R174). -/
def slotAt (s : State) (a : Word) : Act Nat := do
  check (a.toNat % 16 = 0) { cls := .misalign, addr := a.toNat }
  let k ← scratchAt s a.toNat 16 0
  pushed s k 16
  clean s k 16 a.toNat 1
  .ok k

/-- A key in tile scratch. -/
def isTileKey (k : Nat) : Bool := decide (2 ^ 48 ≤ k ∧ k < 2 ^ 49)

/-! ### Lock bits (R98) -/

/-- The exclusive-or of the 6-bit groups of a word index. -/
def lockHash : Nat → Nat → Nat
  | 0, _ => 0
  | n + 1, w => (w % 64) ^^^ lockHash n (w / 64)

/-- Bank and bit number of a scratch word's lock bit. -/
def lockOf (k : Nat) : Nat × Nat :=
  let size := if k < 2 ^ 49 then 2 ^ 17 else if k < 2 ^ 50 then 2 ^ 19 else 2 ^ 20
  (k / size * size, lockHash 4 (k % size / 4))

/-- The lock bit that the core with the turn holds. -/
def State.heldLock (s : State) : Option Lock := s.locks.find? fun l => l.tile = s.tile.ptile ∧ l.core = s.sel

end Sys2Proof.Machine
end

