-- ==== Sys2Proof/Machine/Barrier.lean ====
section
/-! DEFINITION. The barrier instructions (R93, R174 to R176). -/

namespace Sys2Proof.Machine

/-- The class number (R403). -/
def classNum (c : TrapClass) : Nat := c.ctorIdx

/-- A slot that must be live (BAR.DEAD). -/
def liveAt (s : State) (a : Word) : Act Nat := do
  let k ← slotAt s a
  check ((s.bar k).live = true) { cls := .barDead, addr := a.toNat }
  .ok k

/-- The slot's recorded cause of ERR forgotten: its ERR and ECODE are cleared. -/
def State.forgetErr (s : State) (k : Nat) : State := { s with errs := s.errs.filter fun x => x.1 ≠ k }

/-- R93, R174. -/
def execBarInit (c a b : GReg) (s : State) : Host.Outcome State Fault Refusal :=
  common s [c, a, b] [] (do
    let k ← slotAt s (s.g a)
    check ((s.bar k).live = false) { cls := .barLive, addr := (s.g a).toNat }
    let t := (s.putBar k (Bar.init (s.g c).toNat (s.g b).toNat)).forgetErr k
    .ok ({ t with bars := k :: t.bars.filter (· ≠ k) } : State).retire)

/-- bar.expect, with or without clear. -/
def barExpect (clr : Bool) (c a b : GReg) (s : State) : Host.Outcome State Fault Refusal :=
  common s [c, a, b] [] (do
    let k ← liveAt s (s.g a)
    let t := s.putBar k ((s.bar k).expect (s.g c).toNat (s.g b).toNat clr)
    .ok (if clr then t.forgetErr k else t).retire)

/-- R93. -/
def execBarExpect (c a b : GReg) (s : State) := barExpect false c a b s
/-- R93. -/
def execBarExpectClr (c a b : GReg) (s : State) := barExpect true c a b s

/-- R93. -/
def execBarArrive (a : GReg) (s : State) : Host.Outcome State Fault Refusal :=
  common s [a] [] (do
    let k ← liveAt s (s.g a)
    settled s
    .ok (s.putBar k (s.bar k).arrive).retire)

/-- BAR.ERROR (R93, R416): ECODE, and the engine's fault or the function's STATUS where one set ERR. -/
def barError (s : State) (k : Nat) (a : Word) : Trap :=
  match s.errs.find? fun x => x.1 == k with
  | none => { cls := .barError, addr := a.toNat, ecode := (s.bar k).ecode }
  | some (_, t) =>
    { t with cls := .barError, precise := true, async := true, access := 0, addr := a.toNat,
             opclass := if t.cls = .barError then 0 else classNum t.cls, ecode := (s.bar k).ecode, pc := none }

/-- The observation of a waiting form (R93, R175, R176). -/
def barWait (s : State) (a : Word) (ends : Bar → Bool) : Act State := do
  let k ← slotAt s a
  check (s.core.wait ≠ .barGone ∧ (s.bar k).live = true) { cls := .barDead, addr := a.toNat }
  check ((s.bar k).err = false) (barError s k a)
  await (ends (s.bar k) = true) (.bar k (isTileKey k))
  .ok s.retire

/-- R93, R175. -/
def execBarWait (a b : GReg) (s : State) : Host.Outcome State Fault Refusal :=
  commonIssued s [a, b] [] (barWait s (s.opd a) fun x => x.phase != (s.opd b).getLsbD 0)

/-- R93, R175: the mask is Concat(gc, gb). -/
def execBarWaitchk (c a b : GReg) (s : State) : Host.Outcome State Fault Refusal :=
  let m : BitVec 64 := s.opd c ++ s.opd b
  commonIssued s [c, a, b] [] (barWait s (s.opd a) fun x => x.chunk &&& m == m)

/-- R93: bits [31:0] of the slot, without waiting. -/
def execBarTest (d a b : GReg) (s : State) : Host.Outcome State Fault Refusal :=
  common s [a, b] [d] (do
    let k ← liveAt s (s.g a)
    .ok (s.putG d (BitVec.ofNat 32 (s.readNat k 4))).retire)

/-- The operations of the task that name a slot and have not been abandoned (R176, R407). -/
def Tile.naming (t : Tile) (k : Nat) : List Op := t.ops.filter fun o => o.dbar == some k || o.sbar == some k

/-- A slot retired: zeroed, waiters marked, and no operation or request of another task, resident or saved, names it any more, so that
its credits and arrivals are discarded (R93, R176). -/
def State.retireSlot (s : State) (k : Nat) : State :=
  let gone : CoreSt → CoreSt := fun c => match c.wait with
    | .bar j _ => if j = k then { c with wait := .barGone } else c
    | _ => c
  let cut (b : Option Nat) : Option Nat := if b = some k then none else b
  let dropOp : Op → Op := fun o => { o with dbar := cut o.dbar, sbar := cut o.sbar }
  let drop : Tile → Tile := fun t => { (t.mapCores gone) with ops := t.ops.map dropOp }
  let t := (s.putBar k (Bar.ofNat 0)).forgetErr k
  let t : State := { t with tile := drop t.tile, rest := t.rest.map drop, bars := t.bars.filter (· ≠ k) }
  if isTileKey k then t else
  { t with reqs := t.reqs.map fun r => { r with dbar := cut r.dbar, sbar := cut r.sbar }
           ctxs := t.ctxs.map fun x => { x with saved := x.saved.map fun i => { i with tile := { i.tile with ops := i.tile.ops.map dropOp } } } }

/-- R93, R176: a stopped, unreported operation that names the slot is reported here; a queued or running one is waited for. -/
def execBarRetire (a : GReg) (s : State) : Host.Outcome State Fault Refusal :=
  commonIssued s [a] [] (do
    let k ← liveAt s (s.opd a)
    match (s.tile.naming k).findSome? fun o => if o.reported then none else o.fault with
    | some t => .error (.trap t)
    | none =>
      await ((s.tile.naming k).all (fun o => o.fault.isSome) = true ∧
        s.reqs.all (fun r => r.tid != s.tile.task.id || (r.dbar != some k && r.sbar != some k)) = true) .other
      .ok (s.retireSlot k).retire)

end Sys2Proof.Machine
end

