-- ==== Sys2Proof/Machine/Send.lean ====
section
/-! DEFINITION. Composed translation (R354, R356) and the packets a stream or engine sends (R121, R124, R383 to R385, R459). -/

namespace Sys2Proof.Machine

/-- A composed mapping: physical address and permissions R, W, X. -/
structure Mapped where
  pa : Nat
  r : Bool
  w : Bool
  x : Bool
  deriving DecidableEq, Repr

/-- The composition of the grants from a context up to the keystone (R354), at most n levels. -/
def State.mapped (s : State) : Nat → Nat → Nat → Option Mapped
  | 0, _, _ => none
  | n + 1, c, va =>
    match s.ctx? c with
    | none => none
    | some x =>
      if x.cnum = 0 then (if hbmBacked va then some ⟨va, true, true, true⟩ else none) else
      match x.wins.find? fun w => decide (w.page ≤ va / 65536 ∧ va / 65536 < w.page + w.count) with
      | none => none
      | some w =>
        match s.mapped n x.parent ((w.parentPage + (va / 65536 - w.page)) * 65536 + va % 65536) with
        | none => none
        | some m => some ⟨m.pa, m.r && w.r, m.w && w.w, m.x && w.x⟩

/-- The depth bound of the context tree (R285): 16 levels. -/
def treeDepth : Nat := 17

/-- The physical address of an access by a context: kind 1 read, 2 write, 3 fetch of a handler, 4 atomic (R356); an access that needs a
struck translation fails (R444). -/
def State.xlate (s : State) (c va acc : Nat) : Except TrapClass Nat :=
  if 2 ^ 44 ≤ va then .error .xlateNone else
  match s.mapped treeDepth c va with
  | none => .error .xlateNone
  | some m =>
    if (acc = 1 ∧ m.r = false) ∨ (acc = 2 ∧ m.w = false) ∨ (acc = 3 ∧ m.x = false) ∨ (acc = 4 ∧ (m.r && m.w) = false) then
      .error .xlatePerm
    else if s.badPages.contains (c, va / 65536) then .error .memError
    else .ok m.pa

/-- n bytes from a virtual address; they lie in one page where they are naturally aligned. -/
def xlateAt (s : State) (c va acc : Nat) : Act Nat :=
  match s.xlate c va acc with
  | .ok k => .ok k
  | .error e => .error (.trap { cls := e, access := acc, addr := va })

/-- The reference of a context (R285). -/
def Ctx.cref (c : Ctx) : BitVec 20 := BitVec.ofNat 20 (c.cnum + c.cgen * 4096)

/-- The number of a core (R383, R416). -/
def coreNum : CoreId → Nat
  | .load => 0
  | .compute => 1
  | .store => 2

/-- Whether a package-map entry names another package, and is so the target of a remote access (R84, R459). -/
def remoteOf (s : State) (e : PkgMap) : Option PkgMap := if e.p = s.self then none else some e

/-- The counts with one more packet on a path. -/
def bump (l : List Nat) (p : Nat) : List Nat := l.modify p (· + 1)

/-- The sent counts of a stream toward a package in a group (R124). -/
def CoreSt.sentTo (c : CoreSt) (p : BitVec 12) (g : Nat) : SentCount :=
  (c.sent.find? fun x => x.pkg == p && x.group == g).getD ⟨p, g, [0, 0, 0, 0], 0, none⟩

/-- The sent counts replaced. -/
def CoreSt.putSent (c : CoreSt) (x : SentCount) : CoreSt :=
  { c with sent := x :: c.sent.filter fun y => !(y.pkg == x.pkg && y.group == x.group) }

/-! ### Packet headers (R383) -/

/-- The operation-specific header bits that a packet's TYPE uses: an atomic's code, operand and compare value, an acknowledgement's status
and reply word (their places are not in the spec; DESIGN CHOICE, log 5). -/
def packetSpecial (p : Packet) : Nat :=
  if p.type = 6 then p.rop.toNat + p.operand.toNat * 2 ^ 4 + p.compare.toNat * 2 ^ 36
  else if p.type = 3 then p.status.toNat + p.operand.toNat * 2 ^ 8
  else 0

/-- The 32-byte header (R383). -/
def packetHeader (p : Packet) : BitVec 256 := BitVec.ofNat 256
  (p.type.toNat + p.vlane.toNat * 2 ^ 4 + p.src.toNat * 2 ^ 10 + p.dst.toNat * 2 ^ 22 + p.stile.toNat * 2 ^ 34 + p.score.toNat * 2 ^ 42 +
   p.ogrp.toNat * 2 ^ 44 + p.path.toNat * 2 ^ 47 + p.len.toNat * 2 ^ 49 + p.addr.toNat * 2 ^ 58 + p.ctx.toNat * 2 ^ 102 +
   p.sctx.toNat * 2 ^ 122 + (packetSpecial p + p.spare) * 2 ^ 142)

/-- The payload: the data bytes, and after them a flag's counts (R383). -/
def packetPayload (p : Packet) : List Byte := p.data ++ p.counts.flatMap fun n => leBytes 4 n

/-! ### Links and paths (R382, R385, R386) -/

/-- The local port from member m to member n of one group (R382). -/
def localPort (m n : Nat) : Nat := (n + 32 - m - 1) % 32

/-- The package at the other end of a link (R382). -/
def peerOf (self : BitVec 12) (n : Nat) : Option (BitVec 12) :=
  let m := self.toNat % 32
  let g := self.toNat / 32
  if n < 31 then some (BitVec.ofNat 12 ((m + 1 + n) % 32 + g * 32)) else
  let i := 16 * m + (n - 31)
  if 508 ≤ i ∨ 47 ≤ n then none else
  some (BitVec.ofNat 12 ((4 * (126 - i / 4) + i % 4) / 16 + (g + i / 4 + 1) % 128 * 32))

/-- The local hop from a package to a member of its group, none where it is that member. -/
def localHop (src : BitVec 12) (n : Nat) : List (BitVec 12 × Nat) :=
  if src.toNat % 32 = n then [] else [(src, localPort (src.toNat % 32) n)]

/-- A member of a package's group. -/
def member (p : BitVec 12) (n : Nat) : BitVec 12 := BitVec.ofNat 12 (p.toNat / 32 * 32 + n)

/-- The links of path p from one package to another, each as its sending package and link; none where there is no such path (R385). -/
def route (src dst : BitVec 12) (p : Nat) : Option (List (BitVec 12 × Nat)) :=
  let m := src.toNat % 32
  let n := dst.toNat % 32
  if src.toNat / 32 = dst.toNat / 32 then
    if p = 0 then (if m = n then none else some (localHop src n)) else
    let i := (m + 8 * p) % 32
    if i = m ∨ i = n then none else some (localHop src i ++ localHop (member src i) n)
  else
    let d := (dst.toNat / 32 + 128 - src.toNat / 32) % 128
    let i := 4 * (d - 1) + p
    let out := member src (i / 16)
    match peerOf out (31 + i % 16) with
    | none => none
    | some e => some (localHop src (i / 16) ++ (out, 31 + i % 16) :: localHop e n)

/-- The link that path p to a package leaves by. -/
def firstLink (src dst : BitVec 12) (p : Nat) : Option Nat := ((route src dst p).bind (·.head?)).map (·.2)

/-- The link of the target that path p from a package arrives by (R382). -/
def lastLink (src dst : BitVec 12) (p : Nat) : Option Nat :=
  ((route src dst p).bind (·.getLast?)).bind fun x => (List.range 47).find? fun n => peerOf dst n == some x.1 &&
    (if x.2 < 31 then decide (n < 31) else decide (31 ≤ n ∧ (16 * (dst.toNat % 32) + (n - 31)) % 4 = (16 * (x.1.toNat % 32) + (x.2 - 31)) % 4))

/-- A link whose send direction carries traffic: no block begins at counter 2^48 of a key (R385, R432, R433). -/
def Link.up (l : Link) : Bool :=
  l.enabled && !l.failTx && !l.keyexh && (l.next.isSome || (l.cur.isSome && decide (l.counter < 2 ^ 48)))

/-- Whether a link of a route is in service and its far end installed: this package's own links by their state, others as the fabric has
told. -/
def State.hopUp (s : State) (x : BitVec 12 × Nat) : Bool :=
  (if x.1 = s.self then s.links.any fun l => l.n == x.2 && l.up else !s.farDown.contains x && !s.lostPkgs.contains x.1)

/-- The usable paths to a package (R385). -/
def State.usable (s : State) (dst : BitVec 12) : List Nat :=
  (List.range 4).filter fun p => match route s.self dst p with
    | none => false
    | some l => l.all s.hopUp

/-- How many distinct paths PATHS admits (R188). -/
def pathLimit (paths : Nat) : Nat := if paths = 1 then 1 else if paths = 2 then 2 else 4

/-- The load of a path: the unacknowledged blocks of its first link. -/
def State.load (s : State) (dst : BitVec 12) (p : Nat) : Nat :=
  ((firstLink s.self dst p).bind fun n => (s.links.find? fun l => l.n == n).map (·.blocks.length)).getD 0

/-- A path put before the first that is more loaded. -/
def State.byLoad (s : State) (dst : BitVec 12) (p : Nat) : List Nat → List Nat
  | [] => [p]
  | q :: qs => if s.load dst q ≤ s.load dst p then q :: s.byLoad dst p qs else p :: q :: qs

/-- The paths for the packets of an operation: those that it uses already and that are still usable, then others, least-loaded first, as
many as PATHS admits (R385). -/
def State.pathSet (s : State) (dst : BitVec 12) (paths : Nat) (old : List Nat) : List Nat :=
  let ok := s.usable dst
  ((old.filter ok.contains) ++ (ok.filter fun p => !old.contains p).foldl (fun l p => s.byLoad dst p l) []).take (pathLimit paths)

/-- The path of the next packet: the paths of its operation in turn (DESIGN CHOICE, log 7); path 0 while none is usable. -/
def State.pick (s : State) (l : List Nat) : Nat := (l[s.pktN % l.length]?).getD 0

/-- The path of a packet sent alone. -/
def State.pathOf (s : State) (dst : BitVec 12) : Nat := ((s.pathSet dst 1 []).head?).getD 0

/-- One block sent (R386): a key in NEXT is taken first, and the key before it is kept while blocks sent under it are unacknowledged; the
counter advances by 16. -/
def Link.send (l : Link) (w : Wire) : Link :=
  let k : Link := match l.next with
    | some k => { l with cur := some k, next := none, counter := 0, low := false
                         olds := match l.cur with
                           | some c =>
                             let n := l.blocks.length - (l.olds.map Prod.snd).sum
                             if n = 0 then l.olds else l.olds ++ [(c, n)]
                           | none => l.olds }
    | none => l
  { k with counter := k.counter + 16, blocks := k.blocks ++ [⟨k.counter, l.next.isSome, w⟩] }

/-- The oldest block sent has been acknowledged: its key is erased with the last block sent under it (R386). -/
def Link.acked (l : Link) : Link :=
  if l.blocks = [] then l else
  { l with blocks := l.blocks.drop 1, failed := 0
           olds := match l.olds with
             | [] => []
             | (k, n) :: r => if n ≤ 1 then r else (k, n - 1) :: r }

/-- The firmware core's watch over the counters: LINK.KEYLOW, and the step to KEYEXH (R386, R433). -/
def State.watchKey (s : State) (n : Nat) : State :=
  match s.links.find? fun l => l.n == n with
  | none => s
  | some l =>
    let s := if 2 ^ 47 < l.counter ∧ l.low = false then
        ({ s with links := s.links.map fun k => if k.n = n then { k with low := true } else k } : State).notify
          { cls := .linkKeylow, addr := n } 0
      else s
    if 2 ^ 48 ≤ l.counter ∧ l.next = none then s.after 0 .linkKeyexh (.num n) else s

/-- Something put on the first link of a path. -/
def State.onLink (s : State) (dst : BitVec 12) (path : Nat) (w : Wire) : State :=
  let n := (firstLink s.self dst path).getD 0
  ({ s with links := s.links.map fun l => if l.n = n then l.send w else l } : State).watchKey n

/-- An answer or a control message: put on its link, or left waiting where no path is usable; a lost package takes nothing (R385, R432,
R434). -/
def State.emit (s : State) (dst : BitVec 12) (w : Wire) : State :=
  if s.lostPkgs.contains dst then s else
  match (s.usable dst).head? with
  | none => { s with outWait := s.outWait ++ [w] }
  | some q =>
    let s := match w with
      | .pkt p => { s with outbox := s.outbox ++ [{ p with path := BitVec.ofNat 2 q }] }
      | .ctl d m => { s with ctlOut := s.ctlOut ++ [(d, m)] }
    s.onLink dst q w

/-- A control message to a package (R384). -/
def State.tell (s : State) (dst : BitVec 12) (m : Ctl) : State := s.emit dst (.ctl dst m)

/-- A negative acknowledgement of a packet of this package, by its own switch. -/
def State.nack (s : State) (p : Packet) (status : BitVec 8) : State :=
  s.after 1 .acknowledgement (.packet { p with
    type := 3, vlane := 42, src := s.self, dst := s.self, status := status, data := [], counts := [], len := 0, runs := [], spare := 0 })

/-- The runs of bytes that a packet names. -/
def packetSpans (p : Packet) (n : Nat) : List (Nat × Nat) := if p.runs = [] then [(p.addr.toNat, n)] else p.runs

/-- A packet put on its link, or left waiting where no path is usable. One to a lost package is acknowledged negatively at the first
switch with PLACE.UNMAPPED, and one that names an address above 44 bits, which translates nowhere, with XLATE.NONE (R87, R88, R385, R432,
R434). -/
def State.dispatch (s : State) (u : Sent) : State :=
  let p := u.pkt
  let u := { u with again := false }
  if s.lostPkgs.contains p.dst then ({ s with unacked := s.unacked ++ [u] } : State).nack p 10 else
  if p.runs.any fun r => decide (2 ^ 44 < r.1 + r.2) then ({ s with unacked := s.unacked ++ [u] } : State).nack p 11 else
  match (s.usable p.dst).head? with
  | none => { s with unacked := s.unacked ++ [{ u with waits := true }] }
  | some q =>
    let path := if (s.usable p.dst).contains p.path.toNat then p.path.toNat else q
    ({ s with outbox := s.outbox ++ [p], unacked := s.unacked ++ [{ u with waits := false }] } : State).onLink p.dst path (.pkt p)

/-- What waits for a path is sent once one is usable (R432). -/
def State.flushWaiting (s : State) : State :=
  let w := s.unacked.filter (·.waits)
  let t := w.foldl (fun t u => if (t.usable u.pkt.dst).isEmpty ∧ t.lostPkgs.contains u.pkt.dst = false then
      { t with unacked := t.unacked ++ [u] } else t.dispatch u) { s with unacked := s.unacked.filter fun u => !u.waits }
  s.outWait.foldl (fun t w => match w with
    | .pkt p => t.emit p.dst w
    | .ctl d _ => t.emit d w) { t with outWait := [] }

/-! ### Packets of a stream -/

/-- The header of a packet from a context by way of a tile and core. -/
def State.headerOf (s : State) (cnum : Nat) (tile : BitVec 8) (c : CoreId) (e : PkgMap) (type : BitVec 4) (flag : Bool) : Packet :=
  let x := (s.ctx? cnum).getD .keystone
  { type := type, vlane := BitVec.ofNat 6 (x.part + if flag then 21 else 0), src := s.self, dst := e.p, stile := tile
    score := BitVec.ofNat 2 (coreNum c), ogrp := 0, path := 0, len := 0, addr := 0, ctx := e.rcref, sctx := x.cref, rop := 0
    operand := 0, compare := 0, status := 0, id := s.pktN, counts := [], data := [] }

/-- What every packet of a stream has in its header. -/
def State.header (s : State) (c : CoreId) (e : PkgMap) (type : BitVec 4) (flag : Bool) : Packet :=
  s.headerOf s.tile.task.cnum s.tile.ptile c e type flag

/-- A packet sent for a task by way of a tile and core, awaiting its acknowledgement or answer. -/
def State.sendAs (s : State) (tid : Nat) (tile : BitVec 8) (c : CoreId) (own : Own) (write : Bool) (elem : Nat) (p : Packet) : State :=
  ({ s with pktN := s.pktN + 1 } : State).dispatch
    { pkt := { p with id := s.pktN }, tid := tid, tile := tile, core := c, own := own, write := write, elem := elem }

/-- A packet sent by the task in focus. -/
def State.sendRaw (s : State) (c : CoreId) (own : Own) (write : Bool) (elem : Nat) (p : Packet) : State :=
  s.sendAs s.tile.task.id s.tile.ptile c own write elem p

/-- The path that the flags of a key take now: the one they took, while it is usable (R124). -/
def State.flagPath (s : State) (c : CoreId) (e : PkgMap) (g : Nat) : Option Nat :=
  let l := s.usable e.p
  match ((s.tile.core c).sentTo e.p g).route with
  | some p => if l.contains p then some p else l.head?
  | none => l.head?

/-- Whether a flag of a key may be sent: there is a path, no earlier flag of the key waits to be sent again, and the route is the one the
unacknowledged flags of the key took, or there are none (R124). -/
def State.flagOk (s : State) (c : CoreId) (e : PkgMap) (g : Nat) : Bool :=
  let mine := s.unacked.filter fun u => u.tid == s.tile.task.id && u.core == c && u.pkt.dst == e.p && u.pkt.ogrp.toNat == g &&
    (u.pkt.type == 4 || u.pkt.type == 5)
  mine.all (fun u => !u.again) && (mine.isEmpty || ((s.tile.core c).sentTo e.p g).route == s.flagPath c e g)

/-- The counts toward a package restart, and its flags take a route. -/
def State.restartCounts (s : State) (c : CoreId) (e : PkgMap) (g : Nat) : State :=
  let x := (s.tile.core c).sentTo e.p g
  s.setTile (s.tile.setCore c ((s.tile.core c).putSent
    { x with counts := [0, 0, 0, 0], since := s.pktN, route := s.flagPath c e g }))

/-- A count-only flag: it carries the counts since the last flag, and they restart (R124). -/
def State.sendCounts (s : State) (c : CoreId) (e : PkgMap) (g : Nat) : State :=
  let p := { s.header c e 5 true with
    ogrp := BitVec.ofNat 3 g, path := BitVec.ofNat 2 ((s.flagPath c e g).getD 0), len := 16
    counts := ((s.tile.core c).sentTo e.p g).counts }
  (s.restartCounts c e g).sendRaw c .counts false ((s.tile.core c).sentTo e.p g).since p

/-- Whether a counted packet on a path needs a count-only flag before it (R124). -/
def State.countsFull (s : State) (c : CoreId) (e : PkgMap) (g path : Nat) : Bool :=
  g != 0 && decide (2 ^ 32 - 2 ≤ (((s.tile.core c).sentTo e.p g).counts[path]?).getD 0)

/-- A counted or uncounted data packet (types 0 and 6): in a counted group the path's count advances, a count-only flag going first
where the count would reach 2^32 - 1 (R124). -/
def State.sendData (s : State) (c : CoreId) (e : PkgMap) (own : Own) (g path elem : Nat) (p : Packet) : State :=
  let s := if s.countsFull c e g path then s.sendCounts c e g else s
  let x := (s.tile.core c).sentTo e.p g
  let s' := if g = 0 then s else s.setTile (s.tile.setCore c ((s.tile.core c).putSent { x with counts := bump x.counts path }))
  s'.sendRaw c own true elem { p with ogrp := BitVec.ofNat 3 g, path := BitVec.ofNat 2 path }

/-- An ordered flag with its word (R124). -/
def State.sendFlag (s : State) (c : CoreId) (e : PkgMap) (g : Nat) (addr : Nat) (x : Word) : State :=
  let p := { s.header c e 4 true with
    ogrp := BitVec.ofNat 3 g, path := BitVec.ofNat 2 ((s.flagPath c e g).getD 0), len := 20, addr := BitVec.ofNat 44 addr
    counts := ((s.tile.core c).sentTo e.p g).counts, data := leBytes 4 x.toNat }
  (s.restartCounts c e g).sendRaw c .rel true ((s.tile.core c).sentTo e.p g).since p

end Sys2Proof.Machine
end

