-- ==== Sys2Proof/Machine/Fence.lean ====
section
/-! DEFINITION. Fences (R115, R123, R177), hardware barriers (R51, R52, R178, R179) and the report point they share with done (R407,
R409). Within the package every write is visible at once (log 4), so a fence at .pkg or narrower retires at its issue. -/

namespace Sys2Proof.Machine

/-- A fault of a stream that has not been reported: one that waits for a report point, or a stopped operation's (R407, R409). -/
def Tile.unreported (t : Tile) (c : CoreId) : Option Trap :=
  match (t.core c).late with
  | x :: _ => some x
  | [] => (t.ops.filter fun o => o.core == c).findSome? fun o => if o.reported then none else o.fault

/-- The first fault that is left when all three streams have retired done. -/
def Tile.doneFault (t : Tile) : Option (CoreId × Trap) :=
  if t.lc.fin && t.cc.fin && t.sc.fin then
    [CoreId.load, .compute, .store].findSome? fun c => (t.unreported c).map fun x => (c, x)
  else none

/-- A report point of the stream: its first waiting fault, or its first stopped, unreported operation (R407, R409). -/
def report (s : State) : Act Unit :=
  match s.tile.unreported s.sel with
  | some t => .error (.trap t)
  | none => .ok ()

/-- Whether an operation is or may be a remote write: dma.wr, rat or rvat to another package, or an st.place (R121, R338). -/
def Op.isRemote (o : Op) : Bool := (o.remote.isSome && o.opc != 5) || o.opc == 12

/-- A remote write of the stream with the turn that is neither acknowledged nor stopped (R121). -/
def State.ownRemote (s : State) : Bool :=
  s.unacked.any (fun u => u.write && u.tid == s.tile.task.id && u.core == s.sel) ||
  s.tile.ops.any fun o => o.core == s.sel && o.isRemote && o.fault.isNone

/-- The number of the next packet when the release under way was first tried: later packets are not covered. -/
def State.mark (s : State) : Nat := s.core.relMark.getD s.pktN

/-- Whether every remote write that a release at .pod covers has been acknowledged, but for the exempt ones (R123). -/
def State.podCovered (s : State) (exempt : Sent → Bool) (exemptOp : Op → Bool) : Bool :=
  s.unacked.all (fun u => !u.write || decide (s.mark ≤ u.pkt.id) || exempt u) &&
  s.tile.ops.all fun o => o.core != s.sel || !o.isRemote || o.fault.isSome || exemptOp o

/-- A release at .pod waits, and remembers when it began. -/
def State.relWait (s : State) (exempt : Option (BitVec 12 × Nat)) : State :=
  (s.setCore { s.core with relMark := some s.mark, relExempt := exempt }).park .other

/-- A release at .pod no longer waits. -/
def State.relDone (s : State) : State := s.setCore { s.core with relMark := none, relExempt := none, relBad := none }

/-- ORD.BROKEN where a write that the release under way covers has been acknowledged negatively (R428). -/
def relBroken (s : State) (x : Bool) : Act Unit :=
  if x then (match s.core.relBad with
    | some t => .error (.trap t)
    | none => .ok ())
  else .ok ()

/-- fence.rel and fence.ar at a scope. -/
def fenceRel (sc : BitVec 3) (s : State) : Host.Outcome State Fault Refusal :=
  common s [] [] (do
    relBroken s (sc == 4)
    report s
    settled s
    if sc = 4 ∧ s.podCovered (fun _ => false) (fun _ => false) = false then .ok (s.relWait none) else .ok s.relDone.retire)

/-- R115, R123. -/
def execFenceRel (sc : BitVec 3) (s : State) := fenceRel sc s

/-- R115: every earlier synchronous read has returned when the fence issues. -/
def execFenceAcq (_ : BitVec 3) (s : State) : Host.Outcome State Fault Refusal :=
  common s [] [] (do report s; .ok s.retire)

/-- R115: the release, then the acquire. -/
def execFenceAr (sc : BitVec 3) (s : State) := fenceRel sc s

/-- R115: every remote write issued earlier by the stream has been acknowledged. -/
def execFenceAck (s : State) : Host.Outcome State Fault Refusal :=
  common s [] [] (do report s; await (s.ownRemote = false) .other; .ok s.retire)

/-! ### hbar -/

/-- The physical unit of a scope (R25). -/
def unitOf (scope pt : Nat) : Nat := if scope = 0 then pt else if scope = 1 then pquad pt else if scope = 2 then pdie pt else 0

/-- The tiles of a context's tasks, resident and saved. -/
def State.taskTiles (s : State) (c : Nat) : List Tile :=
  (s.tiles.filter fun t => t.resident && decide (t.task.cnum = c)) ++ ((s.ctx? c).map fun x => x.saved.map (·.tile)).getD []

/-- Whether a task on a tile takes part in the episodes of a key: an instance of the node, at .pod of the nodes with the NODEID, in the
same run and unit (R51, R272). -/
def takesEp (k : EpKey) (t : Task) (pt : Nat) : Bool :=
  t.cnum == k.cnum && (if k.scope = 4 then t.nodeid == k.node else t.node == k.node) && t.run == k.run && t.gang &&
  unitOf k.scope pt == k.unit

/-- What identifies the episodes of a task's streams of one kind at a scope; runs are numbered alike in every package (R178; DESIGN
CHOICE, log 5). -/
def epKeyOf (t : Task) (pt : Nat) (scope : Fin 5) (c : CoreId) (ep : Nat) : EpKey where
  cnum := t.cnum
  node := if scope = 4 then t.nodeid else t.node
  run := t.run
  scope := scope
  unit := unitOf scope pt
  core := c
  ep := ep

/-- The streams of the package that take part in the hbar of the core with the turn (R51). -/
def State.peers (s : State) (scope : Fin 5) : List CoreSt :=
  if scope = 0 then [s.tile.lc, s.tile.cc, s.tile.sc] else
  ((s.taskTiles s.tile.task.cnum).filter fun t =>
    takesEp (epKeyOf s.tile.task s.tile.ptile.toNat scope s.sel 0) t.task t.ptile.toNat).map (·.core s.sel)

/-- A stream has arrived in episode k: a stream that has retired done counts in every episode (R179). -/
def CoreSt.arrived (c : CoreSt) (scope : Fin 5) (k : Nat) : Bool := c.fin || decide (k ≤ c.hbarN[scope])

/-- What identifies the episode (R178). -/
def State.hbarKey (s : State) (scope : Fin 5) : EpKey := epKeyOf s.tile.task s.tile.ptile.toNat scope s.sel s.core.hbarN[scope]

/-- The entries of a context's package map that name other packages, one for each package. -/
def State.farPkgs (s : State) (c : Nat) : List PkgMap :=
  (((s.ctx? c).map (·.pmap)).getD []).foldl (fun l e => if e.p = s.self ∨ l.any (fun x => x.p == e.p) then l else l ++ [e]) []

/-- A message to every other package of a context's map: each names its context there and the sending one (R459). -/
def State.tellAll (s : State) (c : Nat) (m : BitVec 20 → BitVec 20 → Ctl) : State :=
  (s.farPkgs c).foldl (fun t e => t.tell e.p (m e.rcref ((s.ctx? c).getD .keystone).cref)) s

/-- The stream's arrival: its episode number advances once. -/
def State.hbarArrive (s : State) (scope : Fin 5) : State :=
  if s.core.hbarIn = some scope.val then s else
  s.setCore { s.core with hbarN := s.core.hbarN.set scope (s.core.hbarN[scope] + 1), hbarIn := some scope.val }

/-- Every stream of the package has arrived. -/
def State.hbarHere (s : State) (scope : Fin 5) : Bool := (s.peers scope).all fun c => c.arrived scope s.core.hbarN[scope]

/-- Another package's streams have arrived in an episode, or in every one of the run (R179). -/
def State.hbarFrom (s : State) (k : EpKey) (p : BitVec 12) : Bool := s.hbars.any fun h => h.1 == p && (h.2 == k || h.2 == { k with ep := 0 })

/-- The episode is complete: at .pod the other packages have arrived too. -/
def State.hbarComplete (s : State) (scope : Fin 5) : Bool :=
  s.hbarHere scope && (decide (scope.val ≠ 4) || (s.farPkgs s.tile.task.cnum).all fun e => s.hbarFrom (s.hbarKey scope) e.p)

/-- The other packages are told, once, that this package's streams have arrived in an episode at .pod. -/
def State.tellArrival (s : State) (k : EpKey) : State :=
  if s.hbarTold.contains k then s else
  ({ s with hbarTold := k :: s.hbarTold } : State).tellAll k.cnum fun ctx sctx => .hbarArrive s.self ctx sctx k

/-- At .pod the package tells the others that its streams have arrived. -/
def State.hbarTell (s : State) (scope : Fin 5) : State :=
  if scope = 4 ∧ s.hbarHere scope = true then s.tellArrival (s.hbarKey scope) else s

/-- The streams of one kind of a gang task's nodes have all ended in this package: they count as arrived in every episode at .pod, and the
other packages are told (R179, R429). -/
def State.hbarEnd (s : State) (t : Task) (c : CoreId) : State :=
  let k := epKeyOf t 0 4 c 0
  if t.gang && ((s.taskTiles t.cnum).filter fun u => takesEp k u.task 0).all fun u => (u.core c).fin then s.tellArrival k else s

/-- The scope number of a scope code 0 to 4. -/
def scopeFin (sc : BitVec 3) : Fin 5 := ⟨min sc.toNat 4, by omega⟩

/-- R178: arrives, and retires when the episode completes; its release at .pod waits as a fence would (R51, R123). -/
def execHbar (sc : BitVec 3) (s : State) : Host.Outcome State Fault Refusal :=
  common s [] [] (do
    check (sc = 0 ∨ s.tile.task.gang = true) { cls := .hbarScope }
    relBroken s (sc == 4)
    report s
    settled s
    if sc = 4 ∧ s.core.hbarIn = none ∧ s.podCovered (fun _ => false) (fun _ => false) = false then .ok (s.relWait none) else
    let t := (s.relDone.hbarArrive (scopeFin sc)).hbarTell (scopeFin sc)
    if t.hbarComplete (scopeFin sc) then .ok (t.setCore { t.core with hbarIn := none }).retire
    else .ok (t.park (if sc = 0 then .hbarTile else .other)))

end Sys2Proof.Machine
end

