-- ==== Sys2Proof/Machine/ScalarMem.lean ====
section
/-! DEFINITION. Scalar loads and stores, load-lock and store-unlock, scratch atomics (R163 to R166, R98, R99). -/

namespace Sys2Proof.Machine

/-- A load of n bytes, its value made by f (R163). -/
def load (n : Nat) (f : Nat → Word) (d a : GReg) (i : BitVec 15) (s : State) : Host.Outcome State Fault Refusal :=
  common s [a] [d] (do
    let k ← scalarAt s a (s.g a + imm i) n 1
    .ok (s.putG d (f (s.readNat k n))).retire)

/-- R163. -/
def execLb (d a : GReg) (i : BitVec 15) (s : State) := load 1 (fun x => (BitVec.ofNat 8 x).signExtend 32) d a i s
/-- R163. -/
def execLbu (d a : GReg) (i : BitVec 15) (s : State) := load 1 (BitVec.ofNat 32) d a i s
/-- R163. -/
def execLh (d a : GReg) (i : BitVec 15) (s : State) := load 2 (fun x => (BitVec.ofNat 16 x).signExtend 32) d a i s
/-- R163. -/
def execLhu (d a : GReg) (i : BitVec 15) (s : State) := load 2 (BitVec.ofNat 32) d a i s
/-- R163. -/
def execLw (d a : GReg) (i : BitVec 15) (s : State) := load 4 (BitVec.ofNat 32) d a i s

/-- A store of the low n bytes of gs (R163). -/
def storeLow (n : Nat) (g a : GReg) (i : BitVec 15) (s : State) : Host.Outcome State Fault Refusal :=
  common s [g, a] [] (do
    let k ← scalarAt s a (s.g a + imm i) n 2
    .ok (s.storeNat k n (s.g g).toNat).retire)

/-- R163. -/
def execSb (g a : GReg) (i : BitVec 15) (s : State) := storeLow 1 g a i s
/-- R163. -/
def execSh (g a : GReg) (i : BitVec 15) (s : State) := storeLow 2 g a i s
/-- R163. -/
def execSw (g a : GReg) (i : BitVec 15) (s : State) := storeLow 4 g a i s

/-- Whether a core waits for a lock bit. -/
def isWaiter (s : State) (l : Nat × Nat) (w : Nat × Nat × BitVec 8 × CoreId) : Bool :=
  decide (w = (l.1, l.2, s.tile.ptile, s.sel))

/-- Whether the bit is set by another core, or an earlier arrival waits for it (R98: waits are served in arrival order); a bit that the
core itself holds does not block it. -/
def State.lockBlocked (s : State) (l : Nat × Nat) : Bool :=
  !(s.locks.any fun x => x.bank == l.1 && x.bit == l.2 && x.tile == s.tile.ptile && x.core == s.sel) &&
  ((s.locks.any fun x => x.bank == l.1 && x.bit == l.2 && !(x.tile == s.tile.ptile && x.core == s.sel)) ||
  ((s.lockq.takeWhile fun w => !isWaiter s l w).any fun w => w.1 == l.1 && w.2.1 == l.2))

/-- The core waits in arrival order (R98). -/
def State.lockWait (s : State) (l : Nat × Nat) : State :=
  { s with lockq := if s.lockq.any (isWaiter s l) then s.lockq else s.lockq ++ [(l.1, l.2, s.tile.ptile, s.sel)] }

/-- The core no longer waits for the bit. -/
def State.lockServed (s : State) (l : Nat × Nat) : State := { s with lockq := s.lockq.filter fun w => !isWaiter s l w }

/-- The bit set for the core with the turn; it is lost after 4,096 cycles (R99). -/
def State.lock (s : State) (l : Nat × Nat) : State :=
  let x : Lock := { bank := l.1, bit := l.2, tile := s.tile.ptile, core := s.sel, since := s.now }
  ({ s with locks := s.locks ++ [x] } : State).after 4096 .lockLost (.num2 l.1 l.2)

/-- R165: LOCK.STATE where the core holds a bit; else waits for the bit, sets it and loads the word. An lld of a live barrier slot
leaves the slot undefined (R96). -/
def execLld (d a : GReg) (i : BitVec 15) (s : State) : Host.Outcome State Fault Refusal :=
  let at_ := s.opd a + imm i
  commonIssued s [a] [d] (do
    let k ← scalarAt s a at_ 4 1
    check (s.heldLock = none) { cls := .lockState, access := 1, addr := at_.toNat }
    let l := lockOf k
    if s.lockBlocked l then .ok ((s.lockWait l).parkIssued [a] .other) else
    .ok ((((s.lockServed l).lock l).putG d (BitVec.ofNat 32 (s.readNat k 4))).spoil k 4).retire)

/-- A lock bit cleared. -/
def State.unlock (s : State) (l : Nat × Nat) : State :=
  { s with locks := s.locks.filter fun x => !(x.bank == l.1 && x.bit == l.2) }

/-- R165: LOCK.LOST clears the mark and stores nothing; LOCK.STATE where the core does not hold the bit. -/
def execSul (g a : GReg) (i : BitVec 15) (s : State) : Host.Outcome State Fault Refusal :=
  match (do hazards s [g, a] [] []; let k ← scalarAt s a (s.g a + imm i) 4 2; settled s; .ok k) with
  | .error h => finish s (.error h)
  | .ok k =>
    let at_ := (s.g a + imm i).toNat
    if s.core.lost then
      .next ((s.setCore { s.core with lost := false }).takeTrap (some s.sel) { cls := .lockLost, access := 2, addr := at_ })
    else if s.heldLock.map (fun l => (l.bank, l.bit)) ≠ some (lockOf k) then
      finish s (.error (.trap { cls := .lockState, access := 2, addr := at_ }))
    else .next ((s.unlock (lockOf k)).storeNat k 4 (s.g g).toNat).retire

/-- An atomic read-modify-write of a scratch word (R166); a bit held by this core does not block (R98). -/
def amo (f : Word → Word) (d a : GReg) (reads : List GReg) (s : State) : Host.Outcome State Fault Refusal :=
  commonIssued s reads [d] (do
    let k ← scalarAt s a (s.opd a) 4 4
    let l := lockOf k
    if s.lockBlocked l then .ok ((s.lockWait l).parkIssued reads .other) else
    settled s
    let old := BitVec.ofNat 32 (s.readNat k 4)
    .ok (((s.lockServed l).storeNat k 4 (f old).toNat).putG d old).retire)

/-- The new value of an atomic by its code: 0 add to 6 swap, 7 cas against c (R130, R166, R206). -/
def atomicOp (code : Nat) (c y x : Word) : Word :=
  match code with
  | 0 => x + y
  | 1 => if x.slt y then x else y
  | 2 => if x.slt y then y else x
  | 3 => x &&& y
  | 4 => x ||| y
  | 5 => x ^^^ y
  | 6 => y
  | _ => if x = c then y else x

/-- R166. -/
def execAmoAdd (d a b : GReg) (s : State) := amo (atomicOp 0 0 (s.opd b)) d a [a, b] s
/-- R166. -/
def execAmoMin (d a b : GReg) (s : State) := amo (atomicOp 1 0 (s.opd b)) d a [a, b] s
/-- R166. -/
def execAmoMax (d a b : GReg) (s : State) := amo (atomicOp 2 0 (s.opd b)) d a [a, b] s
/-- R166. -/
def execAmoAnd (d a b : GReg) (s : State) := amo (atomicOp 3 0 (s.opd b)) d a [a, b] s
/-- R166. -/
def execAmoOr (d a b : GReg) (s : State) := amo (atomicOp 4 0 (s.opd b)) d a [a, b] s
/-- R166. -/
def execAmoXor (d a b : GReg) (s : State) := amo (atomicOp 5 0 (s.opd b)) d a [a, b] s
/-- R166. -/
def execAmoSwap (d a b : GReg) (s : State) := amo (atomicOp 6 0 (s.opd b)) d a [a, b] s
/-- R166: gd is the compare value. -/
def execAmoCas (d a b : GReg) (s : State) := amo (atomicOp 7 (s.opd d) (s.opd b)) d a [a, b, d] s

end Sys2Proof.Machine
end

