-- ==== Sys2Proof/Machine/Access.lean ====
section
/-! DEFINITION. Accesses at package virtual addresses: guest time (R324), range monitors (R364), reads and writes of engines, the
launcher, the fabric ingress and the host (R354, R356, R444). -/

namespace Sys2Proof.Machine

/-- The guest time of a context in ns (R324): the reference time runs at a third of the core clock. -/
def State.guestTime (s : State) (n : Nat) : BitVec 64 :=
  match s.ctx? n with
  | none => 0
  | some c => c.gstop.getD (BitVec.ofNat 64 (s.now / 3) + c.gbase)

/-! ### Range monitors (R364) -/

/-- x + n, saturating at 64 bits. -/
def satAdd (x n : Nat) : Nat := min (x + n) (2 ^ 64 - 1)

/-- A monitor after an access of n bytes at va at guest time t: one count for each 64-byte granule touched. -/
def Monitor.count (m : Monitor) (t : BitVec 64) (va n : Nat) (w : Bool) : Monitor :=
  let lo := max va m.base
  let hi := min (va + n) (m.base + m.len)
  if hi ≤ lo ∨ (if w then m.countW else m.countR) = false then m else
  let k := (hi - 1) / 64 - lo / 64 + 1
  let new := m.reads = 0 ∧ m.writes = 0
  { m with reads := if w then m.reads else satAdd m.reads k
           writes := if w then satAdd m.writes k else m.writes
           first := if new then t else m.first, last := t, changed := true }

/-- An access of n bytes at va in a context's space, counted by the monitors on it. -/
def State.monitor (s : State) (c va n : Nat) (w : Bool) : State :=
  s.mapCtx c fun x => { x with mons := x.mons.map fun m => m.count (s.guestTime c) va n w }

/-! ### Translated accesses -/

/-- A failed access: its class and address. -/
abbrev Access (α : Type) := Except (TrapClass × Nat) α

/-- The physical pieces of n bytes at va, page by page, at most k pieces; access kinds as xlate's. -/
def State.pieces (s : State) (c acc : Nat) : Nat → Nat → Nat → Access (List (Nat × Nat))
  | 0, _, _ => .ok []
  | k + 1, va, n =>
    if n = 0 then .ok [] else
    match s.xlate c va acc with
    | .error e => .error (e, va)
    | .ok pa =>
      let m := min n (65536 - va % 65536)
      match s.pieces c acc k (va + m) (n - m) with
      | .error e => .error e
      | .ok l => .ok ((pa, m) :: l)

/-- The physical pieces of n bytes at va. -/
def State.spans (s : State) (c acc va n : Nat) : Access (List (Nat × Nat)) := s.pieces c acc (n / 65536 + 2) va n

/-- n bytes read at va in a context's space; poison raises MEM.ERROR (R444). -/
def State.gread (s : State) (c va n : Nat) : Access (State × List Byte) :=
  match s.spans c 1 va n with
  | .error e => .error e
  | .ok l =>
    if l.any fun p => s.poisoned p.1 p.2 then .error (.memError, va)
    else .ok (l.foldl (fun t p => t.yields p.1 p.2) (s.monitor c va n false), l.flatMap fun p => Mem.readRange s.mem p.1 p.2)

/-- Bytes laid over physical pieces. -/
def State.lay (s : State) : List (Nat × Nat) → List Byte → State
  | [], _ => s
  | p :: ps, bs => ((s.yields p.1 p.2).store p.1 (bs.take p.2)).lay ps (bs.drop p.2)

/-- Bytes written at va in a context's space. -/
def State.gwrite (s : State) (c va : Nat) (bs : List Byte) : Access State :=
  match s.spans c 2 va bs.length with
  | .error e => .error e
  | .ok l => .ok ((s.monitor c va bs.length true).lay l bs)

/-- The runs of bytes that a packet names, read in order (R202). -/
def State.greadRuns (s : State) (c : Nat) : List (Nat × Nat) → Access (State × List Byte)
  | [] => .ok (s, [])
  | r :: rs =>
    match s.gread c r.1 r.2 with
    | .error e => .error e
    | .ok (t, bs) => match t.greadRuns c rs with
      | .error e => .error e
      | .ok (u, cs) => .ok (u, bs ++ cs)

/-- Every run translates for a write. -/
def State.runsOk (s : State) (c : Nat) : List (Nat × Nat) → Access Unit
  | [] => .ok ()
  | r :: rs =>
    match s.spans c 2 r.1 r.2 with
    | .error e => .error e
    | .ok _ => s.runsOk c rs

/-- Bytes written over runs, in order. -/
def State.layRuns (s : State) (c : Nat) : List (Nat × Nat) → List Byte → Access State
  | [], _ => .ok s
  | r :: rs, bs =>
    match s.gwrite c r.1 (bs.take r.2) with
    | .error e => .error e
    | .ok t => t.layRuns c rs (bs.drop r.2)

/-- Bytes written over the runs that a packet names; nothing is written where one of them does not translate. -/
def State.gwriteRuns (s : State) (c : Nat) (rs : List (Nat × Nat)) (bs : List Byte) : Access State :=
  match s.runsOk c rs with
  | .error e => .error e
  | .ok _ => s.layRuns c rs bs

/-- An access that translates and then meets poison is counted all the same (R364). -/
def State.struckAt (s : State) (cls : TrapClass) (c va n : Nat) (r w : Bool) : State :=
  if cls ≠ .memError then s else
  let t := if r then s.monitor c va n false else s
  if w then t.monitor c va n true else t

/-- A little-endian number of n bytes at va. -/
def State.greadNat (s : State) (c va n : Nat) : Access (State × Nat) :=
  match s.gread c va n with
  | .error e => .error e
  | .ok (t, bs) => .ok (t, leNat bs)

/-- n bytes at va that an atomic step reads and writes: both permissions, no poison (R356); the key of the first. -/
def State.gatomic (s : State) (c va n : Nat) : Access (State × Nat) :=
  match s.xlate c va 4 with
  | .error e => .error (e, va)
  | .ok k => if s.poisoned k n then .error (.memError, va) else .ok (((s.monitor c va n false).monitor c va n true).yields k n, k)

end Sys2Proof.Machine
end

