-- ==== Sys2Proof/Machine/Shards.lean ====
section
/-! DEFINITION. Meshes, placement records, shards and conversions (R326 to R335), and plain writes that race with a conversion (R344). -/

namespace Sys2Proof.Machine

/-! ### Meshes (R326 to R328) -/

/-- A field of a 64-byte record. -/
def bitsAt {w : Nat} (x : BitVec w) (lo n : Nat) : Nat := (fld lo n x).toNat

/-- A list's entry, 0 outside. -/
def entry (l : List Nat) (i : Nat) : Nat := (l[i]?).getD 0

/-- A mesh: sizes of the axes (1 for an absent one), number of axes, logical package at the origin, strides. -/
structure Mesh where
  size : List Nat
  axes : Nat
  base : Nat
  str : List Nat
  deriving DecidableEq, Repr

/-- The mesh of a record. -/
def Mesh.ofBits (x : BitVec 512) : Mesh where
  size := [bitsAt x 16 12 + 1, bitsAt x 32 12 + 1, bitsAt x 48 12 + 1]
  axes := bitsAt x 0 2
  base := bitsAt x 64 12
  str := [bitsAt x 80 12, bitsAt x 96 12, bitsAt x 112 12]

/-- The number of members. -/
def Mesh.count (m : Mesh) : Nat := entry m.size 0 * entry m.size 1 * entry m.size 2

/-- The coordinates of a rank (R327). -/
def Mesh.coords (m : Mesh) (r : Nat) : List Nat :=
  [r / (entry m.size 1 * entry m.size 2), r / entry m.size 2 % entry m.size 1, r % entry m.size 2]

/-- The rank of coordinates. -/
def Mesh.rank (m : Mesh) (c : List Nat) : Nat := (entry c 0 * entry m.size 1 + entry c 1) * entry m.size 2 + entry c 2

/-- The logical package of coordinates. -/
def Mesh.pkg (m : Mesh) (c : List Nat) : Nat :=
  m.base + entry c 0 * entry m.str 0 + entry c 1 * entry m.str 1 + entry c 2 * entry m.str 2

/-- Every member's coordinates, in rank order. -/
def Mesh.members (m : Mesh) : List (List Nat) := (List.range m.count).map m.coords

/-- A mesh image that mesh.set accepts (R328). -/
def meshOk (c : Ctx) (x : BitVec 512) : Bool :=
  let m := Mesh.ofBits x
  let gap (lo n : Nat) : Bool := bitsAt x lo n == 0
  gap 2 14 && gap 28 4 && gap 44 4 && gap 60 4 && gap 76 4 && gap 92 4 && gap 108 4 && gap 124 388 &&
  (decide (1 ≤ m.axes) || (gap 16 12 && gap 80 12)) && (decide (2 ≤ m.axes) || (gap 32 12 && gap 96 12)) &&
  (decide (3 ≤ m.axes) || (gap 48 12 && gap 112 12)) &&
  decide (m.count ≤ 4096) &&
  (m.axes == 0 ||
    (m.members.all (fun k => decide (m.pkg k < 4096) && (c.pkgOf (m.pkg k)).isSome) && decide (m.members.map m.pkg).Nodup))

/-- A mesh of a context's table; none where the entry is empty. -/
def Ctx.meshAt (c : Ctx) (i : Nat) : Option Mesh :=
  (c.mesh.find? fun x => x.1 == i).bind fun x => if (Mesh.ofBits x.2).axes = 0 then none else some (Mesh.ofBits x.2)

/-! ### Placement records (R329, R330) -/

/-- A placement record. -/
structure Rec where
  version : Nat
  ndim : Nat
  fmt : Nat
  mesh : Nat
  st : List Nat
  valid : Bool
  conv : Bool
  dims : List Nat
  layout : Nat
  deriving DecidableEq, Repr

/-- The record of an image. -/
def Rec.ofBits (x : BitVec 512) : Rec where
  version := bitsAt x 16 16
  ndim := bitsAt x 32 2
  fmt := bitsAt x 34 4
  mesh := bitsAt x 38 6
  st := [bitsAt x 44 3, bitsAt x 47 3, bitsAt x 50 3]
  valid := bitsAt x 53 1 == 1
  conv := bitsAt x 54 1 == 1
  dims := [bitsAt x 64 32, bitsAt x 96 32, bitsAt x 128 32, bitsAt x 160 32]
  layout := bitsAt x 192 44

/-- The element format. -/
def Rec.format (r : Rec) : Fmt := (Fmt.ofCode r.fmt).getD .empty
/-- The element width in bytes. -/
def Rec.width (r : Rec) : Nat := r.format.width / 8

/-- The formats that add (R330, R333). -/
def sumFmt (f : Fmt) : Bool := f == .fp32 || f == .bf16 || f == .int32

/-- The axes in state S(d), in the order x, y, z. -/
def axesOf (st : List Nat) (d : Nat) : List Nat := (List.range 3).filter fun i => entry st i == d

/-- The product of the sizes of the axes in state S(d). -/
def Mesh.split (m : Mesh) (st : List Nat) (d : Nat) : Nat := (axesOf st d).foldl (fun p i => p * entry m.size i) 1

/-- The box of a member (R331): first index and extent of each dimension. -/
def Mesh.box (m : Mesh) (dims st c : List Nat) : List (Nat × Nat) :=
  (List.range 4).map fun d =>
    let n := entry dims d / m.split st d
    ((axesOf st d).foldl (fun j i => j * entry m.size i + entry c i) 0 * n, n)

/-- The number of elements of a box. -/
def boxCount (b : List (Nat × Nat)) : Nat := b.foldl (fun n x => n * x.2) 1

/-- The global index of a box's element. -/
def boxIndex : List (Nat × Nat) → Nat → List Nat
  | [], _ => []
  | (lo, n) :: r, e => (lo + e % n) :: boxIndex r (e / n)

/-- The element of a box at a global index. -/
def boxElem : List (Nat × Nat) → List Nat → Nat
  | (lo, n) :: r, g :: gs => (g - lo) + n * boxElem r gs
  | _, _ => 0

/-- A well-formed record under demanded states (R330), apart from the image's reserved fields. -/
def recOk (r : Rec) (m : Option Mesh) : Bool :=
  match m with
  | none => false
  | some m =>
    decide (1 ≤ r.fmt ∧ r.fmt ≤ 10) &&
    ((List.range 3).all fun i => if i < m.axes then decide (entry r.st i ≤ 5) else entry r.st i == 4) &&
    ((List.range 3).all fun i => decide (4 ≤ entry r.st i ∨ entry r.st i ≤ r.ndim)) &&
    ((List.range 3).all fun i => entry r.st i != 5 || sumFmt r.format) &&
    ((List.range 4).all fun d => if d ≤ r.ndim then decide (1 ≤ entry r.dims d) else entry r.dims d == 1) &&
    ((List.range 4).all fun d => entry r.dims d % m.split r.st d == 0) &&
    decide (boxCount (m.box r.dims r.st [0, 0, 0]) * r.width < 2 ^ 44)

/-- An image's reserved fields are zero (R329). -/
def recClear (x : BitVec 512) : Bool := bitsAt x 55 9 == 0 && bitsAt x 236 20 == 0 && bitsAt x 256 256 == 0

/-- The record image of a context's table; 0 for an entry never written. -/
def Ctx.recAt (c : Ctx) (i : Nat) : BitVec 512 := ((c.ptab.find? fun x => x.1 == i).map (·.2)).getD 0

/-- A record image stored. -/
def Ctx.putRec (c : Ctx) (i : Nat) (x : BitVec 512) : Ctx := { c with ptab := (i, x) :: c.ptab.filter fun y => y.1 ≠ i }

/-! ### Conversions (R333 to R335) -/

/-- What an element costs to know: its value, or the fault of reading it. -/
abbrev Read := Access Nat

/-- The sum of two elements (R274, R335). -/
def sumElem (f : Fmt) (x y : Nat) : Nat :=
  if f = .int32 then (x + y) % 2 ^ 32 else fpRound f .rne 0 (FpNum.add false (fpVal f x) (fpVal f y))

/-- Contributions combined two at a time in an order that k gives (R274): every order and grouping is some k's. -/
def combine (f : Nat → Nat → Nat) : Nat → Nat → List Nat → Nat
  | 0, _, l => entry l 0
  | n + 1, k, l =>
    if l.length ≤ 1 then entry l 0 else
    let i := k % l.length
    let x := entry l i
    let r := l.eraseIdx i
    let k := k / l.length
    let j := k % r.length
    combine f n (k / r.length) (f x (entry r j) :: r.eraseIdx j)

/-- A conversion: mesh, record, states demanded, and the number of its first free value. -/
structure Conv where
  mesh : Mesh
  r : Rec
  aim : List Nat
  free : Nat
  deriving DecidableEq, Repr

/-- The states after the first k axes have been converted. -/
def Conv.states (v : Conv) (k : Nat) : List Nat := (List.range 3).map fun i => if i < k then entry v.aim i else entry v.r.st i

/-- The coordinate on axis i, in state S(d), of the members that hold a global index. -/
def Conv.coordAt (v : Conv) (st : List Nat) (i : Nat) (g : List Nat) : Nat :=
  let d := entry st i
  let j := entry g d / (entry v.r.dims d / v.mesh.split st d)
  let inner := ((axesOf st d).filter fun k => decide (i < k)).foldl (fun p k => p * entry v.mesh.size k) 1
  j / inner % entry v.mesh.size i

/-- A number for a global index, for the free choices. -/
def Conv.number (v : Conv) (g : List Nat) : Nat := boxElem (v.r.dims.map fun n => (0, n)) g

/-- The free values of one member's result: six for each global index. -/
def Conv.span (v : Conv) : Nat := 6 * boxCount (v.r.dims.map fun n => (0, n))

/-- The free values of the result of the member at c. -/
def Conv.freeAt (v : Conv) (g c : List Nat) : Nat := v.free + v.mesh.rank c * v.span + 6 * v.number g

/-- The member whose shard gives an element for the member at c: on an S axis the holder, on an R axis any (a free choice for each axis,
element and result, R332), on a P axis the member's own; n numbers the free choices. -/
def Conv.home (v : Conv) (n : Nat) (g c : List Nat) : List Nat :=
  (List.range 3).map fun i =>
    if entry v.r.st i = 4 then Config.freeValue (n + i) 12 % entry v.mesh.size i
    else if entry v.r.st i = 5 then entry c i
    else v.coordAt v.r.st i g

/-- The value of a global index for the member at c once the first k axes have been converted (R333, R334). -/
def Conv.value (v : Conv) (n : Nat) (fetch : List Nat → List Nat → Read) : Nat → List Nat → List Nat → Read
  | 0, g, c => fetch (v.home n g c) g
  | k + 1, g, c =>
    let a := entry v.r.st k
    let b := entry v.aim k
    if a = b then v.value n fetch k g c
    else if b = 5 then
      if (if a = 4 then 0 else v.coordAt (v.states k) k g) = entry c k then v.value n fetch k g c else .ok 0
    else if a = 5 then do
      let xs ← (List.range (entry v.mesh.size k)).mapM fun j => v.value n fetch k g (c.set k j)
      let w := 24 * entry v.mesh.size k
      let order := Config.freeValue (n + 3 + k) (w * v.mesh.count) / 2 ^ (w * v.mesh.rank c) % 2 ^ w
      .ok (combine (sumElem v.r.format) xs.length order xs)
    else v.value n fetch k g c

/-- The members whose shards the value of a global index is read from. -/
def Conv.reads (v : Conv) (n : Nat) : Nat → List Nat → List Nat → List (List Nat)
  | 0, g, c => [v.home n g c]
  | k + 1, g, c =>
    let a := entry v.r.st k
    let b := entry v.aim k
    if a = b then v.reads n k g c
    else if b = 5 then
      if (if a = 4 then 0 else v.coordAt (v.states k) k g) = entry c k then v.reads n k g c else []
    else if a = 5 then (List.range (entry v.mesh.size k)).flatMap fun j => v.reads n k g (c.set k j)
    else v.reads n k g c

/-- The box of the member at c under the demanded states. -/
def Conv.boxTo (v : Conv) (c : List Nat) : List (Nat × Nat) := v.mesh.box v.r.dims v.aim c

/-- The element offset of a global index in the shard of the member at c. -/
def Conv.offset (v : Conv) (c g : List Nat) : Nat := boxElem (v.mesh.box v.r.dims v.r.st c) g

/-- The distinct elements that the new shard of the member at c is formed from: coordinates and element. -/
def Conv.sources (v : Conv) (c : List Nat) : List (List Nat × Nat) :=
  ((List.range (boxCount (v.boxTo c))).flatMap fun e =>
    let g := boxIndex (v.boxTo c) e
    (v.reads (v.freeAt g c) 3 g c).map fun h => (h, v.offset h g)).eraseDups

/-- An element of the new shard of the member at c. -/
def Conv.newElem (v : Conv) (fetch : List Nat → List Nat → Read) (c : List Nat) (e : Nat) : Read :=
  let g := boxIndex (v.boxTo c) e
  v.value (v.freeAt g c) fetch 3 g c

/-- The demanded states of a descriptor: code 6 keeps an axis, an absent axis stays R (R208). -/
def demanded (m : Mesh) (st : List Nat) (desc : Nat) : List Nat :=
  (List.range 3).map fun i =>
    let d := desc / 2 ^ (12 + 3 * i) % 8
    if m.axes ≤ i then 4 else if d = 6 then entry st i else d

/-- A field of an absent axis that is not zero (R208). -/
def absentField (m : Mesh) (desc : Nat) : Bool := (List.range 3).any fun i => decide (m.axes ≤ i ∧ desc / 2 ^ (12 + 3 * i) % 8 ≠ 0)

/-- The physical package of the member at c, by a context's package map. -/
def Ctx.memberPkg (x : Ctx) (m : Mesh) (c : List Nat) : Option PkgMap := x.pkgOf (m.pkg c)

/-! ### Races with a conversion (R344) -/

/-- The byte count of a member's shard (R331). -/
def shardBytes (r : Rec) (m : Mesh) : Nat := boxCount (m.box r.dims r.st [0, 0, 0]) * r.width

/-- Free bytes at an address of a context, page by page, at most k pages, where it is mapped. -/
def State.freePages (s : State) (c : Nat) : Nat → Nat → Nat → State
  | 0, _, _ => s
  | k + 1, va, n =>
    if n = 0 then s else
    let m := min n (65536 - va % 65536)
    let t := match s.xlate c va 1 with
      | .error _ => s
      | .ok pa => (s.freeVal (8 * m)).2.store pa (leBytes m (s.freeVal (8 * m)).1)
    t.freePages c k (va + m) (n - m)

/-- Free bytes at an address of a context, where it is mapped. -/
def State.freeBytes (s : State) (c va n : Nat) : State := s.freePages c (n / 65536 + 2) va n

/-- The bytes of the tensor at an index of a context's table, in this package, become undefined. -/
def State.freeShard (s : State) (c prec : Nat) : State :=
  match s.ctx? c with
  | none => s
  | some x =>
    let r := Rec.ofBits (x.recAt prec)
    match x.meshAt r.mesh with
    | none => s
    | some m => s.freeBytes c r.layout (shardBytes r m)

/-- Whether n bytes at a key belong to the shard of a tensor. -/
def State.inShard (s : State) (x : Ctx) (prec k n : Nat) : Bool :=
  let r := Rec.ofBits (x.recAt prec)
  match x.meshAt r.mesh with
  | none => false
  | some m =>
    let size := shardBytes r m
    (List.range (size / 65536 + 2)).any fun i =>
      let va := max r.layout ((r.layout / 65536 + i) * 65536)
      let hi := min (r.layout + size) ((r.layout / 65536 + i + 1) * 65536)
      decide (va < hi) && (match s.xlate x.cnum va 1 with
        | .error _ => false
        | .ok pa => decide (pa < k + n ∧ k < pa + (hi - va)))

/-- The tensors in a conversion or a running job whose shard holds one of n bytes at a key. -/
def State.racing (s : State) (k n : Nat) : List (Nat × Nat) :=
  s.ctxs.flatMap fun x => (x.ptab.filter fun y => (Rec.ofBits y.2).conv && s.inShard x y.1 k n).map fun y => (x.cnum, y.1)

/-- Members of a tensor in other packages told that their shard bytes have become undefined. -/
def State.tellSpoilt (s : State) (c prec : Nat) (ms : List (List Nat)) : State :=
  match s.ctx? c with
  | none => s
  | some x => match x.meshAt (Rec.ofBits (x.recAt prec)).mesh with
    | none => s
    | some m => (ms.filterMap (x.memberPkg m)).foldl (fun t e =>
        if e.p = t.self then t else t.tell e.p (.spoilt t.self e.rcref x.cref prec)) s

/-- Every member of the tensor at an index. -/
def State.membersOf (s : State) (c prec : Nat) : List (List Nat) :=
  (((s.ctx? c).bind fun x => x.meshAt (Rec.ofBits (x.recAt prec)).mesh).map Mesh.members).getD []

/-- The shard here becomes undefined, at once and when the conversion or job under way ends. -/
def State.spoilShard (s : State) (c prec : Nat) : State :=
  { s.freeShard c prec with spoiled := (c, prec) :: s.spoiled.filter (· ≠ (c, prec)) }

/-- A plain write of n bytes at a key: no happens-before is tracked, so one that falls within a conversion or a running job counts as
unordered with it, and leaves every shard byte of the tensor undefined, in every member, at once and when that ends (R344; DEDUCED, log
48). -/
def State.plain (s : State) (k n : Nat) : State :=
  (s.racing k n).foldl (fun t x => (if t.spoiled.contains x then t else t.tellSpoilt x.1 x.2 (t.membersOf x.1 x.2)).spoilShard x.1 x.2) s

/-- A conversion or job on a tensor ends: what raced with it leaves the shard undefined. -/
def State.settleRace (s : State) (c prec : Nat) : State :=
  if s.spoiled.contains (c, prec) then { s.freeShard c prec with spoiled := s.spoiled.filter (· ≠ (c, prec)) } else s

end Sys2Proof.Machine
end

