-- ==== Sys2Proof/Machine/System.lean ====
section
/-! DEFINITION. The system instructions (R185), the end of a stream (R38) and reserved encodings (R425). -/

namespace Sys2Proof.Machine

/-- Whether the task in focus is complete but for its completion step (R38): streams done, operations past their completion points
or abandoned, no reply and no result on its way, and its remote writes acknowledged, which the completion releases (R109). -/
def State.taskDone (s : State) : Bool :=
  let t := s.tile
  t.resident && t.lc.fin && t.cc.fin && t.sc.fin && t.ops.isEmpty && t.mmas.isEmpty && t.epis.isEmpty && t.cc.flight.isEmpty && t.pushes.isEmpty &&
  t.lc.late.isEmpty && t.sc.late.isEmpty && t.cc.late.isEmpty && s.reqs.all (fun r => r.tid != t.task.id) &&
  s.unacked.all fun u => u.tid != t.task.id || !(u.write || u.own == .counts)

/-- The completion of the task follows where nothing of it is left (R38). A fault found after the last done is reported at that stream's
done, which has not retired then (R407, R428; DEDUCED, log 21). -/
def State.tryComplete (s : State) : State :=
  if s.taskDone then s.after 0 .taskCompletion (.tile s.tile.ptile) else
  match s.tile.doneFault with
  | none => s
  | some (c, x) =>
    if s.tile.halted then s else
    (s.setTile (s.tile.setCore c { s.tile.core c with fin := false, pc := (s.tile.core c).pc - 4 })).takeTrap (some c) x

/-- R185. -/
def execNop (s : State) : Host.Outcome State Fault Refusal := common s [] [] (.ok s.retire)

/-- R185: retires, then raises ECALL with the saved PC after it. -/
def execEcall (s : State) : Host.Outcome State Fault Refusal :=
  common s [] [] (.ok (s.retire.takeTrap (some s.sel) { cls := .ecall, pc := some s.core.pc }))

/-- R185. -/
def execEbreak (s : State) : Host.Outcome State Fault Refusal := common s [] [] (.error (.trap { cls := .brk }))

/-- The end of a stream: no loop frame, no lock bit (R185, R99), arrived in every later episode (R179). -/
def State.endStream (s : State) : State :=
  let t := s.setCore { s.core with pc := s.core.pc + 4, loops := [], fin := true, wait := .run, next := s.now + 1 }
  (({ t with locks := t.locks.filter fun l => !(l.tile == s.tile.ptile && l.core == s.sel) } : State).hbarEnd s.tile.task s.sel).tryComplete

/-- R185, R38; a report point (R407). -/
def execDone (s : State) : Host.Outcome State Fault Refusal := common s [] [] (do report s; settled s; .ok s.endStream)

/-- R185: an offer whose effect is on timing only. -/
def execYield (s : State) : Host.Outcome State Fault Refusal := common s [] [] (.ok s.retire)

/-- R425: OP.RESERVED, before every other check and every wait. -/
def execReservedEncoding (_ : Word) (s : State) : Host.Outcome State Fault Refusal := finish s (.error (.trap { cls := .opReserved }))

end Sys2Proof.Machine
end

