-- ==== Sys2Proof/Machine/Transfer.lean ====
section
/-! DEFINITION. The load and store cores' instructions as they issue (chapter 08); what the engines then do is in Engine.lean. -/

namespace Sys2Proof.Machine

/-- The first register of a pair (R187). -/
def pairLo (d : Pair) : GReg := d ++ 0#1
/-- The second register of a pair. -/
def pairHi (d : Pair) : GReg := d ++ 1#1

/-! ### Control words (R188) -/

/-- CSCOPE. -/
def ctlScope (w : Word) : Nat := (fld 0 3 w).toNat
/-- SBSEL. -/
def ctlSb (w : Word) : Nat := (fld 3 2 w).toNat
/-- OGRP. -/
def ctlOgrp (w : Word) : Nat := (fld 5 3 w).toNat
/-- PATHS. -/
def ctlPaths (w : Word) : Nat := (fld 8 2 w).toNat
/-- ZOOB. -/
def ctlZoob (w : Word) : Bool := fld 10 1 w == 1
/-- MCFIRST. -/
def ctlFirst (w : Word) : Nat := (fld 16 8 w).toNat
/-- MCCOUNT + 1. -/
def ctlCount (w : Word) : Nat := (fld 24 8 w).toNat + 1

/-- The checks of a transfer control word against the bits that the instruction uses (R188). -/
def ctlCheck (w : Word) (used : Word) (c : GReg) : Act Unit :=
  check (w &&& ~~~used = 0 ∧ ctlScope w ≤ 4 ∧ ctlSb w ≠ 3 ∧ ctlPaths w ≠ 3 ∧ (ctlSb w ≠ 0 → c ≠ 0)) { cls := .xferCtl }

/-- Fields used: dma.ld, dma.st, dma.cp, dma.sx, ld.place. -/
def useCopy : Word := 0x1F
/-- dma.cp.mc. -/
def useMc : Word := 0xFFFF001F
/-- dma.ix. -/
def useIx : Word := 0x41F
/-- dma.rd. -/
def useRd : Word := 0x31F
/-- dma.wr and rvat. -/
def useWr : Word := 0x3F8
/-- st.place. -/
def useStPlace : Word := 0x18

/-! ### Checks of handles and barriers (R189, R190) -/

/-- R190: BASE, and the stride of each dimension with an extent above 1, a multiple of the element width. -/
def handleAligned (h : Handle) : Act Unit :=
  let w : Int := Handle.width h
  check (Handle.base h % Handle.width h = 0 ∧ (1 < Handle.ext h 1 → Handle.str h 1 % w = 0) ∧
    (1 < Handle.ext h 2 → Handle.str h 2 % w = 0) ∧ (1 < Handle.ext h 3 → Handle.str h 3 % w = 0))
    { cls := .misalign, addr := Handle.base h }

/-- A barrier slot named by an operation (R189). -/
def slotLive (s : State) (a : Nat) : Act Nat := do
  check (a % 16 = 0) { cls := .misalign, addr := a }
  let k ← scratchAt s a 16 0
  check ((s.bar k).live = true) { cls := .barDead, addr := a }
  .ok k

/-- Destination and source barrier (R186, R188, R189). -/
def barriers (s : State) (c : GReg) (w : Word) : Act (Option Nat × Option Nat) :=
  if c = 0 then .ok (none, none) else do
  let d ← slotLive s (s.g c).toNat
  if ctlSb w = 0 then .ok (some d, none) else
  let b ← slotLive s ((s.g c).toNat + if ctlSb w = 2 then 16 else 0)
  .ok (some d, some b)

/-- The package that a logical package number names (R30, R201). -/
def pkgAt (s : State) (l : Nat) : Act PkgMap :=
  match (s.ctx? s.tile.task.cnum).bind fun c => c.pkgOf l with
  | some e => .ok e
  | none => .error (.trap { cls := .placeUnmapped })

/-! ### The BTE (R191) -/

/-- The cycles from the issue of an operation to the first event of its engine; the spec gives typical figures only (log 8). -/
def engineDelay : Nat := 8

/-- An operation whose target is another package begins in the cycle of its issue, so that every packet that a later flag of its stream
must count has been counted by then (R121, R124). -/
def Op.delay (o : Op) : Nat := if o.remote.isSome then 0 else engineDelay

/-- Room in the BTE: a further instruction waits, and a stopped, unreported holder of a full BTE is reported (R191, R407). -/
def bteEntry (s : State) : Act Unit :=
  let own := s.tile.ops.filter fun o => o.core == s.sel
  if own.length < 16 then .ok () else
  match own.findSome? fun o => if o.reported then none else o.fault with
  | some t => .error (.trap t)
  | none => .error (.wait .other)

/-- A change made to one operation of the tile in focus. -/
def Tile.mapOp (t : Tile) (c : CoreId) (q : BitVec 16) (f : Op → Op) : Tile :=
  { t with ops := t.ops.map fun o => if o.core = c ∧ o.seq = q then f o else o }

/-- The operation with a sequence number. -/
def Tile.op? (t : Tile) (c : CoreId) (q : BitVec 16) : Option Op := t.ops.find? fun o => o.core = c ∧ o.seq = q

/-- The slots that an owner reserved fill in this cycle (R44). -/
def fillSlots (o : Owner) (now : Nat) (q : Queue) : Queue :=
  { q with slots := q.slots.map fun x => match x with
      | .pending p => if p = o then .filled 0 now else .pending p
      | .filled tk a => .filled tk a
      | .poisoned p t => .poisoned p t }

/-- The tile with an owner's slots filled. -/
def Tile.fill (t : Tile) (o : Owner) (now : Nat) : Tile := { t with q := t.q.map (fillSlots o now) }

/-- The home that an operation asked for its turn on a tensor hears that the operation has ended (R342). -/
def State.endAsk (s : State) (c : Nat) (a : Option (PkgMap × Nat)) : State :=
  match a with
  | none => s
  | some (e, n) => s.tell e.p (.tensorEnd s.self e.rcref ((s.ctx? c).getD .keystone).cref n)

/-- An operation passes its completion point: its slots fill, its entry is freed, a stream that waited for it goes on, and the task
may be complete (R45, R191, R195). -/
def State.opDone (s : State) (c : CoreId) (q : BitVec 16) : State :=
  let t := s.tile.fill (.dma c q) s.now
  let x := t.core c
  let x := { x with hold := (match x.hold with
                              | some (.op n p) => if n = q then none else some (.op n p)
                              | h => h)
                    pend := x.pend.filter fun p => match p.2 with
                              | .op n _ => n != q
                              | _ => true }
  ((s.endAsk t.task.cnum ((t.op? c q).bind (·.ask))).setTile
    { t.setCore c x with ops := t.ops.filter fun o => !(o.core == c && o.seq == q) }).tryComplete

/-- ld.place or st.place. -/
def Op.isPlace (o : Op) : Bool := o.opc == 11 || o.opc == 12

/-- The BTE accepts an operation: it takes the next SEQ; one that moves nothing is complete at once (R87, R191), but a placement
operation, whose shard is never empty, runs (R209). -/
def State.accept (s : State) (o : Op) : State :=
  let c := { s.core with seq := s.core.seq + 1
                         hold := if o.precise then some (.op o.seq o.pc) else s.core.hold }
  let t := (s.setCore c).setTile { (s.setCore c).tile with ops := s.tile.ops ++ [o] }
  if o.total = 0 ∧ o.isPlace = false then t.opDone o.core o.seq
  else t.after o.delay .engineCredit (.credit s.tile.ptile o.core o.seq o.total)

/-- A new operation's record. -/
def State.newOp (s : State) (opc : Nat) (k : OpKind) (hd hs : Handle) (b : Option Nat × Option Nat) (total : Nat)
    (r : Option PkgMap) : Op where
  core := s.sel
  seq := s.core.seq
  opc := opc
  kind := k
  hd := hd
  hs := hs
  dbar := b.1
  sbar := b.2
  pc := s.core.pc
  done := 0
  total := total
  running := true
  fault := none
  reported := false
  broken := false
  credited := 0
  acked := []
  srcDone := false
  paths := []
  precise := s.core.precise
  remote := r
  recv := s.reqN
  ask := none
  granted := false
  free := none

/-- A transfer instruction: takes, reservations, interlocks, then its checks and its acceptance by the BTE. -/
def transfer (s : State) (k : Tok) (rs : List GReg) (mk : State → Act Op) : Host.Outcome State Fault Refusal :=
  priv s k (.pending (.dma s.sel s.core.seq)) (.ok ()) rs [] [] fun t => do
    let o ← mk t
    settled t
    bteEntry t
    .ok (t.accept o)

/-! ### Copies (R197 to R199) -/

/-- dma.ld, dma.st, dma.cp: the levels admitted are given by lv. -/
def copyOp (opc : Nat) (lv : Nat → Nat → Bool) (a b : HReg) (c d : GReg) (s : State) : Act Op := do
  regError s [.h a, .h b]
  ctlCheck (s.g d) useCopy c
  handleForm s (s.h a) true false
  handleForm s (s.h b) true false
  check (lv (Handle.level (s.h a)) (Handle.level (s.h b)) = true) { cls := .handleForm }
  check (Handle.bytes (s.h a) = Handle.bytes (s.h b)) { cls := .xferShape }
  handleAligned (s.h a)
  handleAligned (s.h b)
  let bs ← barriers s c (s.g d)
  .ok (s.newOp opc .copy (s.h a) (s.h b) bs (Handle.count (s.h a)) none)

/-- R197, R198. -/
def execDmaLd (k : Tok) (a b : HReg) (c d : GReg) (s : State) : Host.Outcome State Fault Refusal :=
  transfer s k [c, d] (copyOp 0 (fun x y => x != 3 && y == 3) a b c d)

/-- R197, R198. -/
def execDmaSt (k : Tok) (a b : HReg) (c d : GReg) (s : State) : Host.Outcome State Fault Refusal :=
  transfer s k [c, d] (copyOp 1 (fun x y => x == 3 && y != 3) a b c d)

/-- R197, R198: GD[3:0] names g0 to g15. -/
def execDmaCp (k : Tok) (a b : HReg) (c : GReg) (d : BitVec 4) (s : State) : Host.Outcome State Fault Refusal :=
  transfer s k [c, 0#1 ++ d] (copyOp 2 (fun _ _ => true) a b c (0#1 ++ d))

/-- The number of logical units at a level (R26, R199). -/
def unitCount (level : Nat) : Nat := if level = 0 then 256 else if level = 1 then 64 else 8

/-- The physical unit of a logical unit at a level. -/
def Ctx.unitOf (c : Ctx) (level l : Nat) : Option Nat :=
  if level = 0 then (c.tileOf l).map (·.toNat) else if level = 1 then c.quadOf l else c.dieOf l

/-- R199. -/
def multicastOp (a b : HReg) (c d : GReg) (s : State) : Act Op := do
  regError s [.h a, .h b]
  let w := s.g d
  ctlCheck w useMc c
  handleForm s (s.h a) false true
  handleForm s (s.h b) false true
  let level := Handle.level (s.h a)
  check (level ≠ 3) { cls := .handleForm }
  check (ctlFirst w + ctlCount w ≤ unitCount level ∧
    (List.range (ctlCount w)).all (fun i =>
      ((s.ctx? s.tile.task.cnum).bind fun x => x.unitOf level (ctlFirst w + i)).isSome) = true) { cls := .placeUnmapped }
  check (Handle.bytes (s.h a) = Handle.bytes (s.h b)) { cls := .xferShape }
  handleAligned (s.h a)
  handleAligned (s.h b)
  let bs ← barriers s c w
  .ok (s.newOp 2 (.multicast (ctlFirst w) (ctlCount w)) (s.h a) (s.h b) bs (Handle.count (s.h a)) none)

/-- R199. -/
def execDmaCpMc (k : Tok) (a b : HReg) (c : GReg) (d : BitVec 4) (s : State) : Host.Outcome State Fault Refusal :=
  transfer s k [c, 0#1 ++ d] (multicastOp a b c (0#1 ++ d))

/-! ### Gather and scatter (R200) -/

/-- The row length L of a table handle. -/
def rowBytes (h : Handle) : Nat := Handle.ext h 0 * Handle.width h

/-- dma.ix (gather) and dma.sx. -/
def indexOp (gather : Bool) (a b : HReg) (c : GReg) (d : Pair) (s : State) : Act Op := do
  regError s [.h a, .h b]
  let w := s.g (pairLo d)
  ctlCheck w (if gather then useIx else useCopy) c
  handleForm s (s.h a) true false
  handleForm s (s.h b) true false
  let table := if gather then s.h b else s.h a
  let packed := if gather then s.h a else s.h b
  let l := rowBytes table
  check (Handle.ext table 2 = 1 ∧ Handle.ext table 3 = 1) { cls := .xferShape }
  check (l ≠ 0 ∧ Handle.bytes packed % l = 0) { cls := .xferShape }
  handleAligned (s.h a)
  handleAligned (s.h b)
  let bs ← barriers s c w
  let n := Handle.bytes packed / l
  let list := (s.g (pairHi d)).toNat
  check (list % 4 = 0) { cls := .misalign, access := 1, addr := list }
  let k ← scratchAt s list (4 * n) 1
  .ok (s.newOp (if gather then 3 else 4) (if gather then .gather k (ctlZoob w) else .scatter k) (s.h a) (s.h b) bs n none)

/-- R200. -/
def execDmaIx (k : Tok) (a b : HReg) (c : GReg) (d : Pair) (s : State) : Host.Outcome State Fault Refusal :=
  transfer s k [c, pairLo d, pairHi d] (indexOp true a b c d)

/-- R200. -/
def execDmaSx (k : Tok) (a b : HReg) (c : GReg) (d : Pair) (s : State) : Host.Outcome State Fault Refusal :=
  transfer s k [c, pairLo d, pairHi d] (indexOp false a b c d)

/-! ### Other packages (R201, R202, R207) -/

/-- The second word of dma.rd, dma.wr and rvat: the logical package (R201). -/
def pkgWord (s : State) (x : Word) : Act PkgMap := do
  check (fld 12 20 x = 0) { cls := .xferCtl }
  pkgAt s (fld 0 12 x).toNat

/-- R201, R202. -/
def rdOp (a b : HReg) (c : GReg) (d : Pair) (s : State) : Act Op := do
  regError s [.h a, .h b]
  let w := s.g (pairLo d)
  ctlCheck w useRd c
  let e ← pkgWord s (s.g (pairHi d))
  handleForm s (s.h a) true false
  handleForm s (s.h b) false true
  check (Handle.level (s.h b) = 3 ∧ Handle.level (s.h a) ≠ 3) { cls := .handleForm }
  check (Handle.bytes (s.h a) = Handle.bytes (s.h b)) { cls := .xferShape }
  handleAligned (s.h a)
  handleAligned (s.h b)
  let bs ← barriers s c w
  .ok (s.newOp 5 (.rd (ctlPaths w)) (s.h a) (s.h b) bs (Handle.count (s.h a)) (remoteOf s e))

/-- R201, R202: a local source may also be global. -/
def wrOp (a b : HReg) (c : GReg) (d : Pair) (s : State) : Act Op := do
  regError s [.h a, .h b]
  let w := s.g (pairLo d)
  ctlCheck w useWr c
  let e ← pkgWord s (s.g (pairHi d))
  handleForm s (s.h a) false true
  handleForm s (s.h b) true false
  check (Handle.level (s.h a) = 3) { cls := .handleForm }
  check (Handle.bytes (s.h a) = Handle.bytes (s.h b)) { cls := .xferShape }
  handleAligned (s.h a)
  handleAligned (s.h b)
  let bs ← barriers s c w
  .ok (s.newOp 6 (.wr (ctlPaths w) (ctlOgrp w)) (s.h a) (s.h b) bs (Handle.count (s.h a)) (remoteOf s e))

/-- R207. -/
def rvatOp (a b : HReg) (c : GReg) (d : Pair) (s : State) : Act Op := do
  regError s [.h a, .h b]
  let w := s.g (pairLo d)
  ctlCheck w useWr c
  let e ← pkgWord s (s.g (pairHi d))
  handleForm s (s.h a) false true
  handleForm s (s.h b) false true
  check (Handle.level (s.h a) = 3 ∧ Handle.level (s.h b) ≠ 3) { cls := .handleForm }
  check (Handle.fmt (s.h a) = Handle.fmt (s.h b) ∧ (Handle.format (s.h a) = .fp32 ∨ Handle.format (s.h a) = .bf16)) { cls := .tagCheck }
  check ([s.h a, s.h b].all (fun h => rowBytes h == 128 && Handle.ext h 1 == 1 && Handle.ext h 2 == 1 && Handle.ext h 3 == 1) = true)
    { cls := .xferShape }
  check (Handle.base (s.h a) % 128 = 0) { cls := .misalign, addr := Handle.base (s.h a) }
  handleAligned (s.h b)
  let bs ← barriers s c w
  .ok (s.newOp 10 (.rvat (ctlPaths w) (ctlOgrp w)) (s.h a) (s.h b) bs (Handle.count (s.h a)) (remoteOf s e))

/-- R201, R202. -/
def execDmaRd (k : Tok) (a b : HReg) (c : GReg) (d : Pair) (s : State) : Host.Outcome State Fault Refusal :=
  transfer s k [c, pairLo d, pairHi d] (rdOp a b c d)

/-- R201, R202. -/
def execDmaWr (k : Tok) (a b : HReg) (c : GReg) (d : Pair) (s : State) : Host.Outcome State Fault Refusal :=
  transfer s k [c, pairLo d, pairHi d] (wrOp a b c d)

/-- R207. -/
def execRvat (k : Tok) (a b : HReg) (c : GReg) (d : Pair) (s : State) : Host.Outcome State Fault Refusal :=
  transfer s k [c, pairLo d, pairHi d] (rvatOp a b c d)

/-! ### Placement loads and stores (R208, R209, R336) -/

/-- The descriptor's reserved values (R208). -/
def descCheck (x : Word) (zero : Bool) : Act Unit :=
  check (fld 21 11 x = 0 ∧ fld 12 3 x ≠ 7 ∧ fld 15 3 x ≠ 7 ∧ fld 18 3 x ≠ 7 ∧ (zero = true → fld 12 9 x = 0)) { cls := .xferCtl }

/-- The elements of a placement operation: those of hd, or for st.place those of the shard that it writes (R193, R331). -/
def State.placeTotal (s : State) (isLoad : Bool) (h : Handle) (x : Word) : Nat :=
  let w := ((s.ctx? s.tile.task.cnum).map fun c => (Rec.ofBits (c.recAt (fld 0 12 x).toNat)).width).getD 0
  if isLoad = true ∨ w = 0 then Handle.count h else (Handle.bytes h + w - 1) / w

/-- ld.place and st.place: the local handle is a scratch handle with PLACE.SEL = 0. -/
def placeOp (isLoad : Bool) (h : HReg) (c : GReg) (d : Pair) (s : State) : Act Op := do
  regError s [.h h]
  let w := s.g (pairLo d)
  let x := s.g (pairHi d)
  ctlCheck w (if isLoad then useCopy else useStPlace) c
  descCheck x (!isLoad)
  handleForm s (s.h h) false true
  check (Handle.level (s.h h) ≠ 3) { cls := .handleForm }
  handleAligned (s.h h)
  let bs ← barriers s c w
  .ok (s.newOp (if isLoad then 11 else 12) (if isLoad then .ldPlace x else .stPlace x)
    (if isLoad then s.h h else 0) (if isLoad then 0 else s.h h) bs (s.placeTotal isLoad (s.h h) x) none)

/-- R209, R336, R337. -/
def execLdPlace (k : Tok) (a : HReg) (c : GReg) (d : Pair) (s : State) : Host.Outcome State Fault Refusal :=
  transfer s k [c, pairLo d, pairHi d] (placeOp true a c d)

/-- R209, R336, R338. -/
def execStPlace (k : Tok) (b : HReg) (c : GReg) (d : Pair) (s : State) : Host.Outcome State Fault Refusal :=
  transfer s k [c, pairLo d, pairHi d] (placeOp false b c d)

/-! ### st.rel, ld.acq, rat (R203 to R206) -/

/-- A pod address (R187): package number and package virtual address. -/
def podAddr (lo hi : Word) : Nat × Nat := ((fld 12 12 hi).toNat, ((fld 0 12 hi : BitVec 12) ++ lo).toNat)

/-- LOCAL of the word control. -/
def wcLocal (w : Word) : Bool := fld 4 1 w == 1
/-- OFLAG of the word control. -/
def wcFlag (w : Word) : Bool := fld 3 1 w == 1

/-- The word control's checks, but for the package that OFLAG needs (R203). -/
def wcCheck (w : Word) (rel : Bool) (x : BitVec 3) : Act Unit :=
  check (fld 7 25 w = 0 ∧ fld 5 2 w ≠ 3 ∧ (rel = false → fld 0 4 w = 0) ∧
    (wcFlag w = true → x = 4 ∧ fld 0 3 w ≠ 0 ∧ wcLocal w = false)) { cls := .xferCtl }

/-- Where the word of st.rel or ld.acq lies: a memory key here, or an address in another package (R203). -/
def wordAt (s : State) (g : Pair) (w : Word) (acc : Nat) : Act (Nat ⊕ (PkgMap × Nat)) :=
  if wcLocal w then do
    let k ← scalarAt s (pairLo g) (s.g (pairLo g)) 4 acc
    .ok (.inl k)
  else do
    let hi := s.g (pairHi g)
    check (fld 24 8 hi = 0) { cls := .xferCtl }
    let (l, va) := podAddr (s.g (pairLo g)) hi
    let e ← pkgAt s l
    check (wcFlag w = false ∨ e.p ≠ s.self) { cls := .xferCtl }
    check (va % 4 = 0) { cls := .misalign, access := acc, addr := va }
    if e.p = s.self then do
      let k ← xlateAt s s.tile.task.cnum va acc
      check (acc = 2 ∨ s.poisoned k 4 = false) { cls := .memError, access := acc, addr := va }
      .ok (.inl k)
    else .ok (.inr (e, va))

/-- The registers that st.rel and ld.acq read: with LOCAL = 1 not the pair's second. -/
def wordRegs (s : State) (g : Pair) (c : GReg) : List GReg :=
  if wcLocal (s.g c) then [c, pairLo g] else [c, pairLo g, pairHi g]

/-- The first broken remote write of the stream with the turn that has not been reported: an operation's, or an st.rel's (R202, R428). -/
def State.brokenOwn (s : State) (exempt : Op → Bool) : Option Trap :=
  match s.core.relBad with
  | some t => some t
  | none =>
    match (s.tile.ops.filter fun o => o.core == s.sel && o.broken && !o.reported && !exempt o).findSome? (·.fault) with
    | some t => some t
    | none => s.core.late.find? fun t => t.async && t.access == 2 && t.op.isNone

/-- The report of a discarded release: ORD.BROKEN in place of the broken write's own fault; of a rat it names no engine (R428, R431). -/
def ordBroken (t : Trap) (precise : Bool) : Trap :=
  { t with cls := .ordBroken, precise := precise, async := true, access := 2, ecode := 0
           engine := if (t.op.map (·.opc)) = some 9 then 0 else t.engine }

/-- A fault reported under another class: in the slots that it poisoned, and as the cause of the ERR that it set. -/
def State.retrap (s : State) (t b : Trap) : State :=
  let q : Queue → Queue := fun q => { q with slots := q.slots.map fun x => match x with
    | .poisoned o u => .poisoned o (if u = t then b else u)
    | .pending o => .pending o
    | .filled tk a => .filled tk a }
  { s.setTile { s.tile with q := s.tile.q.map q } with errs := s.errs.map fun e => if e.2 = t then (e.1, b) else e }

/-- A broken write is reported by ORD.BROKEN at the stream's next report point: its operation's fault or its waiting fault becomes that
trap. -/
def State.breakOwn (s : State) (t : Trap) : State :=
  let b := ordBroken t false
  match t.op with
  | some r => (s.setTile { s.tile with ops := s.tile.ops.map fun o =>
      if o.core = r.core ∧ o.seq = r.seq then { o with fault := some b } else o }).retrap t b
  | none => s.setCore { s.core with late := s.core.late.erase t ++ [b] }

/-- R203, R204: at .pod it first waits for the writes it covers (R123, but for those that an ordered flag exempts, R124), and is discarded
where one of them is broken (R428); an ordered flag waits for its route (R124). -/
def execStRel (k : Tok) (a : GReg) (g : Pair) (c : GReg) (x : BitVec 3) (s : State) : Host.Outcome State Fault Refusal :=
  let w := s.g c
  let grp := (fld 0 3 w).toNat
  let target := (podAddr (s.g (pairLo g)) (s.g (pairHi g))).1
  let pkg := (((s.ctx? s.tile.task.cnum).bind fun y => y.pkgOf target).map (·.p)).getD 0
  let exempt : Sent → Bool := fun u => wcFlag w && u.tid == s.tile.task.id && u.core == s.sel && u.pkt.dst == pkg &&
    u.pkt.ogrp.toNat == grp
  let exemptOp : Op → Bool := fun o => wcFlag w && (o.remote.map (·.p)) == some pkg && (match o.kind with
    | .wr _ q => q == grp
    | .rvat _ q => q == grp
    | _ => false)
  let ready := (wcCheck w true x >>= fun _ => wordAt s g w 2).toOption
  if x = 4 ∧ s.podCovered exempt exemptOp = false ∧ ready.isSome = true then
    finish s (.ok (s.relWait (if wcFlag w then some (pkg, grp) else none)))
  else
    priv s k s.token (.ok ()) (a :: wordRegs s g c) [] [] fun t => do
      wcCheck w true x
      let at_ ← wordAt t g w 2
      settled t
      match if x = 4 then t.brokenOwn exemptOp else none with
      | some b => .ok (t.relDone.breakOwn b)
      | none =>
        match at_ with
        | .inl key =>
          let u := if wcLocal w then t else t.monitor t.tile.task.cnum (podAddr (t.g (pairLo g)) (t.g (pairHi g))).2 4 true |>.yields key 4
          .ok ((u.relDone.storeNat key 4 (t.g a).toNat).plain key 4)
        | .inr (e, va) =>
          if wcFlag w then do
            await (t.flagOk t.sel e grp = true) .other
            .ok (t.relDone.sendFlag t.sel e grp va (t.g a))
          else
            await (t.countsFull t.sel e grp (t.pathOf e.p) = true → t.flagOk t.sel e grp = true) .other
            let p := { t.header t.sel e 0 false with len := 4, addr := BitVec.ofNat 44 va, data := leBytes 4 (t.g a).toNat }
            .ok (t.relDone.sendData t.sel e .rel grp (t.pathOf e.p) 0 p)

/-- An st.rel of the stream to a word of another package has not been acknowledged. -/
def State.relPending (s : State) (e : PkgMap) (va : Nat) : Bool :=
  s.unacked.any fun u => u.own == .rel && u.tid == s.tile.task.id && u.core == s.sel && u.pkt.dst == e.p && u.pkt.addr.toNat == va

/-- R203, R205: a word of another package is requested, after the stream's own earlier writes of it have been applied (R107); when it has
come, the ld.acq takes and fills its tokens and retires. -/
def execLdAcq (k : Tok) (a : GReg) (g : Pair) (c : GReg) (x : BitVec 3) (s : State) : Host.Outcome State Fault Refusal :=
  let w := s.g c
  let act : Act (Nat ⊕ (PkgMap × Nat)) := do
    let _ ← tokens s k s.token
    hazards s (wordRegs s g c) [] [a]
    wcCheck w false x
    wordAt s g w 1
  match act with
  | .error h => finish s (.error h)
  | .ok (.inl key) =>
    priv s k s.token (.ok ()) (wordRegs s g c) [] [a] fun t =>
      let u := if wcLocal w then t else t.monitor t.tile.task.cnum (podAddr (t.g (pairLo g)) (t.g (pairHi g))).2 4 false |>.yields key 4
      .ok (u.putG a (BitVec.ofNat 32 (t.readNat key 4)))
  | .ok (.inr (e, va)) =>
    finish s (do
      await (s.relPending e va = false) .other
      let p := { s.header s.sel e 1 false with addr := BitVec.ofNat 44 va, len := 4, path := BitVec.ofNat 2 (s.pathOf e.p) }
      .ok ((s.setCore { s.core with hold := some (.packet s.pktN a k), wait := .run }).sendRaw s.sel .acq false 0 p))

/-- The operation of a rat (R206). -/
def ratOp (code : Nat) (a : GReg) (g : Pair) (c : GReg) (s : State) : Act Op := do
  let hi := s.g (pairHi g)
  check (fld 24 8 hi = 0) { cls := .xferCtl }
  let (l, va) := podAddr (s.g (pairLo g)) hi
  let e ← pkgAt s l
  check (va % 4 = 0) { cls := .misalign, access := 4, addr := va }
  .ok (s.newOp 9 (.rat code l va (s.g c) (s.g a) a) 0 0 (none, none) 1 (remoteOf s e))

/-- A rat: gd is interlocked until the reply; a cas reads gd as its compare value. -/
def rat (code : Nat) (k : Tok) (a : GReg) (g : Pair) (c : GReg) (s : State) : Host.Outcome State Fault Refusal :=
  priv s k (.pending (.dma s.sel s.core.seq)) (.ok ()) (if code = 7 then [pairLo g, pairHi g, c, a] else [pairLo g, pairHi g, c]) []
    [a] fun t => do
      let o ← ratOp code a g c t
      bteEntry t
      let u := t.accept o
      .ok (if a = 0 then u else u.setCore { u.core with pend := (a, .op o.seq o.pc) :: u.core.pend.filter fun p => p.1 ≠ a })

/-- R206. -/
def execRatAdd (k : Tok) (a : GReg) (g : Pair) (c : GReg) (s : State) := rat 0 k a g c s
/-- R206. -/
def execRatMin (k : Tok) (a : GReg) (g : Pair) (c : GReg) (s : State) := rat 1 k a g c s
/-- R206. -/
def execRatMax (k : Tok) (a : GReg) (g : Pair) (c : GReg) (s : State) := rat 2 k a g c s
/-- R206. -/
def execRatAnd (k : Tok) (a : GReg) (g : Pair) (c : GReg) (s : State) := rat 3 k a g c s
/-- R206. -/
def execRatOr (k : Tok) (a : GReg) (g : Pair) (c : GReg) (s : State) := rat 4 k a g c s
/-- R206. -/
def execRatXor (k : Tok) (a : GReg) (g : Pair) (c : GReg) (s : State) := rat 5 k a g c s
/-- R206. -/
def execRatSwap (k : Tok) (a : GReg) (g : Pair) (c : GReg) (s : State) := rat 6 k a g c s
/-- R206. -/
def execRatCas (k : Tok) (a : GReg) (g : Pair) (c : GReg) (s : State) := rat 7 k a g c s

/-! ### Progress (R193, R210) -/

/-- The progress record as a number of 16 bytes (R193). -/
def Op.record (o : Op) : Nat :=
  o.seq.toNat + o.opc * 2 ^ 16 + (if o.fault.isSome then 3 else if o.running then 2 else 1) * 2 ^ 20 + o.done % 2 ^ 32 * 2 ^ 32 +
  (match o.fault.bind (·.op) with
   | some r => if o.fault.isSome then r.felem % 2 ^ 32 else 2 ^ 32 - 1
   | none => 2 ^ 32 - 1) * 2 ^ 64 + o.total % 2 ^ 32 * 2 ^ 96

/-- The record of a SEQ without an outstanding operation (R210). -/
def noRecord (q : Nat) : Nat := q + (2 ^ 32 - 1) * 2 ^ 64

/-- R210: the operations outstanding and the last SEQ accepted. -/
def execDmaProg (k : Tok) (a : GReg) (s : State) : Host.Outcome State Fault Refusal :=
  priv s k s.token (.ok ()) [] [] [a] fun t =>
    let n := (t.tile.ops.filter fun o => o.core == t.sel).length
    .ok (t.putG a (BitVec.ofNat 32 (n + (t.core.seq - 1).toNat * 2 ^ 16)))

/-- R210: the progress record of a SEQ, written to tile scratch; gd receives its low word. -/
def execDmaProgRec (k : Tok) (a b c : GReg) (s : State) : Host.Outcome State Fault Refusal :=
  priv s k s.token (.ok ()) [b, c] [] [a] fun t => do
    let p := (t.g c).toNat
    check (p % 16 = 0) { cls := .misalign, access := 2, addr := p }
    check (p < 2 ^ 21) { cls := .scratchRange, access := 2, addr := p }
    let key ← scratchAt t p 16 2
    let q : BitVec 16 := fld 0 16 (t.g b)
    let r := match t.tile.op? t.sel q with
      | some o => o.record
      | none => noRecord q.toNat
    .ok ((t.storeNat key 16 r).putG a (BitVec.ofNat 32 r))

end Sys2Proof.Machine
end

