-- ==== Sys2Proof/Machine/Cop.lean ====
section
/-! DEFINITION. The cop instruction as it issues (R144, R184, R265 to R270): request blocks, argument checks, reply modes. What each
function then does is in the files of its engine; COP_REPLY is in CopReply.lean. -/

namespace Sys2Proof.Machine

/-- The cycles from a cop's issue to the step in which its engine performs the function: the spec gives none (log 8). -/
def copDelay : Nat := 8

/-- COP.ARG (R265). -/
def copArg (p : Prop) [Decidable p] : Act Unit := check p { cls := .copArg }

/-- What the checks at issue leave for the request: barrier slots and the episode. -/
structure CopArgs where
  dbar : Option Nat := none
  sbar : Option Nat := none
  ep : Option EpKey := none
  deriving DecidableEq, Repr

/-- The request block of n bytes at the address in ga, read once, at the cop's issue (R265). -/
def blockAt (s : State) (a : GReg) (n : Nat) : Act (List Byte) :=
  if n = 0 then .ok [] else if s.core.latch ≠ [] then .ok s.core.latchB else do
  let k ← accessAt s a (s.g a) 16 n 1
  .ok (Mem.readRange s.mem k n)

/-- The stream waits at a cop after its issue, with the operands and the block that it has read (R411). -/
def State.parkCop (s : State) (a b : GReg) (bs : List Byte) : State :=
  let t := s.parkIssued [a, b] .other
  t.setCore { t.core with latchB := bs }

/-- A little-endian field of a block: n bytes from byte lo. -/
def blockNat (b : List Byte) (lo n : Nat) : Nat := leNat ((b.drop lo).take n)

/-- Bytes lo to hi - 1 of a block are zero. -/
def blockZero (b : List Byte) (lo hi : Nat) : Bool := blockNat b lo (hi - lo) == 0

/-- A barrier slot address in ga or a block: 0 is none (R268). -/
def copBar (s : State) (a : Nat) : Act (Option Nat) :=
  if a = 0 then .ok none else do
  let k ← slotLive s a
  .ok (some k)

/-- The trap of a cop function (R267, R283, R416). -/
def copTrap (r : Req) (cls : TrapClass) (acc addr status : Nat) : Trap :=
  { cls := cls, precise := r.mode == 1, async := true, access := acc, addr := addr, engine := 5, fn7 := r.fn7, status := status
    pc := if r.precise then some r.pc else none }

/-- The request of the core with the turn. -/
def State.newReq (s : State) (fn7 mode : Nat) (d : GReg) (ga gb : Word) (block : List Byte) (x : CopArgs) : Req where
  n := s.reqN
  tid := s.tile.task.id
  tile := s.tile.ptile
  core := s.sel
  cnum := s.tile.task.cnum
  fn7 := fn7
  mode := mode
  gd := d
  pc := s.core.pc
  precise := s.core.precise
  ga := ga
  gb := gb
  block := block
  dbar := x.dbar
  sbar := x.sbar
  ep := x.ep
  mark := s.pktN

/-- The request is sent; in Wait mode the stream holds, in Async mode gd is interlocked, under MODE.PRECISE every mode holds (R144,
R408). -/
def State.sendReq (s : State) (r : Req) : State :=
  let t := ({ s with reqs := s.reqs ++ [r], reqN := s.reqN + 1 } : State).after copDelay .copReply (.num r.n)
  if r.mode = 1 then t.setCore { t.core with hold := some (.reply r.n), wait := .run } else
  let t := t.retire
  let c := t.core
  let c := if r.mode = 2 ∧ r.gd ≠ 0 then { c with pend := (r.gd, .reply r.n) :: c.pend.filter fun p => p.1 ≠ r.gd } else c
  t.setCore (if r.precise then { c with hold := some (.cop r.n r.pc) } else c)

/-- Room among the stream's 16 request entries (R184). -/
def State.copEntry (s : State) (m : BitVec 2) : Bool :=
  m == 1 || decide ((s.reqs.filter fun r => r.tid == s.tile.task.id && r.core == s.sel && r.mode != 1).length < 16)

/-- A cop: its interlocks at the first try, request block, the function's checks; then it waits after its issue, where it must, or its
request is sent (R184, R411). -/
def cop (fn7 blk : Nat) (chk : State → Word → Word → List Byte → Act CopArgs) (d a b : GReg) (m : BitVec 2) (s : State) :
    Host.Outcome State Fault Refusal :=
  finish s (do
    hazardsIssued s [a, b] [d]
    let bs ← blockAt s a blk
    let x ← chk s (s.opd a) (s.opd b) bs
    .ok (if s.copEntry m then s.sendReq (s.newReq fn7 m.toNat d (s.opd a) (s.opd b) bs x) else s.parkCop a b bs))

/-- A function whose arguments need no barrier. -/
def plainCop (fn7 blk : Nat) (ok : Word → Word → List Byte → Bool) (d a b : GReg) (m : BitVec 2) (s : State) :
    Host.Outcome State Fault Refusal :=
  cop fn7 blk (fun _ x y bs => do copArg (ok x y bs = true); .ok {}) d a b m s

/-- A function with a completion barrier in ga. -/
def barCop (fn7 : Nat) (ok : Word → Bool) (d a b : GReg) (m : BitVec 2) (s : State) : Host.Outcome State Fault Refusal :=
  cop fn7 0 (fun t x y _ => do
    copArg (ok y = true)
    let k ← copBar t x.toNat
    .ok { dbar := k }) d a b m s

/-- A function with a destination of n bytes in scratch, at the address in register r. -/
def destCop (fn7 al n : Nat) (ok : Word → Word → Bool) (d a b : GReg) (m : BitVec 2) (s : State) : Host.Outcome State Fault Refusal :=
  cop fn7 0 (fun t x y _ => do
    copArg (ok x y = true)
    let _ ← accessAt t a x al n 2
    .ok {}) d a b m s

/-! ### What an engine does with a request -/

/-- How far a function has come: its STATUS and DATA; a trap at the stream; nothing yet, and when it is looked at again; or it is under
way and another step ends it. -/
inductive CopOut where
  | done (status data : Nat)
  | word (w : Word)
  | trap (t : Trap)
  | again (n : Nat)
  | running
  deriving DecidableEq, Repr

/-- A function's effect. -/
abbrev CopFn := Req → State → State × CopOut

/-- The status codes of R266. -/
def stBusy : Nat := 1
/-- INVALID. -/
def stInvalid : Nat := 2
/-- DENIED. -/
def stDenied : Nat := 3
/-- NOSPACE. -/
def stNospace : Nat := 4
/-- NOTFOUND. -/
def stNotfound : Nat := 5
/-- STATE. -/
def stState : Nat := 6
/-- FAULT. -/
def stFault : Nat := 7
/-- SHAPE. -/
def stShape : Nat := 8
/-- MEMBERLOST. -/
def stLost : Nat := 9
/-- MAPRULE. -/
def stMaprule : Nat := 10
/-- ABORTED. -/
def stAborted : Nat := 11
/-- DEPTH. -/
def stDepth : Nat := 12

/-- A request changed. -/
def State.mapReq (s : State) (n : Nat) (f : Req → Req) : State := { s with reqs := s.reqs.map fun r => if r.n = n then f r else r }

/-- The tile on which a task is resident. -/
def State.taskTile (s : State) (tid : Nat) : Option Tile := s.tiles.find? fun t => t.resident && t.task.id == tid

/-- The scratch destination of a request: written for the task where it is resident; none where the range has been revoked (R270). -/
def State.putScratch (s : State) (r : Req) (a : Nat) (bs : List Byte) : Option State :=
  match s.taskTile r.tid with
  | none => some s
  | some t => (scratchKeyOf s t a bs.length).map fun k => s.store k bs

/-- A request's task is saved: its scratch is written when it is restored. -/
def State.taskSaved (s : State) (r : Req) : Bool :=
  (((s.ctx? r.cnum).map (·.saved)).getD []).any fun i => i.tile.task.id == r.tid

/-- A function that writes scratch: it waits for a saved task, writes nothing for a killed one, and ends with FAULT where the range has
been revoked (R269, R270). -/
def copWrites (s : State) (r : Req) (a : Nat) (bs : List Byte) (out : CopOut) : State × CopOut :=
  if s.taskSaved r then (s, .again 64) else
  match s.putScratch r a bs with
  | none => (s, .done stFault 0)
  | some t => (t, out)

/-- The reply word of a STATUS and DATA (R266). -/
def replyWord (status data : Nat) : Word := BitVec.ofNat 32 (status + data * 256)

/-- A soft error met by a device function: MEM.ERROR to the context that holds the bytes (R444). The access, of n bytes, has translated, and is
counted (R364). -/
def State.deviceError (s : State) (cls : TrapClass) (cnum va : Nat) (n : Nat := 0) (w : Bool := false) : State :=
  if cls = .memError then (s.struckAt cls cnum va n true w).notify { cls := .memError, access := 1, addr := va } cnum else s

/-- A function ends with FAULT for a failed access. -/
def copFault (s : State) (cnum : Nat) (e : TrapClass × Nat) : State × CopOut := (s.deviceError e.1 cnum e.2 1, .done stFault 0)

end Sys2Proof.Machine
end

