-- ==== Sys2Proof/Machine/EngineOps.lean ====
section
/-! DEFINITION. What a block-transfer engine does to memory for one destination element (R87, R88, R198 to R200, R207), with the tile
of the operation in focus. -/

namespace Sys2Proof.Machine

/-- A fault met by an engine: class, access kind, address. -/
structure EFault where
  cls : TrapClass
  acc : Nat
  addr : Nat
  deriving DecidableEq, Repr

/-- The limit of a tile's scratch for an operation: R37's of the task resident there, or 2 MiB (R197). -/
def State.tileLimit (s : State) (u : Nat) : Nat :=
  match s.findTile (BitVec.ofNat 8 u) with
  | some t => if t.resident then t.task.limit else 2 ^ 21
  | none => 2 ^ 21

/-- The key of n bytes at an address of a handle, in a given unit of its level (checks 4 to 6 of R88). -/
def sideKey (s : State) (h : Handle) (u : Nat) (a : Int) (n acc : Nat) : Except EFault Nat :=
  let o := a.toNat
  let ro := decide (acc ≠ 1) && Handle.ro h
  let c := s.tile.task.cnum
  let mask (l : Ctx → List (Nat × Nat)) : Nat := ((s.ctx? c).map fun x => bankMask (l x) u).getD 0
  let ok : Bool := decide (0 ≤ a) &&
    (match Handle.level h with
     | 0 => decide (o + n ≤ s.tileLimit u)
     | 1 => decide (o + n ≤ 2 ^ 23) && banksHeld (mask (·.qbanks)) (o / 2 ^ 19) ((o + n - 1) / 2 ^ 19)
     | 2 => decide (o + n ≤ 2 ^ 25) && banksHeld (mask (·.dbanks)) (o / 2 ^ 20) ((o + n - 1) / 2 ^ 20)
     | _ => true)
  if Handle.level h ≠ 3 ∧ ok = false then .error ⟨.scratchRange, acc, addrNat a⟩ else
  if ro then .error ⟨.handlePerm, acc, addrNat a⟩ else
  match Handle.level h with
  | 0 => .ok (tileKey u + o)
  | 1 => .ok (quadKey u + o)
  | 2 => .ok (dieKey u + o)
  | _ =>
    if a < 0 then .error ⟨.xlateNone, acc, addrNat a⟩ else
    match s.xlate c o acc with
    | .ok k => .ok k
    | .error e => .error ⟨e, acc, addrNat a⟩

/-- The unit of a handle as its PLACE names it, for the tile in focus. -/
def State.unitOfHandle (s : State) (h : Handle) : Nat :=
  (((s.ctx? s.tile.task.cnum).bind fun c => placeUnit c s.tile.ptile.toNat (Handle.level h) (Handle.sel h) (Handle.unit h))).getD
    (ownUnit s.tile.ptile.toNat (Handle.level h))

/-- One source byte at an integer address of a handle. -/
def readSide (s : State) (h : Handle) (u : Nat) (a : Int) : Except EFault Byte :=
  match sideKey s h u a 1 1 with
  | .error e => .error e
  | .ok k => if s.poisoned k 1 then .error ⟨.memError, 1, addrNat a⟩ else .ok (Mem.read s.mem k)

/-- The bytes at a list of addresses of a handle. -/
def readSides (s : State) (h : Handle) (u : Nat) : List Int → Except EFault (List Byte)
  | [] => .ok []
  | a :: as => do
    let b ← readSide s h u a
    let bs ← readSides s h u as
    .ok (b :: bs)

/-- The lines of the bytes at a list of addresses of a handle to memory, given up (R101). -/
def State.yieldAt (s : State) (c : Nat) (h : Handle) (as : List Int) : State :=
  if Handle.level h ≠ 3 then s else as.foldl (fun t a => match t.xlate c a.toNat 1 with
    | .error _ => t
    | .ok k => t.yields k 1) s

/-- The same for the bytes of a handle. -/
def State.yieldHandle (s : State) (c : Nat) (h : Handle) : State :=
  s.yieldAt c h ((List.range (Handle.bytes h)).map (Handle.byteAddr h))

/-- Bytes written one by one at addresses of a handle in a unit. -/
def writeSides (s : State) (h : Handle) (u : Nat) : List (Int × Byte) → Except EFault State
  | [] => .ok s
  | (a, b) :: as => do
    let k ← sideKey s h u a 1 2
    writeSides ((s.yields k 1).store k [b]) h u as

/-- Whether a destination address of a copy is also one of its source bytes (R198: the byte is then undefined). -/
def overlaps (s : State) (o : Op) (us ud : Nat) (a : Int) : Bool :=
  Handle.level o.hs == Handle.level o.hd &&
  (match sideKey s o.hd ud a 1 2 with
   | .error _ => false
   | .ok k => (List.range (Handle.bytes o.hs)).any fun p => (sideKey s o.hs us (Handle.byteAddr o.hs p) 1 1).toOption == some k)

/-- Bytes with a free value in each place that overlaps the source. -/
def freeOverlap (s : State) (o : Op) (us ud : Nat) : List (Int × Byte) → List (Int × Byte) × State
  | [] => ([], s)
  | (a, b) :: as =>
    if overlaps s o us ud a then
      let (r, t) := freeOverlap (s.freeVal 8).2 o us ud as
      ((a, BitVec.ofNat 8 (s.freeVal 8).1) :: r, t)
    else
      let (r, t) := freeOverlap s o us ud as
      ((a, b) :: r, t)

/-- The bytes written in each of several units; in each, those that overlap the source are free (R198, R199). -/
def writeUnits (s : State) (o : Op) (us : Nat) (w : List (Int × Byte)) : List Nat → Except EFault State
  | [] => .ok s
  | u :: r => do
    let (ws, t) := freeOverlap s o us u w
    let t ← writeSides t o.hd u ws
    writeUnits t o us w r

/-- Destination element e of a copy (R198): its bytes from the same linear positions of the source. -/
def moveCopy (s : State) (o : Op) (units : List Nat) (e : Nat) : Except EFault State := do
  let w := Handle.width o.hd
  let us := s.unitOfHandle o.hs
  let ps := (List.range w).map fun i => e * w + i
  let bs ← readSides s o.hs us (ps.map (Handle.byteAddr o.hs))
  writeUnits (s.yieldAt s.tile.task.cnum o.hs (ps.map (Handle.byteAddr o.hs))) o us ((ps.map (Handle.byteAddr o.hd)).zip bs) units

/-- Address of byte i of table row x (R200). -/
def rowAddr (h : Handle) (x i : Nat) : Int := Handle.addr h (i / Handle.width h) x 0 0 + (i % Handle.width h : Nat)

/-- The index list's entry k. -/
def State.index (s : State) (list k : Nat) : Nat := s.readNat (list + 4 * k) 4

/-- Row k of a gather (R200). -/
def moveGather (s : State) (o : Op) (list : Nat) (zoob : Bool) (k : Nat) : Except EFault State := do
  let l := rowBytes o.hs
  let x := s.index list k
  let is := List.range l
  if s.poisoned (list + 4 * k) 4 then .error ⟨.memError, 1, 0⟩ else
  let bs ← (if x < Handle.ext o.hs 1 then readSides s o.hs (s.unitOfHandle o.hs) (is.map (rowAddr o.hs x))
            else if zoob then .ok (List.replicate l 0) else .error ⟨.xferIndex, 1, 0⟩)
  let t := s.yieldAt s.tile.task.cnum o.hs (if x < Handle.ext o.hs 1 then is.map (rowAddr o.hs x) else [])
  writeSides t o.hd (s.unitOfHandle o.hd) ((is.map fun i => Handle.byteAddr o.hd (k * l + i)).zip bs)

/-- Row k of a scatter (R200); a later row of the same index wins. -/
def moveScatter (s : State) (o : Op) (list k : Nat) : Except EFault State := do
  let l := rowBytes o.hd
  let x := s.index list k
  let is := List.range l
  if s.poisoned (list + 4 * k) 4 then .error ⟨.memError, 1, 0⟩ else
  if Handle.ext o.hd 1 ≤ x then .error ⟨.xferIndex, 2, 0⟩ else
  let bs ← readSides s o.hs (s.unitOfHandle o.hs) (is.map fun i => Handle.byteAddr o.hs (k * l + i))
  let t := s.yieldAt s.tile.task.cnum o.hs (is.map fun i => Handle.byteAddr o.hs (k * l + i))
  writeSides t o.hd (s.unitOfHandle o.hd) ((is.map (rowAddr o.hd x)).zip bs)

/-! ### Remote atomics in this package (R100, R102) -/

/-- A line of the remote atomic cache is owned for 4 µs from now; the line whose lease ends soonest is replaced (R100). -/
def State.racTouch (s : State) (k : Nat) : State :=
  let line := k / 128
  let l := s.rac.filter fun x => x.1 ≠ line
  let l := if 512 ≤ l.length then
      (match l.foldl (fun (m : Option (Nat × Nat)) x => match m with
          | none => some x
          | some y => if x.2 < y.2 then some x else some y) none with
        | some y => l.erase y
        | none => l)
    else l
  ({ s with rac := (line, s.now + 12000) :: l } : State).after 12000 .leaseEnd (.num line)

/-- One element of an atomic add in memory (R102, R207). -/
def State.atomicAdd (s : State) (f : Fmt) (k : Nat) (x : Nat) : State :=
  let n := f.width / 8
  (s.storeNat k n (fpRound f .rne 0 (FpNum.add false (fpVal f (s.readNat k n)) (fpVal f x)))).plain k n

/-- Element e of an rvat in this package (R207). -/
def moveRvat (s : State) (o : Op) (e : Nat) : Except EFault State := do
  let w := Handle.width o.hd
  let bs ← readSides s o.hs (s.unitOfHandle o.hs) ((List.range w).map fun (i : Nat) => Handle.elem o.hs e + Int.ofNat i)
  let k ← sideKey s o.hd 0 (Handle.elem o.hd e) w 4
  if s.poisoned k w then .error ⟨.memError, 4, addrNat (Handle.elem o.hd e)⟩ else
  let t := s.yieldAt s.tile.task.cnum o.hs ((List.range w).map fun (i : Nat) => Handle.elem o.hs e + Int.ofNat i)
  .ok ((t.racTouch k).atomicAdd (Handle.format o.hd) k (leNat bs))

/-- The units a copy writes: the destination's own, or each unit of a multicast (R199). -/
def State.copyUnits (s : State) (o : Op) : List Nat :=
  match o.kind with
  | .multicast first n => (List.range n).map fun i =>
      (((s.ctx? s.tile.task.cnum).bind fun c => c.unitOf (Handle.level o.hd) (first + i))).getD 0
  | _ => [s.unitOfHandle o.hd]

/-- The bytes that one destination element is credited with, in every copy. -/
def Op.elemBytes (o : Op) : Nat :=
  match o.kind with
  | .multicast _ n => n * Handle.width o.hd
  | .gather _ _ => rowBytes o.hs
  | .scatter _ => rowBytes o.hd
  | .stPlace _ => if o.total = 0 then 0 else Handle.bytes o.hs / o.total
  | .copy => Handle.width o.hd
  | .rd _ => Handle.width o.hd
  | .wr _ _ => Handle.width o.hd
  | .rvat _ _ => Handle.width o.hd
  | .ldPlace _ => Handle.width o.hd
  | .rat _ _ _ _ _ _ => 0

/-- The linear bytes of one element within one copy. -/
def Op.elemSpan (o : Op) : Nat :=
  match o.kind with
  | .multicast _ _ => Handle.width o.hd
  | _ => o.elemBytes

/-- Bytes read from the source, as the source barrier counts them (R95, R200). -/
def Op.srcBytes (o : Op) : Nat :=
  match o.kind with
  | .gather _ _ => o.total * (rowBytes o.hs + 4)
  | .scatter _ => o.total * (rowBytes o.hd + 4)
  | _ => Handle.bytes o.hs

/-- The chunks, of a destination of n linear bytes, whose last byte lies above a and at or below b (R94). -/
def chunksBetween (n a b : Nat) : BitVec 64 :=
  (List.range 64).foldl (fun m c =>
    let e := min ((c + 1) * 512) n
    if c * 512 < n ∧ a < e ∧ e ≤ b then m ||| (1#64 <<< c) else m) 0

/-- The chunks of the table that a scatter has written (R94, R200). -/
def State.scatterChunks (s : State) (o : Op) (list : Nat) : BitVec 64 :=
  (List.range o.total).foldl (fun m k =>
    let x := s.index list k
    (List.range (rowBytes o.hd)).foldl (fun m i =>
      let c := (x * rowBytes o.hd + i) / 512
      if c < 64 then m ||| (1#64 <<< c) else m) m) 0

/-- The chunk bits of a credit that takes an operation from element a to element b (R94). -/
def State.creditChunks (s : State) (o : Op) (a b : Nat) : BitVec 64 :=
  match o.kind with
  | .scatter list => if b = o.total then s.scatterChunks o list else 0
  | _ => chunksBetween (o.total * o.elemSpan) (a * o.elemSpan) (b * o.elemSpan)

/-! ### Records, credits, faults, completion (R94, R95, R193, R194) -/

/-- A change made to an operation of the tile in focus. -/
def State.mapOp (s : State) (o : Op) (f : Op → Op) : State := s.setTile (s.tile.mapOp o.core o.seq f)

/-- Slots that an owner reserved, poisoned with a fault (R47). -/
def poisonSlots (o : Owner) (t : Trap) (q : Queue) : Queue :=
  { q with slots := q.slots.map fun x => match x with
      | .pending p => if p = o then .poisoned p t else .pending p
      | .filled tk a => .filled tk a
      | .poisoned p u => .poisoned p u }

/-- What reports the fault of an operation: class, access, address, faulting element, and the ECODE it sets. -/
def Op.trap (o : Op) (tid : Nat) (cls : TrapClass) (acc addr elem ecode : Nat) : Trap :=
  let x : OpRef := { tid := tid, core := o.core, seq := o.seq, opc := o.opc, felem := elem, done := o.done }
  let t : Trap := { cls := cls, precise := false, async := true, access := acc, addr := addr
                    engine := if o.core = .load then 1 else 2, op := some x, pc := if o.precise then some o.pc else none }
  if ecode = 3 then { t with cls := .barError, access := 0, ecode := 3 } else t

/-- Whether a packet is one of an operation of the task in focus. -/
def Op.mine (o : Op) (tid : Nat) (u : Sent) : Bool := u.tid == tid && u.core == o.core && (match u.own with
  | .op q _ => q == o.seq
  | _ => false)

/-- Packets and kept answers that satisfy a condition are followed no further. -/
def State.dropSent (s : State) (mine : Sent → Bool) : State := { s with unacked := s.unacked.filter fun u => !mine u }

/-- An operation of the tile in focus faults: it stops, its barriers get ERR with an ECODE, its slots are poisoned, and under
MODE.PRECISE the fault is raised at the instruction (R194, R195, R408, R431). -/
def State.faultOp (s : State) (o : Op) (cls : TrapClass) (acc addr elem ecode : Nat) : State :=
  let t := o.trap s.tile.task.id cls acc addr elem ecode
  let u := (s.endAsk s.tile.task.cnum o.ask).dropSent fun v => o.mine s.tile.task.id v && v.data.isSome
  let u := u.mapOp o fun p => { p with fault := some t, running := false, ask := none, granted := false, free := none }
  let u := u.setTile { u.tile with q := u.tile.q.map (poisonSlots (.dma o.core o.seq) t) }
  let u := (u.engineErr o.dbar ecode t).engineErr o.sbar ecode t
  if o.precise then u.takeTrap (some o.core) { t with precise := true } else u.tryComplete

/-- The destination keys of elements a to b - 1. -/
def State.destKeys (s : State) (o : Op) (units : List Nat) (a b : Nat) : List Nat :=
  let l := o.elemSpan
  let ad (p : Nat) : Int := match o.kind with
    | .scatter list => rowAddr o.hd (s.index list (p / l)) (p % l)
    | _ => Handle.byteAddr o.hd p
  units.flatMap fun u => (List.range ((b - a) * l)).filterMap fun i => (sideKey s o.hd u (ad (a * l + i)) 1 2).toOption

/-- Poison is cleared where the elements written cover a whole unit (R444). -/
def State.cureOp (s : State) (o : Op) (units : List Nat) (a b : Nat) : State :=
  if s.poison.isEmpty then s else
  let ks := s.destKeys o units a b
  { s with poison := s.poison.filter fun u => !((List.range (errSize u)).all fun i => ks.contains (u + i)) }

/-- Monitors count the global side of one element of an operation (R364). -/
def State.watchElem (s : State) (o : Op) (e : Nat) : State :=
  let c := s.tile.task.cnum
  let side (t : State) (h : Handle) (a : Int) (n : Nat) (w : Bool) : State := if Handle.level h = 3 then t.monitor c a.toNat n w else t
  let l := o.elemSpan
  match o.kind with
  | .gather list _ =>
    let x := s.index list e
    side (if x < Handle.ext o.hs 1 then side s o.hs (rowAddr o.hs x 0) l false else s) o.hd (Handle.byteAddr o.hd (e * l)) l true
  | .scatter list =>
    side (side s o.hs (Handle.byteAddr o.hs (e * l)) l false) o.hd (rowAddr o.hd (s.index list e) 0) l true
  | _ => side (side s o.hs (Handle.elem o.hs e) l false) o.hd (Handle.elem o.hd e) l true

/-- One element of an operation within the package, counted by the monitors. -/
def moveElem (s : State) (o : Op) (units : List Nat) (e : Nat) : Except EFault State := do
  let t ← (match o.kind with
    | .gather list zoob => moveGather s o list zoob e
    | .scatter list => moveScatter s o list e
    | .rvat _ _ => moveRvat s o e
    | _ => moveCopy s o units e)
  .ok (t.watchElem o e)

/-- Elements from e on, at most n: the state after those that did not fault, the next element, and the fault. -/
def moveElems (f : State → Nat → Except EFault State) : Nat → Nat → State → State × Nat × Option EFault
  | 0, e, s => (s, e, none)
  | n + 1, e, s =>
    match f s e with
    | .error x => (s, e, some x)
    | .ok t => moveElems f n (e + 1) t

/-- The credit for elements a to b - 1 (R94). -/
def State.creditOp (s : State) (o : Op) (a b : Nat) : State :=
  if b ≤ a then s else s.engineBar o.dbar fun x => x.credit ((b - a) * o.elemBytes) (s.creditChunks o a b)

/-- The last byte is read and written: the source credit and the completion follow. -/
def State.opEnds (s : State) (o : Op) : State :=
  let t := if o.sbar.isSome ∧ o.srcDone = false then s.after 0 .sourceCredit (.op s.tile.ptile o.core o.seq) else s
  t.after 0 .dmaCompletion (.op s.tile.ptile o.core o.seq)

/-- An operation starts or restarts at its DONE (R194). -/
def State.restart (s : State) (o : Op) : State :=
  if o.done = o.total ∧ (o.total ≠ 0 ∨ o.isPlace = false) then s.opEnds o
  else s.after o.delay .engineCredit (.credit s.tile.ptile o.core o.seq (o.total - o.done))

/-- Free values in bytes. -/
def State.freeKeys (s : State) : List Nat → State
  | [] => s
  | k :: ks => ((s.freeVal 8).2.store k [BitVec.ofNat 8 (s.freeVal 8).1]).freeKeys ks

/-- The destination elements above the faulting one become undefined (R194). -/
def State.spoilDest (s : State) (o : Op) (units : List Nat) (e : Nat) : State := s.freeKeys (s.destKeys o units (e + 1) o.total)

/-- Whether a conversion or a running job is under way in some context. -/
def State.converting (s : State) : Bool := s.ctxs.any fun x => x.ptab.any fun y => (Rec.ofBits y.2).conv

/-- Plain writes of single bytes (R344). -/
def State.plainKeys (s : State) (ks : List Nat) : State := if s.converting then ks.foldl (fun t k => t.plain k 1) s else s

/-- The bytes that a plain write has written: what races with a conversion or a job is undefined (R344). -/
def State.plainRuns (s : State) (c : Nat) (rs : List (Nat × Nat)) : State :=
  if s.converting = false then s else
  rs.foldl (fun t r => match t.spans c 2 r.1 r.2 with
    | .error _ => t
    | .ok l => l.foldl (fun u p => u.plain p.1 p.2) t) s

/-- The keys of the first n linear bytes of a destination handle, for the tile in focus. -/
def State.destOf (s : State) (h : Handle) (n : Nat) : List Nat :=
  (List.range n).filterMap fun i => (sideKey s h (s.unitOfHandle h) (Handle.byteAddr h i) 1 2).toOption

/-- Elements of an operation within the package, with its credits; a fault follows them. -/
def State.runLocal (s : State) (o : Op) (n : Nat) : State :=
  let units := s.copyUnits o
  let (t, e, f) := moveElems (fun t e => moveElem t o units e) (min n (o.total - o.done)) o.done s
  let t := t.plainKeys (if t.converting then t.destKeys o units o.done e else [])
  let t := ((t.cureOp o units o.done e).creditOp o o.done e).mapOp o fun p => { p with done := e }
  let t := if f.isSome then t.spoilDest o units e else t
  match f with
  | some x => t.after 0 .engineFault (.fault s.tile.ptile o.core o.seq x.cls x.acc x.addr e)
  | none => if e = o.total then t.opEnds o else t

/-! ### rat in this package (R206) -/

/-- An atomic on a word of this package in a context's space: the old value. -/
def State.atomicWord (s : State) (c va code : Nat) (x cmp : Word) : Access (State × Word) :=
  match s.gatomic c va 4 with
  | .error e => .error e
  | .ok (t, k) =>
    let old := BitVec.ofNat 32 (t.readNat k 4)
    .ok (((t.racTouch k).storeNat k 4 (atomicOp code cmp x old).toNat).plain k 4, old)

/-- The reply of a rat: gd is written and the operation is complete (R206). -/
def State.ratReply (s : State) (o : Op) (gd : GReg) (old : Word) : State :=
  let c := s.tile.core o.core
  let mine := c.pend.any fun p => p.1 == gd && (match p.2 with
    | .op q _ => q == o.seq
    | _ => false)
  let t := if mine then s.setTile (s.tile.setCore o.core (c.wg gd old)) else s
  (t.mapOp o fun p => { p with done := o.total }).opEnds { o with done := o.total }

/-! ### Packets of an operation (R202) -/

/-- Consecutive addresses gathered into runs: address and bytes. -/
def runsOf (w : Nat) : List Int → List (Nat × Nat)
  | [] => []
  | a :: as =>
    match runsOf w as with
    | [] => [(addrNat a, w)]
    | (b, n) :: r => if b = addrNat a + w then (addrNat a, n + w) :: r else (addrNat a, w) :: (b, n) :: r

/-- The parts of a dma.rd or dma.wr: part k is linear positions 256k to 256k + 255, as first position and bytes (R202). -/
def Op.parts (o : Op) : List (Nat × Nat) :=
  let n := Handle.bytes (if o.opc = 5 then o.hs else o.hd)
  (List.range ((n + 255) / 256)).map fun k => (256 * k, min 256 (n - 256 * k))

/-- A packet that names n bytes from linear position p of a handle: one run from ADDR, or the runs that the strides give. -/
def packetAt (h : Handle) (p n : Nat) (x : Packet) : Packet :=
  let w := Handle.width h
  let rs := runsOf w ((List.range (n / w)).map fun i => Handle.elem h (p / w + i))
  let a := (rs.head?.map (·.1)).getD 0
  { x with addr := BitVec.ofNat 44 a, runs := if rs.length ≤ 1 ∧ a + n ≤ 2 ^ 44 then [] else rs }

/-- Whether a packet of an operation is under way. -/
def State.underWay (s : State) (o : Op) (i : Nat) : Bool :=
  s.unacked.any fun u => u.tid == s.tile.task.id && u.core == o.core && u.own == .op o.seq i

/-- Elements below which every part has been acknowledged or answered. -/
def Op.reached (o : Op) (ps : List (Nat × Nat)) : Nat :=
  (((List.range ps.length).filter fun i => !o.acked.contains i).head?.bind fun i => ps[i]?.map (·.1 / o.elemSpan)).getD o.total

/-- The chunks that a new part completes (R94, R202): every part of the chunk has now been acknowledged. -/
def Op.partChunks (o : Op) (ps : List (Nat × Nat)) (i : Nat) : BitVec 64 :=
  let touches (c : Nat) (p : Nat × Nat) : Bool := decide (p.1 < (c + 1) * 512 ∧ c * 512 < p.1 + p.2)
  match ps[i]? with
  | none => 0
  | some p => (List.range 64).foldl (fun m c =>
      if touches c p && ((List.range ps.length).all fun j => j == i || o.acked.contains j || !((ps[j]?.map (touches c)).getD false))
      then m ||| (1#64 <<< c) else m) 0

/-- One part of an operation has been acknowledged or has come (R202): its credit, DONE, and the end where it was the last. -/
def State.partDone (s : State) (o : Op) (i : Nat) : State :=
  if o.acked.contains i then s else
  let ps := o.parts
  let n := (ps[i]?.map (·.2)).getD 0
  let p := { o with acked := i :: o.acked }
  let t := s.engineBar o.dbar fun x => x.credit n (o.partChunks ps i)
  let t := t.mapOp o fun q => { q with acked := p.acked, done := p.reached ps }
  if p.reached ps = o.total then t.opEnds { p with done := o.total } else t

/-- The n source bytes from linear position p. -/
def State.sourceBytes (s : State) (o : Op) (p n : Nat) : Except EFault (List Byte) :=
  readSides s o.hs (s.unitOfHandle o.hs) ((List.range n).map fun i => Handle.byteAddr o.hs (p + i))

/-- The write packets of a dma.wr that have not been acknowledged, with their source bytes; one that needs a count-only flag first stays
until its route allows the flag (R124, R202). -/
def sendWr (o : Op) (e : PkgMap) (grp : Nat) (paths : List Nat) (s : State) : List (Nat × (Nat × Nat) × List Byte) → State
  | [] => s
  | (i, (a, n), bs) :: r =>
    let path := s.pick paths
    if s.countsFull o.core e grp path && !s.flagOk o.core e grp then
      s.after 64 .engineCredit (.credit s.tile.ptile o.core o.seq o.total) else
    let p := packetAt o.hd a n { s.header o.core e 0 false with len := BitVec.ofNat 9 n, data := bs }
    sendWr o e grp paths (s.sendData o.core e (.op o.seq i) grp path (a / o.elemSpan) p) r

/-- The read requests of a dma.rd that have not been answered (R202); LEN names the bytes asked for (DESIGN CHOICE, log 5). -/
def sendRd (o : Op) (e : PkgMap) (paths : List Nat) (s : State) : List (Nat × (Nat × Nat)) → State
  | [] => s
  | (i, (a, n)) :: r =>
    let p := packetAt o.hs a n { s.header o.core e 1 false with len := BitVec.ofNat 9 n, path := BitVec.ofNat 2 (s.pick paths) }
    sendRd o e paths (s.sendRaw o.core (.op o.seq i) false (a / o.elemSpan) p) r

/-- The bytes of a read answer written at the linear positions from p. -/
def State.landPart (s : State) (o : Op) (p : Nat) (bs : List Byte) : Except EFault State :=
  writeSides s o.hd (s.unitOfHandle o.hd) (((List.range bs.length).map fun i => Handle.byteAddr o.hd (p + i)).zip bs)

/-- The numbered parts of an operation. -/
def Op.numbered (o : Op) : List (Nat × (Nat × Nat)) := (List.range o.parts.length).zip o.parts

/-- The parts of an operation that are neither acknowledged nor under way. -/
def State.unsent (s : State) (o : Op) : List (Nat × (Nat × Nat)) := o.numbered.filter fun p => !(o.acked.contains p.1 || s.underWay o p.1)

/-- The source bytes of every part; the first fault, and its element. -/
def State.partBytes (s : State) (o : Op) : List (Nat × (Nat × Nat)) → Except (Nat × EFault) (List (Nat × (Nat × Nat) × List Byte))
  | [] => .ok []
  | (i, (a, n)) :: r =>
    match s.sourceBytes o a n with
    | .error x => .error (a / o.elemSpan, x)
    | .ok bs => match s.partBytes o r with
      | .error x => .error x
      | .ok l => .ok ((i, (a, n), bs) :: l)

/-- The checks that a remote write makes on its issuing side, all before its first packet leaves (R121): the source bytes of every part,
and RO of the destination handle. -/
def State.writeBytesOf (s : State) (o : Op) (acc : Nat) : Except (Nat × EFault) (List (Nat × (Nat × Nat) × List Byte)) :=
  match s.partBytes o (s.unsent o) with
  | .error x => .error x
  | .ok l => if Handle.ro o.hd ∧ o.total ≠ 0 then .error (0, ⟨.handlePerm, acc, addrNat (Handle.elem o.hd 0)⟩) else .ok l

/-- The paths of an operation's packets, remembered (R188, R385). -/
def State.opPaths (s : State) (o : Op) (e : PkgMap) (paths : Nat) : List Nat × State :=
  let l := s.pathSet e.p paths o.paths
  (l, s.mapOp o fun p => { p with paths := l })

/-- The answers of a dma.rd that have come land in the order of their parts, so that overlapping elements end as element order says (R87);
a fault of the destination ends the operation. -/
def landParts (c : CoreId) (q : BitVec 16) : Nat → State → State
  | 0, s => s
  | k + 1, s =>
    match s.tile.op? c q with
    | none => s
    | some o =>
      if o.fault.isSome then s else
      match o.numbered.find? fun p => !o.acked.contains p.1 with
      | none => s
      | some (i, (a, n)) =>
        match s.unacked.find? fun u => u.tid == s.tile.task.id && u.core == c && u.own == .op q i && u.data.isSome with
        | none => s
        | some u =>
          match s.landPart o a (u.data.getD []) with
          | .error x => s.after 0 .engineFault (.fault s.tile.ptile c q x.cls x.acc x.addr (a / o.elemSpan))
          | .ok t =>
            let t := { t with unacked := t.unacked.filter fun v => v.pkt.id ≠ u.pkt.id }
            let t := t.plainKeys (if t.converting then t.destKeys o [t.unitOfHandle o.hd] (a / o.elemSpan) ((a + n) / o.elemSpan) else [])
            landParts c q k ((t.cureOp o [t.unitOfHandle o.hd] (a / o.elemSpan) ((a + n) / o.elemSpan)).partDone o i)

/-- An operation whose target is another package: its packets go out (R202, R206, R207). -/
def State.runRemote (s : State) (o : Op) (e : PkgMap) : State :=
  let pt := s.tile.ptile
  match o.kind with
  | .wr paths grp =>
    (match s.writeBytesOf o 2 with
     | .error (a, x) => s.after 0 .engineFault (.fault pt o.core o.seq x.cls x.acc x.addr a)
     | .ok l =>
       let (ps, t) := s.opPaths o e paths
       let t := (sendWr o e grp ps t l).yieldHandle s.tile.task.cnum o.hs
       if o.sbar.isSome ∧ o.srcDone = false then t.after 0 .sourceCredit (.op pt o.core o.seq) else t)
  | .rvat paths grp =>
    if s.underWay o 0 then s else
    (match s.writeBytesOf o 4 with
     | .error (_, x) => s.after 0 .engineFault (.fault pt o.core o.seq x.cls x.acc x.addr 0)
     | .ok l =>
       let (ps, t) := s.opPaths o e paths
       let path := t.pick ps
       if t.countsFull o.core e grp path && !t.flagOk o.core e grp then t.after 64 .engineCredit (.credit pt o.core o.seq o.total) else
       let p := { t.header o.core e 6 false with
         len := 128, addr := BitVec.ofNat 44 (Handle.base o.hd), rop := if Handle.format o.hd = .fp32 then 8 else 9
         data := l.flatMap fun x => x.2.2 }
       let t := (t.sendData o.core e (.op o.seq 0) grp path 0 p).yieldHandle s.tile.task.cnum o.hs
       if o.sbar.isSome ∧ o.srcDone = false then t.after 0 .sourceCredit (.op pt o.core o.seq) else t)
  | .rat code _ addr b cmp _ =>
    if s.underWay o 0 then s else
    let p := { s.header o.core e 6 false with
      addr := BitVec.ofNat 44 addr, rop := BitVec.ofNat 4 code, operand := b, compare := cmp, path := BitVec.ofNat 2 (s.pathOf e.p) }
    s.sendRaw o.core (.op o.seq 0) true 0 p
  | .rd paths =>
    let (ps, t) := s.opPaths o e paths
    landParts o.core o.seq o.parts.length (sendRd o e ps t (s.unsent o))
  | _ => s

end Sys2Proof.Machine
end

