-- ==== Sys2Proof/Machine/Placement.lean ====
section
/-! DEFINITION. Shards in other packages, the order of a tensor's operations at its home, ld.place and st.place as the engine runs them
(R336 to R339, R342). -/

namespace Sys2Proof.Machine

/-! ### Shards in other packages -/

/-- A byte that a read answer has brought from another package. -/
def State.remoteByte (s : State) (mine : Sent → Bool) (dst : BitVec 12) (a : Nat) : Byte :=
  match s.unacked.find? fun u => mine u && u.pkt.dst == dst && u.data.isSome &&
      decide (u.pkt.addr.toNat ≤ a ∧ a < u.pkt.addr.toNat + u.pkt.len.toNat) with
  | none => 0
  | some u => ((u.data.getD [])[a - u.pkt.addr.toNat]?).getD 0

/-- An element at an address of a member's package: read here, or taken from what has come. -/
def State.fetchAt (s : State) (mine : Sent → Bool) (cnum : Nat) (e : Option PkgMap) (va w : Nat) : Read :=
  match e with
  | none => .error (.placeUnmapped, va)
  | some e =>
    if e.p = s.self then (match s.greadNat cnum va w with
      | .error x => .error x
      | .ok (_, n) => .ok n)
    else .ok (leNat ((List.range w).map fun i => s.remoteByte mine e.p (va + i)))

/-- The element of a member's shard at a global index. -/
def State.fetchShard (s : State) (mine : Sent → Bool) (cnum : Nat) (v : Conv) (c g : List Nat) : Read :=
  s.fetchAt mine cnum ((s.ctx? cnum).bind fun x => x.memberPkg v.mesh c) (v.r.layout + v.offset c g * v.r.width) v.r.width

/-- A packet for n bytes at va: one beyond 44 bits names its bytes whole, and translates nowhere (R87). -/
def packetFor (va n : Nat) (p : Packet) : Packet :=
  { p with addr := BitVec.ofNat 44 va, len := BitVec.ofNat 9 n, runs := if va + n ≤ 2 ^ 44 then [] else [(va, n)] }

/-- Read requests for n bytes at va in another package, 256 bytes each, that are not yet under way. -/
def askBlocks (s : State) (cnum tid : Nat) (tile : BitVec 8) (core : CoreId) (own : Nat → Own) (e : PkgMap) (va : Nat) :
    Nat → Nat → Nat → State
  | 0, _, _ => s
  | k + 1, n, part =>
    if n = 0 then s else
    let m := min n 256
    let t := if s.unacked.any (fun u => u.tid == tid && u.own == own part) then s else
      s.sendAs tid tile core (own part) false 0 (packetFor va m { s.headerOf cnum tile core e 1 false with
        path := BitVec.ofNat 2 (s.pathOf e.p) })
    askBlocks t cnum tid tile core own e (va + m) k (n - m) (part + 1)

/-- The parts of one member's blocks are numbered from rank × 2^36: a shard has fewer than 2^44 bytes (R330). -/
def partBase (rank : Nat) : Nat := rank * 2 ^ 36

/-- The shards of other packages that are needed, requested. -/
def State.askShards (s : State) (cnum tid : Nat) (tile : BitVec 8) (core : CoreId) (own : Nat → Own) (v : Conv)
    (need : List (List Nat)) : State :=
  need.foldl (fun t c =>
    match (t.ctx? cnum).bind fun x => x.memberPkg v.mesh c with
    | none => t
    | some e =>
      if e.p = t.self then t else
      let n := boxCount (v.mesh.box v.r.dims v.r.st c) * v.r.width
      askBlocks t cnum tid tile core own e v.r.layout (n / 256 + 1) n (partBase (v.mesh.rank c))) s

/-- Write packets in order group 0 for bytes at va in another package, 256 bytes each, that are not yet acknowledged or under way. -/
def tellBlocks (s : State) (cnum tid : Nat) (tile : BitVec 8) (core : CoreId) (own : Nat → Own) (acked : List Nat) (e : PkgMap)
    (va : Nat) : Nat → List Byte → Nat → State
  | 0, _, _ => s
  | k + 1, bs, part =>
    if bs.isEmpty then s else
    let d := bs.take 256
    let t := if acked.contains part || s.unacked.any (fun u => u.tid == tid && u.own == own part) then s else
      s.sendAs tid tile core (own part) true 0 (packetFor va d.length { s.headerOf cnum tile core e 0 false with
        path := BitVec.ofNat 2 (s.pathOf e.p), data := d, pce := true })
    tellBlocks t cnum tid tile core own acked e (va + 256) k (bs.drop 256) (part + 1)

/-! ### The order of a tensor's operations (R209, R342) -/

/-- The tensor that an operation names. -/
def OpKind.tensor : OpKind → Option Nat
  | .ldPlace d => some (d.toNat % 4096)
  | .stPlace d => some (d.toNat % 4096)
  | .copy => none
  | .multicast _ _ => none
  | .gather _ _ => none
  | .scatter _ => none
  | .rd _ => none
  | .wr _ _ => none
  | .rvat _ _ => none
  | .rat _ _ _ _ _ _ => none

/-- The package of the home of the tensor at an index, as a context's own record has it (R327). -/
def Ctx.homePkg (x : Ctx) (prec : Nat) : Option PkgMap := (x.meshAt (Rec.ofBits (x.recAt prec)).mesh).bind fun m => x.memberPkg m [0, 0, 0]

/-- The transfers of a running job name a tensor. -/
def jobUses (x : Ctx) (prec : Nat) (before : Nat) : Bool :=
  x.jobs.any fun j => j.st == 2 && (j.srec == prec || j.drec == prec) && (j.req.map fun n => decide (n < before)).getD true

/-- An operation on a tensor waits while a conversion, a ptab.set or a job received before it has not ended, and while CONV is set
(R209, R342). -/
def State.tensorBusy (s : State) (cnum prec before : Nat) : Bool :=
  (s.reqs.any fun r => r.cnum == cnum && (r.fn7 == 0x20 || r.fn7 == 0x22 || r.fn7 == 0x2F) && r.gb.toNat % 4096 == prec &&
    decide (r.n < before) && r.phase != 9) ||
  ((s.ctx? cnum).map fun x => jobUses x prec before || (Rec.ofBits (x.recAt prec)).conv).getD false

/-! ### ld.place and st.place at the engine (R337 to R339, R342) -/

/-- The checks of ld.place and st.place (R339): record, mesh and the coordinates of the issuing member; the free values are numbered from
free. -/
def State.placeCheck (s : State) (desc : Nat) (isLoad : Bool) (free : Nat) : Except EFault (Conv × List Nat) :=
  let bad : EFault := ⟨.placeRec, 0, 0⟩
  match s.ctx? s.tile.task.cnum with
  | none => .error bad
  | some x =>
    let img := x.recAt (desc % 4096)
    let r := Rec.ofBits img
    let mm := x.meshAt r.mesh
    if r.valid = false ∨ recClear img = false ∨ recOk r mm = false then .error bad else
    match mm with
    | none => .error bad
    | some m =>
      let aim := if isLoad then demanded m r.st desc else r.st
      if isLoad = true ∧ (absentField m desc = true ∨ recOk { r with st := aim } (some m) = false) then .error bad else
      match m.members.find? fun c => ((x.memberPkg m c).map (·.p)) == some s.self with
      | none => .error ⟨.placeMember, 0, 0⟩
      | some c => .ok ({ mesh := m, r := r, aim := aim, free := free }, c)

/-- An engine fault of an operation, at element e. -/
def State.engineFails (s : State) (o : Op) (x : EFault) (e : Nat) : State :=
  s.after 0 .engineFault (.fault s.tile.ptile o.core o.seq x.cls x.acc x.addr e)

/-- The operation is looked at again. -/
def State.engineAgain (s : State) (o : Op) : State :=
  s.after engineDelay .engineCredit (.credit s.tile.ptile o.core o.seq o.total)

/-- A placement operation waits for its turn: for what this package received before it, then, where the tensor's home is another package,
for that home (R342); then it is checked on the record as it stands, and go takes it up. -/
def State.placeBegin (s : State) (o : Op) (desc : Nat) (isLoad : Bool) (go : State → Conv → List Nat → State) : State :=
  let cn := s.tile.task.cnum
  let prec := desc % 4096
  if o.free = none ∧ o.granted = false ∧ s.tensorBusy cn prec o.recv = true then s.engineAgain o else
  match s.placeCheck desc isLoad (o.free.getD s.freeN) with
  | .error x => s.engineFails o x 0
  | .ok (v, c) =>
    match (s.ctx? cn).bind fun x => x.homePkg prec with
    | none => s.engineFails o ⟨.placeUnmapped, 0, v.r.layout⟩ 0
    | some e =>
      if e.p ≠ s.self ∧ o.granted = false then
        if s.lostPkgs.contains e.p then s.engineFails o ⟨.placeUnmapped, 0, v.r.layout⟩ 0
        else if o.ask.isSome then s
        else
          let t : State := { s with reqN := s.reqN + 1 }
          (t.mapOp o fun p => { p with ask := some (e, s.reqN) }).tell e.p
            (.tensorAsk s.self e.rcref ((s.ctx? cn).getD .keystone).cref s.reqN prec false)
      else if o.free.isSome then go s v c
      else
        let t : State := { s with freeN := s.freeN + v.mesh.count * v.span }
        go (t.mapOp o fun p => { p with free := some v.free }) v c

/-- Whether a home's record is this package's copy, apart from CONV (R330, R339, R341). -/
def sameRec (x y : BitVec 512) : Bool := putField x 54 1 0 == putField y 54 1 0

/-- The home lets an operation of the tile in focus begin: PLACE.REC where its record differs from the copy here (R339), a translation
fault where it refuses the binding (R459). -/
def State.placeGo (s : State) (o : Op) (img : Option (BitVec 512)) : State :=
  match o.kind.tensor, img with
  | some prec, some y =>
    let x := ((s.ctx? s.tile.task.cnum).map fun x => x.recAt prec).getD 0
    if sameRec x y then (s.mapOp o fun p => { p with granted := true }).after 0 .engineCredit (.credit s.tile.ptile o.core o.seq o.total)
    else s.engineFails o ⟨.placeRec, 0, 0⟩ 0
  | _, _ => s.engineFails o ⟨.xlateNone, 0, 0⟩ 0

/-- ld.place at the engine (R337): reads of other members first, then every element of the demanded shard. -/
def State.runLdPlace (s : State) (o : Op) (desc : Nat) : State :=
  s.placeBegin o desc true fun s v c =>
    if boxCount (v.boxTo c) * v.r.width ≠ Handle.bytes o.hd then s.engineFails o ⟨.xferShape, 0, 0⟩ 0 else
    let cn := s.tile.task.cnum
    let mine := o.mine s.tile.task.id
    let src := v.sources c
    let t := s.askShards cn s.tile.task.id s.tile.ptile o.core (fun i => .op o.seq i) v ((src.map (·.1)).eraseDups)
    if t.unacked.any (fun u => mine u && u.data.isNone) then t else
    let w := v.r.width
    let byte (k : Nat) : Except EFault Byte :=
      match v.newElem (s.fetchShard mine cn v) c (k / w) with
      | .error (cls, a) => .error ⟨cls, 1, a⟩
      | .ok x => .ok (BitVec.ofNat 8 (x >>> (8 * (k % w))))
    let u := s.unitOfHandle o.hd
    let n := Handle.width o.hd
    let move (t : State) (e : Nat) : Except EFault State := do
      let ps := (List.range n).map fun i => e * n + i
      let bs ← ps.mapM byte
      writeSides t o.hd u ((ps.map (Handle.byteAddr o.hd)).zip bs)
    let (t, e, f) := moveElems move (o.total - o.done) o.done t
    let t := src.foldl (fun t x => match (t.ctx? cn).bind fun y => y.memberPkg v.mesh x.1 with
      | none => t
      | some en => if en.p = t.self then t.monitor cn (v.r.layout + x.2 * w) w false else t) t
    let t := ((t.cureOp o [u] o.done e).creditOp o o.done e).mapOp o fun p => { p with done := e }
    match f with
    | some x => (t.spoilDest o [u] e).engineFails o x e
    | none => (t.dropSent mine).opEnds { o with done := o.total }

/-- The source bytes of an ld.place: the shard bytes it reads in every member (R336). -/
def State.placeSource (s : State) (o : Op) : Nat :=
  match o.kind with
  | .ldPlace desc => (match s.placeCheck desc.toNat true (o.free.getD 0) with
    | .ok (v, c) => (v.sources c).length * v.r.width
    | .error _ => 0)
  | _ => o.srcBytes

/-- The members that st.place writes: those that differ from c only on axes in state R (R338). -/
def Conv.replicas (v : Conv) (c : List Nat) : List (List Nat) :=
  v.mesh.members.filter fun k => (List.range 3).all fun i => entry v.r.st i == 4 || entry k i == entry c i

/-- The members' shards written with bytes: here at once, elsewhere by packets. -/
def writeShards (bs : List Byte) (cn tid : Nat) (tile : BitVec 8) (core : CoreId) (own : Nat → Own) (acked : List Nat) (m : Mesh)
    (layout : Nat) (s : State) : List (List Nat) → Access State
  | [] => .ok s
  | c :: cs =>
    match (s.ctx? cn).bind fun x => x.memberPkg m c with
    | none => .error (.placeUnmapped, layout)
    | some e =>
      if e.p = s.self then
        match s.gwrite cn layout bs with
        | .error x => .error x
        | .ok t => writeShards bs cn tid tile core own acked m layout t cs
      else
        writeShards bs cn tid tile core own acked m layout
          (tellBlocks s cn tid tile core own acked e layout (bs.length / 256 + 1) bs (partBase (m.rank c))) cs

/-- Every byte of an st.place has been written and acknowledged. -/
def State.stPlaceEnds (s : State) (o : Op) : State :=
  ((s.creditOp o 0 o.total).mapOp o fun p => { p with done := p.total }).opEnds { o with done := o.total }

/-- A faulting st.place leaves undefined every shard byte that it was to write, in every replica (R339). -/
def State.spoilPlace (s : State) (o : Op) : State :=
  match o.kind with
  | .stPlace desc => (match s.placeCheck desc.toNat false 0 with
    | .error _ => s
    | .ok (v, c) =>
      let prec := desc.toNat % 4096
      (s.freeShard s.tile.task.cnum prec).tellSpoilt s.tile.task.cnum prec (v.replicas c))
  | _ => s

/-- st.place at the engine (R338); one that faults leaves the shard bytes that it was to write undefined (R339). -/
def State.runStPlace (s : State) (o : Op) (desc : Nat) : State :=
  s.placeBegin o desc false fun s v c =>
    let cn := s.tile.task.cnum
    let n := Handle.bytes o.hs
    if shardBytes v.r v.mesh ≠ n then s.engineFails o ⟨.xferShape, 0, 0⟩ 0 else
    match readSides s o.hs (s.unitOfHandle o.hs) ((List.range n).map (Handle.byteAddr o.hs)) with
    | .error x => s.engineFails o x 0
    | .ok bs =>
      let s := s.yieldHandle cn o.hs
      match writeShards bs cn s.tile.task.id s.tile.ptile o.core (fun i => .op o.seq i) o.acked v.mesh v.r.layout s (v.replicas c) with
      | .error (cls, a) => (s.spoilPlace o).engineFails o ⟨cls, 2, a⟩ 0
      | .ok t =>
        if t.unacked.any (o.mine t.tile.task.id) then
          (if o.sbar.isSome ∧ o.srcDone = false then t.after 0 .sourceCredit (.op t.tile.ptile o.core o.seq) else t)
        else t.stPlaceEnds o

/-- A packet of an st.place has been acknowledged: with the last one the operation is complete. -/
def State.stPlaceAck (s : State) (o : Op) (i : Nat) : State :=
  let t := s.mapOp o fun p => { p with acked := i :: p.acked }
  if t.unacked.any (o.mine t.tile.task.id) then t else t.stPlaceEnds o

end Sys2Proof.Machine
end

