-- ==== Sys2Proof/Machine/VecOps.lean ====
section
/-! DEFINITION. What the compute core's instructions are written over: elements (R64), vector operands and ports (R215 to R219),
fixed-latency results (R134, R135), and the tag classes. -/

namespace Sys2Proof.Machine

/-! ### Elements (R64) -/

/-- N(t): the elements of a register under a tag. -/
def Fmt.elems (f : Fmt) : Nat := 2048 / f.width

/-- Every element of a vector, as bit patterns. -/
def unpack (f : Fmt) (x : BitVec 2048) : List Nat := (List.range f.elems).map fun e => x.toNat >>> (e * f.width) % 2 ^ f.width

/-- Bit patterns of w bits laid one after another. -/
def packNat (w : Nat) : List Nat → Nat
  | [] => 0
  | x :: xs => x % 2 ^ w + packNat w xs * 2 ^ w

/-- A vector from its elements. -/
def pack (f : Fmt) (l : List Nat) : BitVec 2048 := BitVec.ofNat 2048 (packNat f.width l)

/-- The 64 lanes of a vector. -/
def lanes (x : BitVec 2048) : List Nat := unpack .int32 x

/-- Element e of a list of elements; 0 past its end. -/
def nth (l : List Nat) (e : Nat) : Nat := (l[e]?).getD 0

/-! ### Results in flight (R135) -/

/-- INT32 in place of EMPTY (R238). -/
def orInt (t : Fmt) : Fmt := if t = .empty then .int32 else t

/-- What is left of an earlier result in flight that would land after a later one: nothing, or the part that the later one leaves
alone. -/
def Land.under (late early : Land) : Option Land :=
  match late, early with
  | .tag _ t, .v r x _ => some (.v r x t)
  | .tag _ t, .data r x => some (.v r x t)
  | .data _ x, .v r _ t => some (.v r x (orInt t))
  | .data _ _, .tag r t => some (.tag r (orInt t))
  | _, _ => none

/-- The results in flight with one more, in landing order. -/
def addFlight (f : Flight) : List Flight → List Flight
  | [] => [f]
  | e :: es => if e.at_ ≤ f.at_ then e :: addFlight f es else f :: e :: es

/-- The results in flight once a result that lands in a given cycle is issued. -/
def supersede (l : Land) (at_ : Nat) (fs : List Flight) : List Flight :=
  fs.filterMap fun e => if e.land.reg = l.reg ∧ at_ < e.at_ then (l.under e.land).map fun x => { e with land := x } else some e

/-- A result written to its register. -/
def Tile.land (t : Tile) (c : CoreId) : Land → Tile
  | .g r x =>
    let k := t.core c
    if r = 0 then t else t.setCore c { k with g := k.g.set r.toNat x r.isLt, bad := k.bad.filter (· ≠ .g r) }
  | .v r x f => { t with v := t.v.setIfInBounds r x, vtag := t.vtag.setIfInBounds r f, cc := { t.cc with bad := t.cc.bad.filter (· ≠ .v r) } }
  | .data r x =>
    { t with v := t.v.setIfInBounds r x, vtag := t.vtag.setIfInBounds r (orInt ((t.vtag[r]?).getD .empty))
             cc := { t.cc with bad := t.cc.bad.filter (· ≠ .v r) } }
  | .tag r f => { t with vtag := t.vtag.setIfInBounds r f }
  | .p r x => if r = 0 then t else { t with p := t.p.set r.toNat x r.isLt, cc := { t.cc with bad := t.cc.bad.filter (· ≠ .p r) } }

/-- Every result in flight that is due by a cycle lands, in order. -/
def Tile.landDue (t : Tile) (c : CoreId) (now : Nat) : Tile :=
  let k := t.core c
  let t := t.setCore c { k with flight := k.flight.filter fun f => decide (now < f.at_) }
  (k.flight.filter fun f => decide (f.at_ ≤ now)).foldl (fun t f => t.land c f.land) t

/-- Every result in flight lands (R135). -/
def Tile.landAll (t : Tile) (c : CoreId) : Tile :=
  let k := t.core c
  k.flight.foldl (fun t f => t.land c f.land) (t.setCore c { k with flight := [] })

/-- A fixed-latency result of the core with the turn, n cycles from now; with n = 0 an interlocked one, written at once. -/
def State.result (s : State) (n : Nat) (l : Land) : State :=
  let k := s.core
  let s := s.setCore { k with flight := supersede l (s.now + n) k.flight }
  if n = 0 then s.setTile (s.tile.land s.sel l) else
  if l.reg = .g 0 ∨ l.reg = .p 0 then s else
  (s.setCore { s.core with flight := addFlight ⟨l, s.now + n⟩ s.core.flight }).after n .fixedLatencyWrite (.core s.tile.ptile s.sel)

/-! ### Vector operands (R139, R140, R215) -/

/-- A field code that names a port. -/
def isPort (c : VCode) : Bool := decide (56 ≤ c.toNat ∧ c.toNat < 62)

/-- A field code that names a v register. -/
def isVReg (c : VCode) : Bool := decide (c.toNat < 56)

/-- VREG.RANGE (R140). -/
def vregRange (s : State) (cs : List VCode) : Act Unit :=
  check (cs.all (fun c => !isVReg c || decide (c.toNat < s.tile.vallot.toNat)) = true) { cls := .vregRange }

/-- The v registers among field codes. -/
def vregs (cs : List VCode) : List Reg := (cs.filter isVReg).map fun c => .v c.toNat

/-- The parameter set of a port. -/
def Tile.port (t : Tile) (c : VCode) : Port := (t.ports[c.toNat - 56]?).getD {}

/-- The tag of a vector source; none for vzero. -/
def Tile.srcTag (t : Tile) (c : VCode) : Option Fmt :=
  if isVReg c then t.vtag[c.toNat]? else if isPort c then some (t.port c).fmt else none

/-- The tags of an instruction's vector sources: vzero takes the others' (R215). -/
def Tile.srcTags (t : Tile) (cs : List VCode) : List Fmt :=
  cs.map fun c => (t.srcTag c).getD ((cs.findSome? t.srcTag).getD .int32)

/-- The number of positions of a port's loops: a count of 0 acts as 1. -/
def Port.total (p : Port) : Nat := max 1 p.n0.toNat * max 1 p.n1.toNat * max 1 p.n2.toNat

/-- The address of a port's next vector (R219). -/
def Port.next (p : Port) : Word :=
  let n0 := max 1 p.n0.toNat
  let n1 := max 1 p.n1.toNat
  let i := p.pos.toNat
  p.addr + BitVec.ofNat 32 (i % n0) * p.s0 + BitVec.ofNat 32 (i / n0 % n1) * p.s1 + BitVec.ofNat 32 (i / (n0 * n1)) * p.s2

/-- The checks of a port access (R219): MISALIGN, SCRATCH.RANGE in the tile window below the task's limit; the key of the vector. -/
def portKey (s : State) (c : VCode) (acc : Nat) : Act Nat := do
  let a := (s.tile.port c).next.toNat
  check (a % 4 = 0) { cls := .misalign, access := acc, addr := a }
  check (a + 256 ≤ 2 ^ 21 ∧ a + 256 ≤ s.tile.task.limit) { cls := .scratchRange, access := acc, addr := a }
  let k := tileKey s.tile.ptile.toNat + a
  pushed s k 256
  .ok k

/-- A port advances to its next vector. -/
def State.advance (s : State) (c : VCode) : State :=
  let p := s.tile.port c
  s.setTile { s.tile with ports := s.tile.ports.setIfInBounds (c.toNat - 56) { p with pos := BitVec.ofNat 32 ((p.pos.toNat + 1) % p.total) } }

/-- The 256 bytes at a key as a vector. -/
def State.readVec (s : State) (k : Nat) : BitVec 2048 := BitVec.ofNat 2048 (s.readNat k 256)

/-- The value of a vector source, and the machine with its port advanced. -/
def popOne (s : State) (c : VCode) : Act (BitVec 2048 × State) :=
  if isPort c then do
    let k ← portKey s c 1
    .ok (s.readVec k, s.advance c)
  else .ok (if isVReg c then (s.tile.v[c.toNat]?).getD 0 else 0, s)

/-- The vectors that an instruction's ports pop meet no uncorrectable error (R444), after every other check (DESIGN CHOICE, log 16). -/
def popsClean (s : State) : List VCode → Act Unit
  | [] => .ok ()
  | c :: cs =>
    if isPort c then do
      let a := (s.tile.port c).next.toNat
      clean s (tileKey s.tile.ptile.toNat + a) 256 a 1
      popsClean (s.advance c) cs
    else popsClean s cs

/-- The values of the vector sources, in order. R212 puts MISALIGN before SCRATCH.RANGE and source accesses before destination accesses;
whether the alignment of a later access comes before the range of an earlier one is open: each access makes all its checks before the
next (DESIGN CHOICE, log 16). -/
def popAll (s : State) : List VCode → Act (List (BitVec 2048) × State)
  | [] => .ok ([], s)
  | c :: cs => do
    let (x, t) ← popOne s c
    let (xs, u) ← popAll t cs
    .ok (x :: xs, u)

/-- The key that a push to an output port goes to, and the machine with the port advanced; none for a register. -/
def pushKey (s : State) (d : VCode) : Act (Option Nat × State) :=
  if isPort d then do
    let k ← portKey s d 2
    .ok (some k, s.advance d)
  else .ok (none, s)

/-- A push through an output port: the bytes land n cycles from now (R214); at once for n = 0. -/
def State.push (s : State) (k n : Nat) (x : BitVec 2048) : State :=
  if n = 0 then s.storeNat k 256 x.toNat else
  (s.setTile { s.tile with pushes := s.tile.pushes ++ [⟨s.now + n, k, x⟩] }).after n .fixedLatencyWrite (.core s.tile.ptile s.sel)

/-- Port pushes that are due by a cycle land, in order (R219). -/
def State.landPushes (s : State) (now : Nat) : State :=
  (s.tile.pushes.filter fun p => decide (p.at_ ≤ now)).foldl (fun t p => t.storeNat p.key 256 p.val.toNat)
    (s.setTile { s.tile with pushes := s.tile.pushes.filter fun p => decide (now < p.at_) })

/-- Every result and push in flight of the tile in focus lands (R135). -/
def State.landEverything (s : State) : State :=
  let t := s.tile.pushes.foldl (fun u p => u.storeNat p.key 256 p.val.toNat) (s.setTile { s.tile with pushes := [] })
  t.setTile (((t.tile.landAll .load).landAll .compute).landAll .store)

/-- A vector result: to a register or through a port to memory, after n cycles (R214, R219). -/
def State.putV (s : State) (d : VCode) (k : Option Nat) (n : Nat) (x : BitVec 2048) (t : Fmt) : State :=
  match k with
  | some k => s.push k n x
  | none => s.result n (.v d.toNat x t)

/-- The token of an implicit put: an instruction that pushes to a port retires when its bytes land, n cycles from now (R211, R214). -/
def State.lateToken (s : State) (d : VCode) (n : Nat) : Slot := if isPort d then .filled 0 (max s.landBy (s.now + n)) else s.token

/-! ### Tag classes (R215) -/

/-- Class data. -/
def isData (t : Fmt) : Bool := decide (t ≠ .empty)

/-- Every source carries the first one's tag, which a class admits (R63). -/
def sameTag (ok : Fmt → Bool) : List Fmt → Bool
  | [] => true
  | t :: ts => ok t && ts.all (· == t)

/-- What a vector instruction computes: its value, its tag and the LFSR state after it. -/
abbrev VResult := BitVec 2048 × Fmt × Word

/-- A vector instruction with destination d and sources cs (R212): its tag check, the port checks, its result f after lat cycles. -/
def vector (k : Tok) (d : VCode) (cs : List VCode) (gs : List GReg) (os : List Reg) (tagsOk : List Fmt → Bool) (lat : List Fmt → Nat)
    (f : Tile → List Fmt → List (BitVec 2048) → VResult) (s : State) : Host.Outcome State Fault Refusal :=
  let tags := s.tile.srcTags cs
  priv s k (s.lateToken d (lat tags)) (vregRange s (d :: cs)) gs (vregs cs ++ os) [] fun t => do
    check (tagsOk tags = true) { cls := .tagCheck }
    let (xs, u) ← popAll t cs
    let (key, u) ← pushKey u d
    popsClean t cs
    let (x, g, l) := f u.tile tags xs
    .ok ((u.setTile { u.tile with lfsrc := l }).putV d key (lat tags) x g)

end Sys2Proof.Machine
end

