-- ==== Sys2Proof/Machine/Vector.lean ====
section
/-! DEFINITION. Vector arithmetic, logic, compares, reductions, permutes, conversion and ternaries (R220 to R234). -/

namespace Sys2Proof.Machine

/-- The first and second value of a list of sources. -/
def arg0 (xs : List (BitVec 2048)) : BitVec 2048 := (xs[0]?).getD 0
/-- The second. -/
def arg1 (xs : List (BitVec 2048)) : BitVec 2048 := (xs[1]?).getD 0
/-- The third. -/
def arg2 (xs : List (BitVec 2048)) : BitVec 2048 := (xs[2]?).getD 0
/-- The tag of the first source. -/
def tag0 (ts : List Fmt) : Fmt := (ts[0]?).getD .empty
/-- The tag of the second. -/
def tag1 (ts : List Fmt) : Fmt := (ts[1]?).getD .empty

/-- Classes integer and FP. -/
def isNum (t : Fmt) : Bool := t.isInt || t.isFp

/-- A latency that differs between integer and FP tags. -/
def latIntFp (i f : Nat) (ts : List Fmt) : Nat := if (tag0 ts).isInt then i else f

/-! ### Element-wise (R220, R221) -/

/-- The smaller or larger of two elements, exactly one of them; NaN gives the canonical NaN, −0 is less than +0 (R221). -/
def pickFp (big : Bool) (f : Fmt) (a b : Nat) : Nat :=
  match (fpVal f a).cmp (fpVal f b) with
  | none => f.nan
  | some c =>
    let less := if c = 0 then (fpVal f a).sign && !(fpVal f b).sign else decide (c < 0)
    if less = big then b else a

/-- The smaller or larger of two integer elements. -/
def pickInt (big : Bool) (f : Fmt) (a b : Nat) : Nat := if decide (intVal f a < intVal f b) = big then b else a

/-- A binary operation on elements: integer result, exact FP result rounded once. -/
def arith (i : Int → Int → Int) (r : Bool → FpNum → FpNum → FpNum) (t : Tile) (ts : List Fmt) (xs : List (BitVec 2048)) : VResult :=
  let f := tag0 ts
  let ab := (unpack f (arg0 xs)).zip (unpack f (arg1 xs))
  if f.isInt then (pack f (ab.map fun x => wrap f.width (i (intVal f x.1) (intVal f x.2))), f, t.lfsrc) else
  let (ys, l) := mapDraw (fun l x => roundDraw f t.rmode l (r (t.rmode = .rd) (fpVal f x.1) (fpVal f x.2))) t.lfsrc ab
  (pack f ys, f, l)

/-- An operation on the elements of two sources that rounds nothing. -/
def elementwise (op : Fmt → Nat → Nat → Nat) (t : Tile) (ts : List Fmt) (xs : List (BitVec 2048)) : VResult :=
  let f := tag0 ts
  (pack f (((unpack f (arg0 xs)).zip (unpack f (arg1 xs))).map fun x => op f x.1 x.2), f, t.lfsrc)

/-- An operation on the elements of one source that rounds nothing. -/
def unary (op : Fmt → Nat → Nat) (t : Tile) (ts : List Fmt) (xs : List (BitVec 2048)) : VResult :=
  let f := tag0 ts
  (pack f ((unpack f (arg0 xs)).map (op f)), f, t.lfsrc)

/-- The sign bit cleared or inverted, NaN canonical; integers wrap (R221). -/
def signOp (abs : Bool) (f : Fmt) (a : Nat) : Nat :=
  if f.isInt then wrap f.width (if abs then (intVal f a).natAbs else -(intVal f a)) else
  if fpVal f a = .nan then f.nan else
  let m := a % 2 ^ (f.width - 1)
  if abs then m else withSign f (!a.testBit (f.width - 1)) m

/-- The shift amount: log2(w) low bits. -/
def shiftBy (f : Fmt) (b : Nat) : Nat := b % f.width

/-- Leading zeros of an element (R220). -/
def leadingZeros (f : Fmt) (a : Nat) : Nat := if a = 0 then f.width else f.width - 1 - a.log2

/-- One bits of an element (R220). -/
def onesOf (f : Fmt) (a : Nat) : Nat := (List.range f.width).foldl (fun n i => n + (a.testBit i).toNat) 0

/-- An arithmetic right shift of an element: the top bit fills, whatever the tag. -/
def sraElem (f : Fmt) (a b : Nat) : Nat :=
  let x : Int := if a < 2 ^ (f.width - 1) then (a : Int) else (a : Int) - 2 ^ f.width
  wrap f.width (x / 2 ^ shiftBy f b)

/-- R220. -/
def execVadd (k : Tok) (a b c : VCode) (s : State) : Host.Outcome State Fault Refusal :=
  vector k a [b, c] [] [] (sameTag isNum) (latIntFp 2 4) (arith (· + ·) FpNum.add) s
/-- R220. -/
def execVsub (k : Tok) (a b c : VCode) (s : State) : Host.Outcome State Fault Refusal :=
  vector k a [b, c] [] [] (sameTag isNum) (latIntFp 2 4) (arith (· - ·) fun rd x y => FpNum.add rd x y.negate) s
/-- R220. -/
def execVmul (k : Tok) (a b c : VCode) (s : State) : Host.Outcome State Fault Refusal :=
  vector k a [b, c] [] [] (sameTag isNum) (latIntFp 3 4) (arith (· * ·) fun _ x y => x.mul y) s
/-- R220, R221. -/
def execVmin (k : Tok) (a b c : VCode) (s : State) : Host.Outcome State Fault Refusal :=
  vector k a [b, c] [] [] (sameTag isNum) (latIntFp 2 4)
    (elementwise fun f x y => if f.isInt then pickInt false f x y else pickFp false f x y) s
/-- R220, R221. -/
def execVmax (k : Tok) (a b c : VCode) (s : State) : Host.Outcome State Fault Refusal :=
  vector k a [b, c] [] [] (sameTag isNum) (latIntFp 2 4)
    (elementwise fun f x y => if f.isInt then pickInt true f x y else pickFp true f x y) s
/-- R220, R221. -/
def execVabs (k : Tok) (a b : VCode) (s : State) : Host.Outcome State Fault Refusal :=
  vector k a [b] [] [] (sameTag isNum) (latIntFp 2 4) (unary (signOp true)) s
/-- R220, R221. -/
def execVneg (k : Tok) (a b : VCode) (s : State) : Host.Outcome State Fault Refusal :=
  vector k a [b] [] [] (sameTag isNum) (latIntFp 2 4) (unary (signOp false)) s
/-- R220. -/
def execVand (k : Tok) (a b c : VCode) (s : State) : Host.Outcome State Fault Refusal :=
  vector k a [b, c] [] [] (sameTag isData) (fun _ => 2) (elementwise fun _ x y => x &&& y) s
/-- R220. -/
def execVor (k : Tok) (a b c : VCode) (s : State) : Host.Outcome State Fault Refusal :=
  vector k a [b, c] [] [] (sameTag isData) (fun _ => 2) (elementwise fun _ x y => x ||| y) s
/-- R220. -/
def execVxor (k : Tok) (a b c : VCode) (s : State) : Host.Outcome State Fault Refusal :=
  vector k a [b, c] [] [] (sameTag isData) (fun _ => 2) (elementwise fun _ x y => x ^^^ y) s
/-- R220. -/
def execVnot (k : Tok) (a b : VCode) (s : State) : Host.Outcome State Fault Refusal :=
  vector k a [b] [] [] (sameTag isData) (fun _ => 2) (unary fun f x => 2 ^ f.width - 1 - x) s
/-- R220. -/
def execVsll (k : Tok) (a b c : VCode) (s : State) : Host.Outcome State Fault Refusal :=
  vector k a [b, c] [] [] (sameTag Fmt.isInt) (fun _ => 2) (elementwise fun f x y => (x <<< shiftBy f y) % 2 ^ f.width) s
/-- R220. -/
def execVsrl (k : Tok) (a b c : VCode) (s : State) : Host.Outcome State Fault Refusal :=
  vector k a [b, c] [] [] (sameTag Fmt.isInt) (fun _ => 2) (elementwise fun f x y => x >>> shiftBy f y) s
/-- R220. -/
def execVsra (k : Tok) (a b c : VCode) (s : State) : Host.Outcome State Fault Refusal :=
  vector k a [b, c] [] [] (sameTag Fmt.isInt) (fun _ => 2) (elementwise sraElem) s
/-- R220. -/
def execVclz (k : Tok) (a b : VCode) (s : State) : Host.Outcome State Fault Refusal :=
  vector k a [b] [] [] (sameTag Fmt.isInt) (fun _ => 2) (unary leadingZeros) s
/-- R220. -/
def execVpopc (k : Tok) (a b : VCode) (s : State) : Host.Outcome State Fault Refusal :=
  vector k a [b] [] [] (sameTag Fmt.isInt) (fun _ => 2) (unary onesOf) s

/-! ### Compares and select (R222, R223) -/

/-- The order of two elements: none where a NaN takes part. -/
def cmpElem (f : Fmt) (a b : Nat) : Option Int :=
  if f.isInt then some (intVal f a - intVal f b).sign else (fpVal f a).cmp (fpVal f b)

/-- The predicate of a compare: bit i where the condition holds for every element of lane i. -/
def cmpLanes (ok : Option Int → Bool) (f : Fmt) (x y : BitVec 2048) : BitVec 64 :=
  let n := 32 / f.width
  let es := ((unpack f x).zip (unpack f y)).map fun p => ok (cmpElem f p.1 p.2)
  BitVec.ofNat 64 (packNat 1 ((List.range 64).map fun i => ((List.range n).all fun j => (es[i * n + j]?).getD false).toNat))

/-- A compare (R222). -/
def vcmp (ok : Option Int → Bool) (k : Tok) (d : PReg) (b c : VCode) (s : State) : Host.Outcome State Fault Refusal :=
  let tags := s.tile.srcTags [b, c]
  priv s k s.token (vregRange s [b, c]) [] (vregs [b, c]) [] fun t => do
    check (sameTag isNum tags = true) { cls := .tagCheck }
    let (xs, u) ← popAll t [b, c]
    popsClean t [b, c]
    .ok (u.result 2 (.p d (cmpLanes ok (tag0 tags) (arg0 xs) (arg1 xs))))

/-- R222. -/
def execVcmpEq (k : Tok) (d : PReg) (b c : VCode) (s : State) : Host.Outcome State Fault Refusal :=
  vcmp (fun o => o == some 0) k d b c s
/-- R222: NaN gives true. -/
def execVcmpNe (k : Tok) (d : PReg) (b c : VCode) (s : State) : Host.Outcome State Fault Refusal :=
  vcmp (fun o => o != some 0) k d b c s
/-- R222. -/
def execVcmpLt (k : Tok) (d : PReg) (b c : VCode) (s : State) : Host.Outcome State Fault Refusal :=
  vcmp (fun o => o == some (-1)) k d b c s
/-- R222. -/
def execVcmpLe (k : Tok) (d : PReg) (b c : VCode) (s : State) : Host.Outcome State Fault Refusal :=
  vcmp (fun o => o == some (-1) || o == some 0) k d b c s
/-- R222. -/
def execVcmpGt (k : Tok) (d : PReg) (b c : VCode) (s : State) : Host.Outcome State Fault Refusal :=
  vcmp (fun o => o == some 1) k d b c s
/-- R222. -/
def execVcmpGe (k : Tok) (d : PReg) (b c : VCode) (s : State) : Host.Outcome State Fault Refusal :=
  vcmp (fun o => o == some 1 || o == some 0) k d b c s

/-- R223: lanes of va where the predicate holds, else vd's own. -/
def execVsel (k : Tok) (a b : VCode) (p : PReg) (s : State) : Host.Outcome State Fault Refusal :=
  vector k a [b, a] [] [.p p] (sameTag fun _ => true) (fun _ => 1)
    (fun t ts xs =>
      (pack .int32 (((lanes (arg0 xs)).zip (lanes (arg1 xs))).zipIdx.map fun x => if (t.rp p).getLsbD x.2 then x.1.1 else x.1.2),
        tag0 ts, t.lfsrc)) s

/-! ### Group reductions (R224, R76, R77) -/

/-- The group size: 2^VGRP, at most N, at least N div 64. -/
def groupSize (t : Tile) (f : Fmt) : Nat :=
  let g := min (2 ^ t.vgrp.toNat) f.elems
  if 64 < f.elems / g then f.elems / 64 else g

/-- The groups of n consecutive elements, m of them. -/
def groups (n : Nat) : Nat → List Nat → List (List Nat)
  | 0, _ => []
  | m + 1, xs => xs.take n :: groups n m (xs.drop n)

/-- A node of a reduction on FP32 or INT32 values: threads the draws. -/
def redNode (fp : Word → Nat → Nat → Nat × Word) (int : Nat → Nat → Nat) (isFp : Bool) (l : Word) (a b : Nat) : Nat × Word :=
  if isFp then fp l a b else (int a b, l)

/-- A group reduction. -/
def reduceVec (fp : Rm → Word → Nat → Nat → Nat × Word) (int : Nat → Nat → Nat) (t : Tile) (ts : List Fmt) (xs : List (BitVec 2048)) :
    VResult :=
  let f := tag0 ts
  let g := groupSize t f
  let es := (unpack f (arg0 xs)).map fun x => if f.isFp then convElem f .fp32 .rne 0 x else wrap 32 (intVal f x)
  let (ys, l) := mapDraw (fun l x =>
    let (r, l') := reduceTree (redNode (fp t.rmode) int f.isFp) g.log2 l x
    (nth r 0, l')) t.lfsrc (groups g (f.elems / g) es)
  (pack .int32 ys, if f.isFp then .fp32 else .int32, l)

/-- R224: every FP node is rounded by RMODE, every integer node wraps. -/
def execVredsum (k : Tok) (a b : VCode) (s : State) : Host.Outcome State Fault Refusal :=
  vector k a [b] [] [] (sameTag isNum) (fun _ => 8)
    (reduceVec (fun m l x y => roundDraw .fp32 m l (FpNum.add (m = .rd) (fpVal .fp32 x) (fpVal .fp32 y))) fun x y => (x + y) % 2 ^ 32) s
/-- R224. -/
def execVredmax (k : Tok) (a b : VCode) (s : State) : Host.Outcome State Fault Refusal :=
  vector k a [b] [] [] (sameTag isNum) (fun _ => 8)
    (reduceVec (fun _ l x y => (pickFp true .fp32 x y, l)) (pickInt true .int32)) s
/-- R224. -/
def execVredmin (k : Tok) (a b : VCode) (s : State) : Host.Outcome State Fault Refusal :=
  vector k a [b] [] [] (sameTag isNum) (fun _ => 8)
    (reduceVec (fun _ l x y => (pickFp false .fp32 x y, l)) (pickInt false .int32)) s

/-! ### Permutes, moves and broadcasts (R225 to R229) -/

/-- R225: the index vector carries an integer tag of the data's width. -/
def execVperm (k : Tok) (a b c : VCode) (s : State) : Host.Outcome State Fault Refusal :=
  vector k a [b, c] [] [] (fun ts => isData (tag0 ts) && (tag1 ts).isInt && (tag0 ts).width == (tag1 ts).width) (fun _ => 2)
    (fun t ts xs =>
      let f := tag0 ts
      let es := unpack f (arg0 xs)
      (pack f ((unpack f (arg1 xs)).map fun i => nth es (i % f.elems)), f, t.lfsrc)) s

/-- R226: element gs mod N everywhere. -/
def execVbcast (k : Tok) (a b : VCode) (g : GReg) (s : State) : Host.Outcome State Fault Refusal :=
  let n := (s.g g).toNat
  vector k a [b] [g] [] (sameTag isData) (fun _ => 2)
    (fun t ts xs =>
      let f := tag0 ts
      (pack f (List.replicate f.elems (nth (unpack f (arg0 xs)) (n % f.elems))), f, t.lfsrc)) s

/-- R226: the scalar everywhere; a DS8 byte in its canonical encoding (R59). -/
def execVbcastG (k : Tok) (a : VCode) (t : BitVec 4) (g : GReg) (s : State) : Host.Outcome State Fault Refusal :=
  let f := (Fmt.ofCode t.toNat).getD .empty
  let x := (s.g g).toNat % 2 ^ f.width
  vector k a [] [g] [] (fun _ => true) (fun _ => 2)
    (fun u _ _ => (pack f (List.replicate f.elems (if f = .ds8 then ds8Round (ds8Val x) else x)), f, u.lfsrc)) s

/-- R227: element e + n. -/
def execVslideDn (k : Tok) (a b : VCode) (g : GReg) (s : State) : Host.Outcome State Fault Refusal :=
  let n := (s.g g).toNat
  vector k a [b] [g] [] (sameTag isData) (fun _ => 2)
    (fun t ts xs =>
      let f := tag0 ts
      let es := unpack f (arg0 xs)
      (pack f ((List.range f.elems).map fun e => if e + n < f.elems then nth es (e + n) else 0), f, t.lfsrc)) s

/-- R227: element e − n. -/
def execVslideUp (k : Tok) (a b : VCode) (g : GReg) (s : State) : Host.Outcome State Fault Refusal :=
  let n := (s.g g).toNat
  vector k a [b] [g] [] (sameTag isData) (fun _ => 2)
    (fun t ts xs =>
      let f := tag0 ts
      let es := unpack f (arg0 xs)
      (pack f ((List.range f.elems).map fun e => if n ≤ e then nth es (e - n) else 0), f, t.lfsrc)) s

/-- Two lists in turn. -/
def interleave : List Nat → List Nat → List Nat
  | x :: xs, y :: ys => x :: y :: interleave xs ys
  | _, _ => []

/-- Every second element from the first. -/
def evens : List Nat → List Nat
  | x :: _ :: xs => x :: evens xs
  | xs => xs

/-- R228: the low halves in turn. -/
def execVzip (k : Tok) (a b c : VCode) (s : State) : Host.Outcome State Fault Refusal :=
  vector k a [b, c] [] [] (sameTag isData) (fun _ => 2)
    (fun t ts xs =>
      let f := tag0 ts
      let h := f.elems / 2
      (pack f (interleave ((unpack f (arg0 xs)).take h) ((unpack f (arg1 xs)).take h)), f, t.lfsrc)) s

/-- R228: the even elements of both. -/
def execVunzip (k : Tok) (a b c : VCode) (s : State) : Host.Outcome State Fault Refusal :=
  vector k a [b, c] [] [] (sameTag isData) (fun _ => 2)
    (fun t ts xs =>
      let f := tag0 ts
      (pack f (evens (unpack f (arg0 xs) ++ unpack f (arg1 xs))), f, t.lfsrc)) s

/-- R229: 256 bytes and the tag, EMPTY included. -/
def execVmov (k : Tok) (a b : VCode) (s : State) : Host.Outcome State Fault Refusal :=
  vector k a [b] [] [] (fun _ => true) (fun _ => 1) (fun t ts xs => (arg0 xs, tag0 ts, t.lfsrc)) s

/-! ### Conversion and ternaries (R231 to R234) -/

/-- R231: a narrowing conversion zeroes the rest, a widening one reads the low elements, one to the source's own tag copies. R231 says
`vd[e] := 0` of the rest: for DS8 the byte is 0x00 (DESIGN CHOICE, log 82), although that byte encodes a weight and the canonical zero of
R59 is 0x77. -/
def execVcvt (k : Tok) (a b : VCode) (t : BitVec 4) (s : State) : Host.Outcome State Fault Refusal :=
  let d := (Fmt.ofCode t.toNat).getD .empty
  vector k a [b] [] [] (sameTag isData) (fun _ => 4)
    (fun u ts xs =>
      let f := tag0 ts
      if f = d then (arg0 xs, d, u.lfsrc) else
      let (ys, l) := mapDraw (convDraw f d u.rmode) u.lfsrc ((unpack f (arg0 xs)).take d.elems)
      (pack d ys, d, l)) s

/-- R232: one rounding; specials follow R71. -/
def execVfma (k : Tok) (a b c : VCode) (s : State) : Host.Outcome State Fault Refusal :=
  vector k a [b, c, a] [] [] (sameTag Fmt.isFp) (fun _ => 5)
    (fun t ts xs =>
      let f := tag0 ts
      let (ys, l) := mapDraw (fun l x =>
          roundDraw f t.rmode l (FpNum.add (t.rmode = .rd) ((fpVal f x.1.1).mul (fpVal f x.1.2)) (fpVal f x.2))) t.lfsrc
        (((unpack f (arg0 xs)).zip (unpack f (arg1 xs))).zip (unpack f (arg2 xs)))
      (pack f ys, f, l)) s

/-- R234: a 64-bit funnel shift, va high, by vd's old low bits. -/
def execVfsh (k : Tok) (a b c : VCode) (s : State) : Host.Outcome State Fault Refusal :=
  vector k a [b, c, a] [] [] (sameTag fun f => f == .int32) (fun _ => 2)
    (fun t _ xs =>
      (pack .int32 ((((lanes (arg0 xs)).zip (lanes (arg1 xs))).zip (lanes (arg2 xs))).map fun x =>
        (x.1.1 * 2 ^ 32 + x.1.2) >>> (x.2 % 64)), .int32, t.lfsrc)) s

/-- R233: lane-wise integer dot products into INT32 lanes. -/
def execVmac (k : Tok) (a b c : VCode) (s : State) : Host.Outcome State Fault Refusal :=
  vector k a [b, c, a] [] []
    (fun ts => (tag0 ts).isInt && tag0 ts == tag1 ts && (s.tile.srcTag a) == some .int32) (fun _ => 5)
    (fun t ts xs =>
      let f := tag0 ts
      let n := 32 / f.width
      let ps := ((unpack f (arg0 xs)).zip (unpack f (arg1 xs))).map fun x => intVal f x.1 * intVal f x.2
      (pack .int32 ((lanes (arg2 xs)).zipIdx.map fun x =>
        wrap 32 ((List.range n).foldl (fun z j => z + (ps[x.2 * n + j]?).getD 0) (x.1 : Int))), .int32, t.lfsrc)) s

end Sys2Proof.Machine
end

