-- ==== Sys2Proof/Machine/Collective.lean ====
section
/-! DEFINITION. The collective engine (R271 to R276, R435). -/

namespace Sys2Proof.Machine

/-! ### The collective block (R271) -/

/-- The scope in CTL. -/
def collScope (ctl : Word) : Nat := (fld 4 3 ctl).toNat
/-- RED. -/
def collRed (ctl : Word) : Nat := (fld 0 4 ctl).toNat
/-- A reducing function. -/
def isReduce (fn7 : Nat) : Bool := fn7 == 0 || fn7 == 2
/-- CTL of a block. -/
def blockCtl (b : List Byte) : Word := BitVec.ofNat 32 (blockNat b 0 4)
/-- SRC. -/
def blockSrc (b : List Byte) : Handle := BitVec.ofNat 256 (blockNat b 32 32)
/-- DST. -/
def blockDst (b : List Byte) : Handle := BitVec.ofNat 256 (blockNat b 64 32)

/-- The argument rules of a collective block. -/
def collOk (fn7 : Nat) (b : List Byte) (gb : Word) : Bool :=
  let w := blockCtl b
  gb == 0 && fld 7 25 w == 0 && decide (collRed w ≤ 2) && (isReduce fn7 || collRed w == 0) &&
  decide (1 ≤ collScope w ∧ collScope w ≤ 4) && (fn7 == 4 || blockZero b 4 8) && blockZero b 16 32

/-- The stream's next episode of a scope (R272). -/
def State.collKey (s : State) (scope : Fin 5) : EpKey := epKeyOf s.tile.task s.tile.ptile.toNat scope s.sel (s.core.collN[scope] + 1)

/-- A scope number as an index of the episode counters. -/
def scopeIx (n : Nat) : Fin 5 := ⟨min n 4, by omega⟩

/-- The handles of a collective's block are well-formed; cbar has none (R271, R272). -/
def collHandles (s : State) (fn7 : Nat) (bs : List Byte) : Act Unit :=
  if fn7 = 5 then .ok () else do
    handleForm s (blockSrc bs) false false
    handleForm s (blockDst bs) false false

/-- A collective other than cstat at issue (R271, R272, R275): the block, its handles and barriers, HBAR.SCOPE; at .pod it waits as a
release, and a broken covered write is raised here (R428). -/
def collective (fn7 : Nat) (d a b : GReg) (m : BitVec 2) (s : State) : Host.Outcome State Fault Refusal :=
  finish s (do
    hazardsIssued s [a, b] [d]
    let bs ← blockAt s a (if fn7 = 5 then 32 else 96)
    copArg (collOk fn7 bs (s.opd b) = true)
    collHandles s fn7 bs
    let db ← copBar s (blockNat bs 8 4)
    let sb ← copBar s (blockNat bs 12 4)
    check (s.tile.task.gang = true) { cls := .hbarScope }
    let sc := scopeIx (collScope (blockCtl bs))
    relBroken s (sc == 4)
    if sc = 4 ∧ s.podCovered (fun _ => false) (fun _ => false) = false then .ok ((s.relWait none).parkCop a b bs) else
    if s.copEntry m = false then .ok (s.parkCop a b bs) else
    let t := s.relDone
    let x : CopArgs := { dbar := db, sbar := sb, ep := some (t.collKey sc) }
    let r := t.newReq fn7 m.toNat d (t.opd a) (t.opd b) bs x
    let t := t.setCore { t.core with collN := t.core.collN.set sc (t.core.collN[sc] + 1) }
    .ok (t.sendReq r))

/-- R271 to R275. -/
def execAllreduce (d a b : GReg) (m : BitVec 2) (s : State) := collective 0 d a b m s
/-- R271 to R275. -/
def execAllgather (d a b : GReg) (m : BitVec 2) (s : State) := collective 1 d a b m s
/-- R271 to R275. -/
def execReducescatter (d a b : GReg) (m : BitVec 2) (s : State) := collective 2 d a b m s
/-- R271 to R275. -/
def execAlltoall (d a b : GReg) (m : BitVec 2) (s : State) := collective 3 d a b m s
/-- R271 to R275. -/
def execBcast (d a b : GReg) (m : BitVec 2) (s : State) := collective 4 d a b m s
/-- R271 to R275. -/
def execCbar (d a b : GReg) (m : BitVec 2) (s : State) := collective 5 d a b m s

/-- R276. -/
def execCstat (d a b : GReg) (m : BitVec 2) (s : State) : Host.Outcome State Fault Refusal :=
  plainCop 6 0 (fun x y _ => x == 0 && y == 0) d a b m s

/-- R276: the stream's collectives not yet complete, and the episode number of the one issued first. -/
def copCstat : CopFn := fun r s =>
  match s.reqs.filter fun q => q.tid == r.tid && q.core == r.core && decide (q.fn7 < 6) && q.phase != 9 with
  | [] => (s, .done 0 0)
  | q :: l => (s, .word (BitVec.ofNat 32 ((l.length + 1) % 256 * 256 + (q.ep.map (·.ep)).getD 0 % 65536 * 65536)))

/-! ### Participants and ranks (R272) -/

/-- The tasks of the package that take part, resident and saved. -/
def State.participants (s : State) (k : EpKey) : List Task :=
  ((s.taskTiles k.cnum).filter fun t => takesEp k t.task t.ptile.toNat).map (·.task)

/-- The requests of an episode that the engine has received and not ended. -/
def State.epReqs (s : State) (k : EpKey) : List Req := s.reqs.filter fun r => r.ep == some k && r.phase == 1

/-- The lowest logical package of a context that names this package (R31). -/
def State.ownPkg (s : State) (cnum : Nat) : Nat :=
  ((s.ctx? cnum).map fun c => (c.pmap.filter fun e => e.p == s.self).foldl (fun m e => min m e.l) 4096).getD 4096 % 4096

/-- Every participant of the package has issued. -/
def State.epFull (s : State) (k : EpKey) : Bool :=
  (s.participants k).all fun t => (s.epReqs k).any fun r => r.tid == t.id

/-- The engine receives a collective (R272): an episode already broken gives MEMBERLOST (R435); the last participant of the package lets
the engine begin. -/
def copCollective : CopFn := fun r s =>
  match r.ep with
  | none => (s, .done stInvalid 0)
  | some k =>
    if s.gone.contains k then (s, .done stLost 0) else
    let t := s.mapReq r.n fun q => { q with phase := 1 }
    (if t.epFull k then t.after 0 .collectiveEpisode (.ep k) else t, .running)

/-- A participant's request, and its source bytes read with its tile in focus, with the fault that stopped the read: a source that cannot
be read leaves them short. -/
def State.partOf (s : State) (r : Req) : Option (Part × Option EFault) :=
  match s.taskTile r.tid with
  | none => none
  | some t =>
    (s.swap t.ptile).map fun u =>
      let h := blockSrc r.block
      let g := blockDst r.block
      let mk (data : List Byte) : Part :=
        { pkg := s.ownPkg r.cnum, tile := t.task.ltile, fn7 := r.fn7, ctl := blockCtl r.block, root := BitVec.ofNat 32 (blockNat r.block 4 4)
          srcFmt := BitVec.ofNat 4 (Handle.fmt h), dstFmt := BitVec.ofNat 4 (Handle.fmt g), srcBytes := Handle.bytes h
          dstBytes := Handle.bytes g, data := data }
      if r.fn7 = 5 then ({ mk [] with srcFmt := 0, dstFmt := 0, srcBytes := 0, dstBytes := 0 }, none) else
      match readSides u h (u.unitOfHandle h) ((List.range (Handle.bytes h)).map (Handle.byteAddr h)) with
      | .ok bs => (mk bs, none)
      | .error e => (mk [], some e)

/-- Whether a source that the collective reads could not be read: of a bcast the root's only (R271, R273). -/
def collUnread (l : List Part) : Bool :=
  let short (p : Part) : Bool := p.data.length != p.srcBytes
  match l with
  | [] => false
  | x :: _ => if x.fn7 = 4 then ((l[x.root.toNat]?).map short).getD false else l.any short

/-- The order of ranks. -/
def partLe (x y : Part) : Bool := decide (x.pkg < y.pkg ∨ (x.pkg = y.pkg ∧ x.tile ≤ y.tile))

/-- The parts in rank order. -/
def rankParts (l : List Part) : List Part := l.foldr (fun x r => r.takeWhile (fun y => !partLe x y) ++ x :: r.dropWhile fun y => !partLe x y) []

/-- Whether all parts agree on something. -/
def agree {α : Type} [BEq α] (l : List Part) (f : Part → α) : Bool :=
  match l with
  | [] => true
  | x :: xs => xs.all fun y => f y == f x

/-- The STATUS that the requests give before any byte moves (R272, R273). For source formats of a moving function that differ between ranks
R273 names no STATUS: SHAPE, as for the other differences of R272 (DESIGN CHOICE, log 13). -/
def collCheck (l : List Part) : Nat :=
  match l with
  | [] => 0
  | x :: _ =>
    let n := l.length
    let root := x.root.toNat
    let size : Bool := match x.fn7 with
      | 0 => agree l (·.srcBytes) && l.all fun p => p.srcBytes == p.dstBytes
      | 1 => agree l (·.srcBytes) && l.all fun p => p.dstBytes == n * p.srcBytes
      | 2 => agree l (·.dstBytes) && l.all fun p => p.srcBytes == n * p.dstBytes
      | 3 => agree l (·.srcBytes) && l.all fun p => p.srcBytes == p.dstBytes && p.srcBytes % n == 0
      | 4 => agree l (·.dstBytes) && (match l[root]? with
        | some p => p.srcBytes == p.dstBytes
        | none => true)
      | _ => true
    if agree l (·.fn7) = false ∨ agree l (fun p => collRed p.ctl) = false ∨ agree l (·.root) = false ∨
        agree l (·.dstFmt) = false ∨ size = false then stShape
    else if x.fn7 = 4 ∧ n ≤ root then stInvalid
    else if isReduce x.fn7 then
      (if l.all (fun p => p.srcFmt == x.dstFmt) && sumFmt ((Fmt.ofCode x.dstFmt.toNat).getD .empty) then 0 else stInvalid)
    else if x.fn7 ≠ 4 ∧ agree l (·.srcFmt) = false then stShape
    else 0

/-- One step of a reduction (R274). -/
def redElem (f : Fmt) (red x y : Nat) : Nat :=
  if red = 0 then sumElem f x y
  else if f = .int32 then pickInt (red == 1) .int32 x y
  else pickFp (red == 1) f x y

/-- Element e of a byte list, w bytes wide. -/
def byteElem (bs : List Byte) (w e : Nat) : Nat := leNat ((bs.drop (e * w)).take w)

/-- The destination bytes of rank r (R273, R274); free numbers the free choices of the order. -/
def collResult (l : List Part) (free r : Nat) : List Byte :=
  match l with
  | [] => []
  | x :: _ =>
    let f := (Fmt.ofCode x.dstFmt.toNat).getD .empty
    let w := f.width / 8
    let red (off n : Nat) : List Byte := (List.range n).flatMap fun e =>
      leBytes w (combine (redElem f (collRed x.ctl)) l.length (Config.freeValue (free + off + e) (48 * l.length) % 2 ^ (48 * l.length))
        (l.map fun p => byteElem p.data w (off + e)))
    match x.fn7 with
    | 0 => red 0 (x.dstBytes / w)
    | 1 => l.flatMap (·.data)
    | 2 => red (r * (x.dstBytes / w)) (x.dstBytes / w)
    | 3 => l.flatMap fun p => (p.data.drop (r * (p.srcBytes / l.length))).take (p.srcBytes / l.length)
    | 4 => ((l[x.root.toNat]?).map (·.data)).getD []
    | _ => []

/-- A request ended with a STATUS; its reply follows. -/
def State.endReq (s : State) (n status : Nat) : State :=
  (s.mapReq n fun r => { r with phase := 9, status := status, word := replyWord status 0 }).after 0 .copReply (.num n)

/-- The destination of one participant written; a fault of the write is its STATUS FAULT. -/
def State.writeDst (s : State) (r : Req) (bs : List Byte) : State :=
  if r.fn7 = 5 then s.endReq r.n 0 else
  match (s.taskTile r.tid).bind fun t => s.swap t.ptile with
  | none => s.endReq r.n 0
  | some u =>
    let h := blockDst r.block
    match writeSides u h (u.unitOfHandle h) (((List.range bs.length).map (Handle.byteAddr h)).zip bs) with
    | .error _ => s.endReq r.n stFault
    | .ok v => ((v.plainKeys (if v.converting then v.destOf h bs.length else [])).swap s.tile.ptile |>.getD s).endReq r.n 0

/-- The packages whose participants a collective needs besides this one's: those of a lost package are gone (R434). -/
def State.epFar (s : State) (k : EpKey) : List PkgMap :=
  if k.scope = 4 then (s.farPkgs k.cnum).filter fun e => !s.lostPkgs.contains e.p else []

/-- The participants that a package has told of an episode. -/
def State.toldBy (s : State) (k : EpKey) (p : BitVec 12) : Option (List Part) := (s.parts.find? fun x => x.1 == p && x.2.1 == k).map (·.2.2)

/-- The participants of this package, read once, and told to the other packages that take part (R272). -/
def State.tellParts (s : State) (k : EpKey) (ps : List (Part × Option EFault)) : State :=
  let s := ps.foldl (fun t p => match p.2 with
    | some ⟨.memError, _, a⟩ => t.deviceError .memError k.cnum a 1
    | _ => t) { s with parts := (s.self, k, ps.map (·.1)) :: s.parts }
  if k.scope = 4 then s.tellAll k.cnum fun ctx sctx => .collParts s.self ctx sctx k (ps.map (·.1)) else s

/-- The engine compares the requests of every participant and performs or rejects the collective (R272, R273). -/
def State.performEp (s : State) (k : EpKey) (rs : List Req) (l : List Part) : State :=
  let s : State := { s with parts := s.parts.filter fun x => x.2.1 ≠ k }
  let st := if collCheck l ≠ 0 then collCheck l else if collUnread l then stFault else 0
  if st ≠ 0 then rs.foldl (fun t r => t.endReq r.n st) s else
  let rank (r : Req) : Nat := l.findIdx fun p => p.pkg == s.ownPkg r.cnum && some p.tile == (s.taskTile r.tid).map (·.task.ltile)
  rs.foldl (fun t r => t.writeDst r (collResult l s.freeN (rank r))) { s with freeN := s.freeN + (l.foldl (fun n p => n + p.srcBytes) 0) }

/-- R272: the participants of this package are read and told; when every package has told its own, the collective is performed or rejected.
A participant whose task is saved is waited for. -/
def execCollectiveEpisode (s : State) : Host.Outcome State Fault Refusal :=
  match s.arg with
  | .ep k =>
    let rs := s.epReqs k
    if rs = [] ∨ s.epFull k = false ∨ s.gone.contains k = true then .next s else
    match rs.mapM s.partOf with
    | none => .next (s.after 64 .collectiveEpisode (.ep k))
    | some ps =>
      let s := if (s.toldBy k s.self).isSome then s
        else rs.foldl (fun t r => if r.fn7 = 5 then t else t.yieldHandle r.cnum (blockSrc r.block)) (s.tellParts k ps)
      match (s.self :: (s.epFar k).map (·.p)).mapM (s.toldBy k) with
      | none => .next s
      | some l => .next (s.performEp k rs (rankParts l.flatten))
  | _ => .next s

/-- The destination of a participant left undefined (R274): free bytes. -/
def State.freeDst (s : State) (r : Req) : State :=
  if r.fn7 = 5 then s else
  let h := blockDst r.block
  let n := Handle.bytes h
  match (s.taskTile r.tid).bind fun t => s.swap t.ptile with
  | none => s
  | some u =>
    let (x, u) := u.freeVal (8 * n)
    match writeSides u h (u.unitOfHandle h) (((List.range n).map (Handle.byteAddr h)).zip (leBytes n x)) with
    | .error _ => s
    | .ok v => (v.swap s.tile.ptile).getD s

/-- The outstanding requests of an episode. -/
def State.epOpen (s : State) (k : EpKey) : List Req := s.reqs.filter fun r => r.ep == some k && r.phase != 9

/-- R274: every participant that remains receives MEMBERLOST, and so does one that issues later in the episode (R435); their destinations
become undefined as they receive it. -/
def execMemberLost (s : State) : Host.Outcome State Fault Refusal :=
  match s.arg with
  | .ep k => .next ((s.epOpen k).foldl (fun t r => t.endReq r.n stLost)
      { s with gone := k :: s.gone.filter (· ≠ k), parts := s.parts.filter fun x => x.2.1 ≠ k })
  | _ => .next s

/-- An episode that is under way is broken: it ends for its participants here, and the other packages that take part are told (R435). -/
def State.breakEp (s : State) (k : EpKey) : State :=
  if s.gone.contains k then s else
  let t := ({ s with gone := k :: s.gone } : State).after copDelay .memberLost (.ep k)
  if k.scope = 4 then t.tellAll k.cnum fun ctx sctx => .memberLost t.self ctx sctx k true else t

/-- A task is killed: the episodes under way that it takes part in are broken. One at .pod may be under way in other packages alone: they
are asked to break it where it is (R435). -/
def State.memberKilled (s : State) (t : Tile) : State :=
  let ks := ((s.reqs.filter fun r => r.phase != 9).filterMap (·.ep)).eraseDups.filter fun k => takesEp k t.task t.ptile.toNat
  let s := ks.foldl State.breakEp s
  if t.task.gang = false then s else
  [CoreId.load, .compute, .store].foldl (fun u c =>
    let k := epKeyOf t.task 0 4 c ((t.core c).collN[4] + 1)
    if u.gone.contains k then u else u.tellAll k.cnum fun ctx sctx => .memberLost u.self ctx sctx k false) s

end Sys2Proof.Machine
end

