-- ==== Sys2Proof/Machine/Fetch.lean ====
section
/-! DEFINITION. Whose turn it is, the fetch (R162, R372), the end of a cycle and the tumbler (R53, R54). -/

namespace Sys2Proof.Machine

/-- The base of a task's code section (R370). -/
def codeBase : Nat := 0x10000

/-- The bytes of a code page (R369). -/
def codePage : Nat := 65536

/-- A generation serves a task: one that is UNLOADING serves those that started before its epoch (R373). -/
def Code.serves (c : Code) (t : Task) : Bool := match c.unload with
  | none => true
  | some u => decide (t.epoch < u)

/-- The loaded generation that a task runs. -/
def State.codeOf (s : State) (t : Task) : Option Code :=
  s.codes.find? fun c => decide (c.cnum = t.cnum ∧ c.ident = t.code ∧ c.gen = t.gen) && c.serves t

/-- What a fetch gives. -/
inductive Fetched where
  | word (w : Word)
  /-- the page has not been checked: it is read and checked first (R372); or the generation is quarantined (R447). -/
  | page (k : Nat)
  | fault (t : Trap)
  deriving DecidableEq, Repr

/-- The fetch at the PC of the core with the turn (R162). -/
def State.fetch (s : State) : Fetched :=
  let a := s.core.pc.toNat
  match s.codeOf s.tile.task with
  | none => .fault { cls := .codeRange, access := 3, addr := a }
  | some c =>
    if c.quarantined then .page 0 else
    if a % 4 ≠ 0 ∨ a < codeBase ∨ codeBase + c.size ≤ a then .fault { cls := .codeRange, access := 3, addr := a } else
    if c.checked.contains ((a - codeBase) / codePage) then .word (BitVec.ofNat 32 (s.readNat (codeKey c.slot + (a - codeBase)) 4))
    else .page ((a - codeBase) / codePage)

/-- Whether the stream with the turn may issue now (R133, R195, R411). -/
def State.mayIssue (s : State) : Bool :=
  s.tile.resident && !s.tile.halted && !s.core.fin && s.core.hold.isNone && decide (s.core.next ≤ s.now)

/-- The instruction a word stands for on a core; a reserved encoding is the step that raises OP.RESERVED (R425). -/
def instrOf (c : CoreId) (w : Word) : Instr :=
  match decode c w with
  | .ok i => i
  | .error _ => .reservedEncoding w

/-- A stream that nothing but another stream of its tile can free (R53). -/
def CoreSt.parked (c : CoreSt) : Bool :=
  c.fin || (match c.wait with
    | .take => true
    | .reserve => true
    | .hbarTile => true
    | .bar _ tile => tile
    | .run => false
    | .barGone => false
    | .other => false)

/-- Whether an asynchronous operation of the task that can still complete is outstanding (R54). -/
def State.outstanding (s : State) (t : Tile) : Bool :=
  t.ops.any (fun o => o.fault.isNone) || !t.mmas.isEmpty || !t.epis.isEmpty || s.reqs.any fun r => r.tid == t.task.id

/-- The tumbler's cycle (R54): a stopped tile's counter holds. -/
def State.tumble (s : State) (t : Tile) : Tile :=
  if t.halted then t else
  if t.resident && t.lc.parked && t.cc.parked && t.sc.parked && !(t.lc.fin && t.cc.fin && t.sc.fin) && !s.outstanding t then
    { t with tumbler := t.tumbler + 1 }
  else { t with tumbler := 0 }

/-- A tile whose tumbler has reached its bound raises DEADLOCK (R54). -/
def tumbled (s : State) : List Tile → State
  | [] => s
  | t :: ts => tumbled (if t.tumbler = 4096 ∧ t.stop = none then s.after 0 .deadlock (.tile t.ptile) else s) ts

/-- The end of a cycle. -/
def State.endCycle (s : State) : State :=
  let t := { s with tile := s.tumble s.tile, rest := s.rest.map s.tumble, now := s.now + 1, turn := 0 }
  tumbled t t.tiles

/-- The turn passes to the next core, from the store core to the next tile, and after the last tile to the next cycle. -/
def State.rotate (s : State) : State :=
  match s.sel with
  | .load => { s with sel := .compute }
  | .compute => { s with sel := .store }
  | .store =>
    let t := match s.rest with
      | [] => s
      | u :: us => { s with tile := u, rest := us ++ [s.tile] }
    let t := { t with sel := .load, turn := s.turn + 1 }
    if s.rest.length < t.turn then t.endCycle else t

/-- The outcome with the turn passed on. -/
def passTurn : Host.Outcome State Fault Refusal → Host.Outcome State Fault Refusal
  | .next s => .next s.rotate
  | .fault f => .fault f
  | .refused r => .refused r

/-- The task and code that a test word runs in: the word is the first of the code section of a resident task with the state of R36,
on the core that the word is for, and no event is due before it. -/
def State.placeWord (s : State) (c : CoreId) (w : Word) : State :=
  let x : CoreSt := { CoreSt.empty with pc := 0x10000, fin := false, next := s.now }
  let t : Tile := { s.tile with resident := true, owner := some 0, stop := none, saving := none, lc := x, cc := x, sc := x
                                task := { limit := 2 ^ 21, code := 1, gen := 1 } }
  ({ s with tile := t, sel := c, due := [], codes := [{ cnum := 0, ident := 1, gen := 1, slot := 0, size := 4, checked := [0] }] }
    : State).writeNat (codeKey 0) 4 w.toNat

end Sys2Proof.Machine
end

