-- ==== Sys2Proof/Machine/Csr.lean ====
section
/-! DEFINITION. Control and status registers (R31, R65, R180, R181). -/

namespace Sys2Proof.Machine

/-- PLACE (R31). -/
def State.place (s : State) : Word :=
  let l := s.tile.task.ltile
  let own := ((s.ctx? s.tile.task.cnum).map fun c => (c.pmap.filter fun e => e.p == s.self).map (·.l)).getD []
  let pkg := own.foldl (fun m x => match m with | none => some x | some y => some (min x y)) none
  BitVec.ofNat 32 (l + (l / 4) * 2 ^ 8 + (l / 32) * 2 ^ 14 + (pkg.getD 0) * 2 ^ 20)

/-- TOKSTAT (R181). -/
def State.tokstat (s : State) : Word :=
  let a := nbr s.sel false
  let b := nbr s.sel true
  BitVec.ofNat 32 ((s.tile.q.get a s.sel).run s.now + (s.tile.q.get b s.sel).run s.now * 2 ^ 8 +
    (s.tile.q.get s.sel a).free s.now * 2 ^ 16 + (s.tile.q.get s.sel b).free s.now * 2 ^ 24)

/-- The loop frame numbered from the outermost (R181). -/
def CoreSt.frame (c : CoreSt) (n : Nat) : LoopFrame := (c.loops.reverse[n]?).getD ⟨0, 0, 0⟩

/-- The value of a CSR; none where the number is not in the table or names a compute-only CSR on a transfer core (R181). -/
def State.csr (s : State) (n : Nat) : Option Word :=
  let c := s.core
  match n with
  | 0x000 => some (BitVec.ofNat 32 (c.precise.toNat + 2 * c.checkstall.toNat))
  | 0x001 => some c.stklim
  | 0x002 => some s.place
  | 0x003 => some s.tokstat
  | 0x004 => some ((s.guestTime s.tile.task.cnum).truncate 32)
  | 0x005 => some c.timeh
  | 0x008 => some (BitVec.ofNat 32 c.loops.length)
  | 0x010 => some (c.frame 0).start
  | 0x011 => some (c.frame 1).start
  | 0x012 => some (c.frame 2).start
  | 0x013 => some (c.frame 3).start
  | 0x014 => some (c.frame 0).stop
  | 0x015 => some (c.frame 1).stop
  | 0x016 => some (c.frame 2).stop
  | 0x017 => some (c.frame 3).stop
  | 0x018 => some (c.frame 0).count
  | 0x019 => some (c.frame 1).count
  | 0x01A => some (c.frame 2).count
  | 0x01B => some (c.frame 3).count
  | 0x0A0 => if s.sel = .compute then some (s.tile.vallot.zeroExtend 32) else none
  | 0x0A1 => if s.sel = .compute then some (s.tile.vgrp.zeroExtend 32) else none
  | 0x0B0 => if s.sel = .compute then some (s.tile.ringHd.zeroExtend 32) else none
  | 0x0B1 => if s.sel = .compute then some (s.tile.ringTl.zeroExtend 32) else none
  | 0x0C0 => if s.sel = .compute then some (BitVec.ofNat 32 s.tile.rmode.code) else none
  | 0x0C1 => if s.sel = .compute then some s.tile.lfsrc else none
  | 0x0C2 => if s.sel = .compute then some s.tile.lfsre else none
  | _ => none

/-- The CSRs that a program may write (R181). -/
def csrWritable (n : Nat) : Bool :=
  match n with
  | 0x000 | 0x001 | 0x0A1 | 0x0C0 | 0x0C1 | 0x0C2 => true
  | _ => false

/-- VGRP as written: 0 stores 1, above 8 stores 8 (R181). -/
def vgrpOf (x : Word) : BitVec 4 :=
  let f := fld 0 4 x
  if f = 0 then 1 else if 8 < f.toNat then 8 else f

/-- A write to a CSR, with the mapping of its field (R65, R68, R181). -/
def State.putCsr (s : State) (n : Nat) (x : Word) : State :=
  match n with
  | 0x000 => s.setCore { s.core with precise := x.getLsbD 0, checkstall := x.getLsbD 1 }
  | 0x001 => s.setCore { s.core with stklim := x }
  | 0x0A1 => s.setTile { s.tile with vgrp := vgrpOf x }
  | 0x0C0 => s.setTile { s.tile with rmode := Rm.ofCode (fld 0 3 x).toNat }
  | 0x0C1 => s.setTile { s.tile with lfsrc := if x = 0 then 1 else x }
  | 0x0C2 => s.setTile { s.tile with lfsre := if x = 0 then 1 else x }
  | _ => s

/-- A read of TIME latches the high half into TIMEH (R181). -/
def State.latch (s : State) (n : Nat) : State :=
  if n = 4 then s.setCore { s.core with timeh := fld 32 32 (s.guestTime s.tile.task.cnum) } else s

/-- A CSR read, with a write of f(old) where `writes` is set (R180, R181). -/
def csrOp (d : GReg) (reads : List GReg) (n : Nat) (writes : Bool) (f : Word → Word) (s : State) : Host.Outcome State Fault Refusal :=
  common s reads [d] (
    match s.csr n with
    | none => .error (.trap { cls := .csrAccess })
    | some old => do
      check (writes = false ∨ csrWritable n = true) { cls := .csrAccess }
      let t := s.latch n
      .ok ((if writes then t.putCsr n (f old) else t).putG d old).retire)

/-- R180. -/
def execCsrR (d : GReg) (c : BitVec 12) (s : State) := csrOp d [] c.toNat false id s
/-- R180. -/
def execCsrW (d a : GReg) (c : BitVec 12) (s : State) := csrOp d [a] c.toNat true (fun _ => s.g a) s
/-- R180: with ga = g0 a read. -/
def execCsrS (d a : GReg) (c : BitVec 12) (s : State) := csrOp d [a] c.toNat (decide (a ≠ 0)) (fun x => x ||| s.g a) s
/-- R180: with ga = g0 a read. -/
def execCsrC (d a : GReg) (c : BitVec 12) (s : State) := csrOp d [a] c.toNat (decide (a ≠ 0)) (fun x => x &&& ~~~s.g a) s

/-- A read of TIME (R181): what csr.r does with CSR 0x004. -/
def execTime (d : GReg) (s : State) := csrOp d [] 4 false id s

end Sys2Proof.Machine
end

