-- ==== Sys2Proof/Machine/Matrix.lean ====
section
/-! DEFINITION. Matrix, ring and epilogue instructions and the steps of the array and the epilogue engine (chapter 10). The array
applies the K-steps of its oldest operation one by one (R252, R263). A ring instruction that acts on a slot at its issue waits until the
array has applied every earlier K-step to it (R249, R262). An epi takes its effect at its completion. -/

namespace Sys2Proof.Machine

/-! ### The ring (R90, R248) -/

/-- The occupancy. -/
def Tile.occupancy (t : Tile) : Nat := (t.ringHd - t.ringTl).toNat

/-- The newest slot. -/
def Tile.newest (t : Tile) : Nat := (t.ringHd - 1).toNat % 8

/-- The key of element (i, j) of a slot. -/
def accKey (t : Tile) (slot i j : Nat) : Nat := ringKey t.ptile.toNat slot + 4 * (64 * i + j)

/-- RING.EMPTY. -/
def ringUsed (s : State) : Act Unit := check (s.tile.occupancy ≠ 0) { cls := .ringEmpty }

/-- Whether the array has K-steps to apply to a slot. -/
def Tile.working (t : Tile) (slot : Nat) : Bool := t.mmas.any fun m => m.slot.toNat % 8 == slot

/-- Ring order (R249): every earlier K-step has been applied to a slot. -/
def ringOrder (s : State) (slot : Nat) : Act Unit := await (s.tile.working slot = false) .other

/-- The elements of a slot's first m rows and n columns hold no uncorrectable error (R444). -/
def slotClean (s : State) (slot n : Nat) : List Nat → Act Unit
  | [] => .ok ()
  | i :: is => do
    clean s (accKey s.tile slot i 0) (4 * n) 0 1
    slotClean s slot n is

/-- R250. -/
def execRnext (k : Tok) (s : State) : Host.Outcome State Fault Refusal :=
  priv s k s.token (.ok ()) [] [] [] fun t => do
    check (t.tile.occupancy ≠ 8) { cls := .ringFull }
    let slot := t.tile.ringHd.toNat % 8
    await (t.tile.epis.any (fun e => e.slot.toNat % 8 == slot) = false) .other
    .ok ((t.zeroBytes (ringKey t.tile.ptile.toNat slot) 16384).setTile { t.tile with ringHd := t.tile.ringHd + 1 })

/-- R250. -/
def execRzero (k : Tok) (s : State) : Host.Outcome State Fault Refusal :=
  priv s k s.token (.ok ()) [] [] [] fun t => do
    ringUsed t
    ringOrder t t.tile.newest
    .ok (t.zeroBytes (ringKey t.tile.ptile.toNat t.tile.newest) 16384)

/-! ### Operands (R245 to R247) -/

/-- A format whose operands carry block scales (R61). -/
def Fmt.scaled : Fmt → Bool
  | .e4m3 | .e5m2 | .ds8 => true
  | .empty | .int32 | .int16 | .int8 | .uint8 | .fp32 | .bf16 | .fp16 => false

/-- The 8-bit floating-point formats. -/
def Fmt.isFp8 (f : Fmt) : Bool := f == .e4m3 || f == .e5m2

/-- The cycles of a K-step of a format pair, none for a pair outside the table (R246). -/
def pairCycles (a b : Fmt) : Option Nat :=
  if (a = .bf16 ∧ b = .bf16) ∨ (a = .fp16 ∧ b = .fp16) then some 16 else
  if a.isFp8 = true ∧ b.isFp8 = true then some 8 else
  if a = .bf16 ∧ b = .ds8 then some 8 else
  if a.isFp8 = true ∧ b = .ds8 then some 4 else none

/-- ScaleAddr(h, r, 0) (R247), with KB blocks a row. -/
def scaleAddr (h : Handle) (r kb : Nat) : Int := Handle.base h + 2 * Handle.soff h + 2 * (r * kb)

/-- The address of row r of an operand. -/
def rowAt (h : Handle) (r : Nat) : Int := Handle.addr h 0 r 0 0

/-- n bytes within the tile window and below the task's limit (R37). -/
def tileSpan (s : State) (a : Int) (n acc : Nat) : Act Unit :=
  let lim := min (2 ^ 21) s.tile.task.limit
  check (0 ≤ a ∧ a.toNat + n ≤ lim) { cls := .scratchRange, access := acc, addr := if a < 0 then addrNat a else max a.toNat lim }

/-- Every span of a list is accessible. -/
def spansOk (s : State) (acc : Nat) : List (Int × Nat) → Act Unit
  | [] => .ok ()
  | (a, n) :: r => do
    tileSpan s a n acc
    spansOk s acc r

/-- Spans that are read: port pushes in their way have landed (R213), and they hold no uncorrectable error (R444). -/
def spansClean (s : State) : List (Int × Nat) → Act Unit
  | [] => .ok ()
  | (a, n) :: r => do
    pushed s (tileKey s.tile.ptile.toNat + a.toNat) n
    clean s (tileKey s.tile.ptile.toNat + a.toNat) n a.toNat 1
    spansClean s r

/-- The spans of a list of operand rows: each row's elements, then its scales. R251 orders A before B and the rows as they increase; that a
row's elements come before its scales, and that mma.gx takes its rows in lane order, is the model's (DESIGN CHOICE, log 16). -/
def rowSpans (h : Handle) (kb : Nat) (rows : List Nat) : List (Int × Nat) :=
  rows.flatMap fun r => (rowAt h r, Handle.ext h 0 * Handle.width h) ::
    (if (Handle.format h).scaled then [(scaleAddr h r kb, 2 * kb)] else [])

/-- A number of w bytes at a tile scratch address. -/
def State.tileNat (s : State) (a : Int) (w : Nat) : Nat := s.readNat (tileKey s.tile.ptile.toNat + a.toNat) w

/-- The sixteen values of row r in block b. -/
def rowVals (s : State) (h : Handle) (r b : Nat) : List FpNum :=
  (List.range 16).map fun (i : Nat) =>
    elemVal (Handle.format h) (s.tileNat (rowAt h r + Int.ofNat ((16 * b + i) * Handle.width h)) (Handle.width h))

/-- The scale of row r in block b, of kb blocks; 1.0 where the format has none. -/
def rowScale (s : State) (h : Handle) (r kb b : Nat) : FpNum :=
  if (Handle.format h).scaled then sc16Val (s.tileNat (scaleAddr h r kb + Int.ofNat (2 * b)) 2) else .fin false 1 0

/-! ### K-steps (R252) -/

/-- Bytes of a list of words. -/
def wordBytes (l : List Nat) : List Byte := l.flatMap (leBytes 4)

/-- The new accumulators of output row i after one K-step: the row's scale and values, and those of each column. -/
def rowStep (s : State) (slot i : Nat) (sa : FpNum) (as : List FpNum) (cols : List (FpNum × List FpNum)) : List Nat :=
  cols.zipIdx.map fun x => kStep (s.readNat (accKey s.tile slot i x.2) 4) sa x.1.1 ((as.zip x.1.2).map fun y => y.1.mul y.2)

/-- One K-step, block b of kb, on a slot: output row i takes operand row r for each pair (i, r). -/
def stepRows (ha : Handle) (kb b slot : Nat) (cols : List (FpNum × List FpNum)) : State → List (Nat × Nat) → State
  | s, [] => s
  | s, (i, r) :: rs =>
    stepRows ha kb b slot cols
      (s.writeBytes (accKey s.tile slot i 0) (wordBytes (rowStep s slot i (rowScale s ha r kb b) (rowVals s ha r b) cols))) rs

/-! ### mma and mma.gx (R251, R255) -/

/-- MATRIX.INDEX, and the operand rows that the lanes name: a lane of all ones skips its row (R255). -/
def gatherRows (t : Nat) : List (Nat × Nat) → Act (List (Nat × Nat))
  | [] => .ok []
  | (u, i) :: us =>
    if u = 2 ^ 32 - 1 then gatherRows t us else do
    check (u < t) { cls := .matrixIndex }
    let rs ← gatherRows t us
    .ok ((i, u) :: rs)

/-- R244, R251 to R255: vi is the index vector of mma.gx. The record of a MISALIGN gives the handle's BASE, also where STR1 is at fault,
and a read: R251 names neither field (DESIGN CHOICE, log 16). An uncorrectable error that the operands hold raises MEM.ERROR at the issue,
after the listed checks; one that strikes them later has no effect, as the array never faults after issue (R251, R264; DEDUCED, log
17). -/
def matrixOp (k : Tok) (vi : Option VCode) (b c : HReg) (s : State) : Host.Outcome State Fault Refusal :=
  let vs := vi.toList
  priv s k (.pending (.mma s.tile.nextId)) (vregRange s vs) [] (vregs vs ++ [.h b, .h c]) [] fun t => do
    let ha := t.h b
    let hb := t.h c
    handleForm t ha false true
    check (Handle.level ha = 0) { cls := .handleForm }
    handleForm t hb false true
    check (Handle.level hb = 0) { cls := .handleForm }
    let cyc := pairCycles (Handle.format ha) (Handle.format hb)
    check (cyc.isSome = true ∧ vs.all (fun v => t.tile.srcTag v == some .int32) = true) { cls := .tagCheck }
    let kk := Handle.ext ha 0
    let kb := kk / 16
    let n := Handle.ext hb 1
    let m := Handle.ext ha 1
    check (16 ≤ kk ∧ kk % 16 = 0 ∧ Handle.ext hb 0 = kk ∧ 1 ≤ n ∧ n ≤ 64 ∧ 1 ≤ m ∧ (vi = none → m ≤ 64) ∧
      Handle.ext ha 2 = 1 ∧ Handle.ext ha 3 = 1 ∧ Handle.ext hb 2 = 1 ∧ Handle.ext hb 3 = 1) { cls := .matrixShape }
    let x : BitVec 2048 := (vi.bind fun v => t.tile.v[v.toNat]?).getD 0
    let rows ← (match vi with
      | none => .ok ((List.range m).map fun i => (i, i))
      | some _ => gatherRows m (lanes x).zipIdx : Act (List (Nat × Nat)))
    check (Handle.base ha % 4 = 0 ∧ Handle.str ha 1 % 4 = 0) { cls := .misalign, access := 1, addr := Handle.base ha }
    check (Handle.base hb % 4 = 0 ∧ Handle.str hb 1 % 4 = 0) { cls := .misalign, access := 1, addr := Handle.base hb }
    let reads := rowSpans ha kb (rows.map (·.2)) ++ rowSpans hb kb (List.range n)
    spansOk t 1 reads
    ringUsed t
    await (t.tile.mmas.length < 5) .other
    spansClean t reads
    slotClean t t.tile.newest n (rows.map (·.1))
    let op : Mma := { id := t.tile.nextId, a := some b, b := c, ha := ha, hb := hb, slot := t.tile.ringHd - 1, steps := 0
                      gather := vi.isSome, lanes := x }
    let u := t.setTile { t.tile with mmas := t.tile.mmas ++ [op], nextId := t.tile.nextId + 1 }
    .ok (if t.tile.mmas = [] then u.after ((if vi.isSome then 32 else 24) + cyc.getD 0) .mmaCompletion (.tile u.tile.ptile) else u)

/-- R251, R252. -/
def execMma (k : Tok) (b c : HReg) (s : State) : Host.Outcome State Fault Refusal := matrixOp k none b c s

/-- R255. -/
def execMmaGx (k : Tok) (a : VCode) (b c : HReg) (s : State) : Host.Outcome State Fault Refusal := matrixOp k (some a) b c s

/-! ### mscale (R256) -/

/-- The words of a slot's row, each multiplied by a factor. -/
def scaleRow (s : State) (slot i : Nat) (f : Nat → Nat) : List Nat :=
  (List.range 64).map fun j => fpRound .fp32 .rne 0 ((fpVal .fp32 (s.readNat (accKey s.tile slot i j) 4)).mul (fpVal .fp32 (f j)))

/-- The slot multiplied by the factors. -/
def scaleSlot (s : State) (slot : Nat) (f : Nat → Nat → Nat) : State :=
  (List.range 64).foldl (fun t i => t.writeBytes (accKey t.tile slot i 0) (wordBytes (scaleRow t slot i (f i)))) s

/-- An mscale: f gives the lane of element (i, j). -/
def mscale (lane : Nat → Nat → Nat) (k : Tok) (a : VCode) (s : State) : Host.Outcome State Fault Refusal :=
  priv s k s.token (vregRange s [a]) [] (vregs [a]) [] fun t => do
    check (t.tile.srcTag a = some .fp32) { cls := .tagCheck }
    let (x, u) ← popOne t a
    ringUsed u
    ringOrder u u.tile.newest
    popsClean t [a]
    slotClean u u.tile.newest 64 (List.range 64)
    .ok (scaleSlot u u.tile.newest fun i j => nth (lanes x) (lane i j))

/-- R256. -/
def execMscaleRow (k : Tok) (a : VCode) (s : State) : Host.Outcome State Fault Refusal := mscale (fun i _ => i) k a s
/-- R256. -/
def execMscaleCol (k : Tok) (a : VCode) (s : State) : Host.Outcome State Fault Refusal := mscale (fun _ j => j) k a s

/-! ### epi (R257 to R260) -/

/-- Fields of the epilogue command word. -/
def epiScale (w : Word) : Bool := w.getLsbD 3
/-- BIAS. -/
def epiBias (w : Word) : Bool := w.getLsbD 4
/-- ACT. -/
def epiAct (w : Word) : Nat := (fld 5 2 w).toNat

/-- The parameter bytes that a command reads: offset in the block and length, n columns (R257). -/
def epiParams (w : Word) (n : Nat) : List (Nat × Nat) :=
  (if epiScale w then [(0, 4 * n)] else []) ++ (if epiBias w then [(256, 4 * n)] else []) ++ (if epiAct w = 2 then [(512, 8)] else [])

/-- An LFSR state after n draws. -/
def afterDraws (l : Word) : Nat → Word
  | 0 => l
  | n + 1 => afterDraws (drawIf true l).2 n

/-- R257, R258: an accepted epi advances RINGTL at issue, and its draws are the next of LFSRE in the order of issue (R69, R181): LFSRE
stands behind them from then on. -/
def execEpi (k : Tok) (h : HReg) (g b : GReg) (s : State) : Host.Outcome State Fault Refusal :=
  priv s k (.pending (.epi s.tile.nextId)) (.ok ()) [g, b] [.h h] [] fun t => do
    let w := t.g g
    let pb := t.g b
    check (fld 0 3 w ≤ 4 ∧ epiAct w ≠ 3 ∧ fld 7 25 w = 0) { cls := .epiCmd }
    let hd := t.h h
    handleForm t hd false true
    check (Handle.level hd = 0) { cls := .handleForm }
    check (Handle.ro hd = false) { cls := .handlePerm }
    let n := Handle.ext hd 0
    let m := Handle.ext hd 1
    check (1 ≤ n ∧ n ≤ 64 ∧ 1 ≤ m ∧ m ≤ 64 ∧ Handle.ext hd 2 = 1 ∧ Handle.ext hd 3 = 1) { cls := .matrixShape }
    let ps := epiParams w n
    check (Handle.base hd % Handle.width hd = 0 ∧ Handle.str hd 1 % Handle.width hd = 0)
      { cls := .misalign, access := 2, addr := Handle.base hd }
    check (ps = [] ∨ pb.toNat % 4 = 0) { cls := .misalign, access := 1, addr := pb.toNat }
    spansOk t 2 ((List.range m).map fun i => (rowAt hd i, n * Handle.width hd))
    let reads := ps.map fun p => (Int.ofNat (pb.toNat + p.1), p.2)
    spansOk t 1 reads
    ringUsed t
    await (t.tile.epis.length < 8) .other
    spansClean t reads
    slotClean t (t.tile.ringTl.toNat % 8) n (List.range m)
    let op : Epi := { id := t.tile.nextId, h := hd, cmd := w, bias := pb, slot := t.tile.ringTl, lfsr := t.tile.lfsre }
    .ok ((t.setTile { t.tile with
        epis := t.tile.epis ++ [op], nextId := t.tile.nextId + 1, ringTl := t.tile.ringTl + 1
        lfsre := if fld 0 3 w = 4 then afterDraws t.tile.lfsre (m * n) else t.tile.lfsre }).after
      (26 + m * n / 64) .epiCompletion (.tile t.tile.ptile))

/-- The FP32 value of one output element before its conversion (R259). -/
def epiValue (s : State) (e : Epi) (i j : Nat) : Nat :=
  let p (o : Nat) : Nat := s.tileNat (Int.ofNat (e.bias.toNat + o)) 4
  let x := s.readNat (accKey s.tile (e.slot.toNat % 8) i j) 4
  let x := if epiScale e.cmd then fpRound .fp32 .rne 0 ((fpVal .fp32 x).mul (fpVal .fp32 (p (4 * j)))) else x
  let x := if epiBias e.cmd then fpRound .fp32 .rne 0 (FpNum.add false (fpVal .fp32 x) (fpVal .fp32 (p (256 + 4 * j)))) else x
  if epiAct e.cmd = 1 then pickFp true .fp32 x 0 else
  if epiAct e.cmd = 2 then pickFp false .fp32 (pickFp true .fp32 x (p 512)) (p 516) else x

/-- The output elements of a command, row-major, each with its draw (R69, R259). -/
def epiOutput (s : State) (e : Epi) : List Nat :=
  let n := Handle.ext e.h 0
  let md := Rm.ofCode (fld 0 3 e.cmd).toNat
  let f := Handle.format e.h
  (mapDraw (fun l ij =>
    let (r, l') := drawIf (md = .sr) l
    (convElem .fp32 f md r (epiValue s e (ij / n) (ij % n)), l')) e.lfsr (List.range (n * Handle.ext e.h 1))).1

/-- Elements written one by one through a handle of tile scratch, from element e on. -/
def storeElems (h : Handle) : State → Nat → List Nat → State
  | s, _, [] => s
  | s, e, x :: xs => storeElems h (s.storeNat (tileKey s.tile.ptile.toNat + (Handle.elem h e).toNat) (Handle.width h) x) (e + 1) xs

/-- A step on the tile that an event names, in focus meanwhile; an event for no tile that holds state, or for
a stopped one (R412), has no effect. -/
def onTile (s : State) (f : State → State) : Host.Outcome State Fault Refusal :=
  match s.arg with
  | .tile pt => .next ((s.onCore pt s.sel fun t => if t.tile.halted then t else f t).getD s)
  | _ => .next s

/-- The operand rows of an operation and the output rows they go to (R255). -/
def Mma.rows (m : Mma) : List (Nat × Nat) :=
  if m.gather then (Machine.lanes m.lanes).zipIdx.filterMap fun x => if x.1 = 2 ^ 32 - 1 then none else some (x.2, x.1)
  else (List.range (Handle.ext m.ha 1)).map fun i => (i, i)

/-- The number of K-steps of an operation, and the cycles of each (R246). -/
def Mma.blocks (m : Mma) : Nat := Handle.ext m.ha 0 / 16
/-- Cycles per K-step. -/
def Mma.cycles (m : Mma) : Nat := (pairCycles (Handle.format m.ha) (Handle.format m.hb)).getD 0

/-- The next K-step of an operation applied to its slot (R252). -/
def State.kApply (s : State) (m : Mma) : State :=
  let cols := (List.range (Handle.ext m.hb 1)).map fun j => (rowScale s m.hb j m.blocks m.steps, rowVals s m.hb j m.steps)
  stepRows m.ha m.blocks m.steps (m.slot.toNat % 8) cols s m.rows

/-- The array goes on with its oldest operation after the cycles of a K-step. -/
def State.arrayNext (s : State) : State :=
  match s.tile.mmas with
  | [] => s
  | m :: _ => s.after m.cycles .mmaCompletion (.tile s.tile.ptile)

/-- The array applies the next K-step of its oldest operation. With the last one the operation passes its completion point: its handle
locks end and its slots fill (R252, R254). -/
def State.mmaStep (s : State) : State :=
  match s.tile.mmas with
  | [] => s
  | m :: ms =>
    let t := s.kApply m
    if m.steps + 1 < m.blocks then (t.setTile { t.tile with mmas := { m with steps := m.steps + 1 } :: ms }).arrayNext
    else (t.setTile { t.tile.fill (.mma m.id) t.now with mmas := ms }).arrayNext.tryComplete

/-- R254. -/
def execMmaCompletion (s : State) : Host.Outcome State Fault Refusal := onTile s State.mmaStep

/-- The oldest epilogue command takes its effect, once the array has applied every K-step to its slot (R249, R259, R260). -/
def State.epiDone (s : State) : State :=
  match s.tile.epis with
  | [] => s
  | e :: es =>
    if s.tile.mmas.any (fun m => m.slot == e.slot) then s.after engineDelay .epiCompletion (.tile s.tile.ptile) else
    let t := storeElems e.h s 0 (epiOutput s e)
    (t.setTile { t.tile.fill (.epi e.id) t.now with epis := es }).tryComplete

/-- R260. -/
def execEpiCompletion (s : State) : Host.Outcome State Fault Refusal := onTile s State.epiDone

/-! ### vrdacc (R261) -/

/-- R261. -/
def execVrdacc (k : Tok) (a : VCode) (g : GReg) (s : State) : Host.Outcome State Fault Refusal :=
  priv s k s.token (vregRange s [a]) [g] [] [] fun t => do
    let w := t.g g
    let kk := (fld 6 3 w).toNat
    let i := (fld 0 6 w).toNat
    check (fld 10 22 w = 0 ∧ kk < t.tile.occupancy) { cls := .ringSel }
    let slot := (t.tile.ringTl.toNat + kk) % 8
    ringOrder t slot
    let at_ (j : Nat) : Nat := if w.getLsbD 9 then accKey t.tile slot j i else accKey t.tile slot i j
    check ((List.range 64).all (fun j => !t.poisoned (at_ j) 4) = true) { cls := .memError, access := 1 }
    let x := pack .int32 ((List.range 64).map fun j => t.readNat (at_ j) 4)
    .ok (t.result 0 (.v a.toNat x .fp32))

end Sys2Proof.Machine
end

