-- ==== Sys2Proof/Machine/Engine.lean ====
section
/-! DEFINITION. The steps of the engines of a tile (R45, R94, R95, R134, R194) and of the lock bits and the remote atomic cache (R99,
R100). -/

namespace Sys2Proof.Machine

/-- A change made with the tile of an operation in focus, where the operation is outstanding, not faulted, and its task not stopped. -/
def State.onOp (s : State) (pt : BitVec 8) (c : CoreId) (q : BitVec 16) (f : State → Op → State) : State :=
  (s.onCore pt c fun t =>
    match t.tile.op? c q with
    | none => t
    | some o => if t.tile.halted ∨ o.fault.isSome then t else f t o).getD s

/-- A change made with the tile of an operation in focus, where the operation is outstanding and not faulted; its task may be stopped: what
has been sent is answered all the same. -/
def State.onOpSent (s : State) (pt : BitVec 8) (c : CoreId) (q : BitVec 16) (f : State → Op → State) : State :=
  (s.onCore pt c fun t =>
    match t.tile.op? c q with
    | none => t
    | some o => if o.fault.isSome then t else f t o).getD s

/-- The engine works on an operation (R94, R198 to R209). -/
def State.engineRun (s : State) (o : Op) (n : Nat) : State :=
  match o.kind, o.remote with
  | .ldPlace d, _ => s.runLdPlace o d.toNat
  | .stPlace d, _ => s.runStPlace o d.toNat
  | _, some e => s.runRemote o e
  | .rat code _ addr b cmp gd, none =>
    (match s.atomicWord s.tile.task.cnum addr code b cmp with
     | .error (cls, a) => s.engineFails o ⟨cls, 4, a⟩ 0
     | .ok (t, old) => t.ratReply o gd old)
  | _, none => s.runLocal o n

/-- R94: as destination bytes become visible, the operation credits its barrier. -/
def execEngineCredit (s : State) : Host.Outcome State Fault Refusal :=
  match s.arg with
  | .credit pt c q n => .next (s.onOp pt c q fun t o => t.engineRun o n)
  | _ => .next s

/-- R95: the last source byte has been read. -/
def execSourceCredit (s : State) : Host.Outcome State Fault Refusal :=
  match s.arg with
  | .op pt c q => .next (s.onOp pt c q fun t o =>
      if o.srcDone then t else
      (t.engineBar o.sbar fun x => x.credit (t.placeSource o) 0).mapOp o fun p => { p with srcDone := true })
  | _ => .next s

/-- R45: the completion point of a transfer operation. -/
def execDmaCompletion (s : State) : Host.Outcome State Fault Refusal :=
  match s.arg with
  | .op pt c q => .next (s.onOp pt c q fun t o => if o.done = o.total then t.opDone c q else t)
  | _ => .next s

/-- R194: a running operation faults; a failed link breaks it with ECODE 3 (R432). -/
def execEngineFault (s : State) : Host.Outcome State Fault Refusal :=
  match s.arg with
  | .fault pt c q cls acc addr elem => .next (s.onOp pt c q fun t o => t.faultOp o cls acc addr elem (if cls = .linkFail then 3 else 5))
  | _ => .next s

/-- R134, R214: results and port pushes whose cycle has come land. -/
def execFixedLatencyWrite (s : State) : Host.Outcome State Fault Refusal :=
  match s.arg with
  | .core pt c => .next ((s.onCore pt c fun t =>
      let u := t.setTile (t.tile.landDue c t.now)
      (if c = .compute then u.landPushes u.now else u).tryComplete).getD s)
  | _ => .next s

/-- R99: a lock bit held for 4,096 cycles is cleared and marked lost for its holder. -/
def execLockLost (s : State) : Host.Outcome State Fault Refusal :=
  match s.arg with
  | .num2 bank bit =>
    (match s.locks.find? fun l => l.bank = bank ∧ l.bit = bit with
     | none => .next s
     | some l =>
       if l.since + 4096 ≤ s.now then
         .next (({ s with locks := s.locks.erase l } : State).mapTile l.tile fun t =>
           t.setCore l.core { t.core l.core with lost := true })
       else .next s)
  | _ => .next s

/-- R100: the lease of a line ends; what it holds is already in memory (log 20). -/
def execLeaseEnd (s : State) : Host.Outcome State Fault Refusal :=
  match s.arg with
  | .num line => .next { s with rac := s.rac.filter fun x => !(x.1 == line && decide (x.2 ≤ s.now)) }
  | _ => .next s

end Sys2Proof.Machine
end

