-- ==== Sys2Proof/Machine/Launch.lean ====
section
/-! DEFINITION. Launch nodes, their decrements, rejection and poisoning (R32, R33, R306 to R309, R460), futures (R103 to R105, R282 to R284,
R441, R442) and the cop functions on both. -/

namespace Sys2Proof.Machine

/-! ### Node records (R32) -/

/-- A launch node's 64 bytes. -/
abbrev NodeImg := BitVec 512

/-- A field of a node. -/
def nodeField (x : NodeImg) (lo n : Nat) : Nat := (fld lo n x).toNat
/-- FLAGS bit. -/
def nodeFlag (x : NodeImg) (i : Nat) : Bool := nodeField x (80 + i) 1 == 1
/-- GANG. -/
def nodeGang (x : NodeImg) : Bool := nodeFlag x 2
/-- PINNED. -/
def nodePinned (x : NodeImg) : Bool := nodeFlag x 4
/-- NODEID. -/
def nodeId (x : NodeImg) : Nat := nodeField x 112 16
/-- ICOUNT + 1. -/
def nodeCount (x : NodeImg) : Nat := nodeField x 256 8 + 1
/-- TBASE. -/
def nodeTbase (x : NodeImg) : Nat := nodeField x 264 8
/-- PRIO. -/
def nodePrio (x : NodeImg) : Nat := nodeField x 320 16
/-- FUTURE. -/
def nodeFuture (x : NodeImg) : Nat := nodeField x 384 56
/-- SUCCS. -/
def nodeSuccs (x : NodeImg) : Nat := nodeField x 192 56
/-- R37's limit in bytes. -/
def nodeLimit (x : NodeImg) : Nat := (if nodeField x 352 16 = 0 then 2048 else nodeField x 352 16) * 1024
/-- QAFF admits a logical tile. -/
def nodeAdmits (x : NodeImg) (l : Nat) : Bool := nodeField x 272 16 == 0 || (nodeField x 272 16).testBit (l / 16)

/-- A node's entry in the launcher's table (R308). -/
def State.node? (s : State) (c addr : Nat) : Option NodeRec := s.nodes.find? fun n => n.cnum == c && n.addr == addr

/-- An entry for a node never decremented. -/
def NodeRec.fresh (c addr : Nat) : NodeRec where
  cnum := c
  addr := addr
  st := 0
  ended := true
  run := 0
  img := 0
  readyAt := 0
  order := 0
  src := none
  place := []
  left := 0
  a0 := 0
  dead := false

/-- The entry, fresh where there is none. -/
def State.nodeRec (s : State) (c addr : Nat) : NodeRec := (s.node? c addr).getD (.fresh c addr)

/-- An entry stored. -/
def State.putNode (s : State) (n : NodeRec) : State :=
  { s with nodes := n :: s.nodes.filter fun m => !(m.cnum == n.cnum && m.addr == n.addr) }

/-! ### Packets that count a node (R302, R303) -/

/-- A running packet with nothing left to count is complete. -/
def Pkt.ended (p : Pkt) : Bool := p.st == 2 && p.nodes.isEmpty

/-- The completion of packets that have just ended follows. -/
def State.packetsEnd (s : State) : State :=
  (s.packets.filter Pkt.ended).foldl (fun t p => t.after 0 .packetCompletion (.num2 p.q p.idx))
    { s with packets := s.packets.map fun p => if p.ended then { p with st := 3 } else p }

/-- A GRAPH packet: its OPC is 2 (R301). -/
def Pkt.graph (p : Pkt) : Bool := fld 0 16 p.pkt == 2

/-- A node has ended: packets count it no more; a GRAPH packet counts the nodes it launched, a NODE packet its own node alone (R302). -/
def State.nodeEnded (s : State) (c addr : Nat) (launched : List Nat) : State :=
  ({ s with packets := s.packets.map fun p =>
      if p.cnum = c ∧ p.nodes.contains addr then { p with nodes := p.nodes.filter (· ≠ addr) ++ if p.graph then launched else [] }
      else p } : State).packetsEnd

/-! ### Where a pod address leads (R84, R459) -/

/-- The package-map entry and the address in it; none where the logical package is unmapped. -/
def State.podTarget (s : State) (c pod : Nat) : Option (PkgMap × Nat) :=
  ((s.ctx? c).bind fun x => x.pkgOf (pod / 2 ^ 44 % 4096)).map fun e => (e, pod % 2 ^ 44)

/-- The reference under which a context acts. -/
def State.crefOf (s : State) (c : Nat) : BitVec 20 := ((s.ctx? c).getD .keystone).cref

/-! ### Futures (R103, R104, R441) -/

/-- STATE of a future's 16 bytes. -/
def futSt (x : Nat) : Nat := x % 4
/-- WHEAD. -/
def futHead (x : Nat) : Nat := x / 2 ^ 64
/-- Reserved bits of a future are zero. -/
def futClear (x : Nat) : Bool := x / 4 % 2 ^ 14 == 0 && x / 2 ^ 24 % 256 == 0
/-- x with n bits from bit lo replaced by those of y. -/
def putLow (x lo n y : Nat) : Nat := x % 2 ^ lo + y % 2 ^ n * 2 ^ lo + x / 2 ^ (lo + n) * 2 ^ (lo + n)
/-- A future's 16 bytes: STATE and WHEAD as given, PCODE and VALUE as in x (R104: an effect that names neither leaves both). -/
def futPack (st x head : Nat) : List Byte := leBytes 16 (putLow (putLow x 0 2 st) 64 64 head)

/-- The waiter list from a record on: keys and the nodes' pod addresses, every record readable and writable (R441); none where a record is
not as the engine linked it, so that a program has written it and the future is undefined (R104). -/
def State.waiters (s : State) (c : Nat) : Nat → Nat → Access (State × Option (List (Nat × Nat)))
  | 0, _ => .ok (s, some [])
  | k + 1, rec =>
    if rec = 0 then .ok (s, some []) else
    match s.gatomic c rec 16 with
    | .error e => .error e
    | .ok (t, key) =>
      let node := t.readNat key 8
      let next := t.readNat (key + 8) 8
      if t.waits.contains (key, node, next) = false then .ok (t, none) else
      match t.waiters c k next with
      | .error e => .error e
      | .ok (u, l) => .ok (u, l.map fun x => (key, node) :: x)

/-- The bound on a waiter list: one record for each node of a full launcher table (R308). -/
def waiterFuel : Nat := 65536

/-- A future ends a wait (R104): state and list replaced, one field given, the nodes that waited. A future that a program has left undefined
by writing one of its records becomes free bytes, and decrements no node. -/
def State.futEnd (s : State) (c va st : Nat) (f : Nat → Nat) : Access (State × List Nat) :=
  match s.gatomic c va 16 with
  | .error e => .error e
  | .ok (t, k) =>
    let x := t.readNat k 16
    if futClear x = false ∨ futSt x = 0 then .error (.futState, va) else
    if futSt x ≠ 1 then .error (.futDouble, va) else
    match t.waiters c waiterFuel (futHead x) with
    | .error e => .error e
    | .ok (u, none) => .ok ((u.freeVal 128).2.store k (leBytes 16 (u.freeVal 128).1), [])
    | .ok (u, some l) =>
      .ok ({ u.store k (futPack st (f x) 0) with waits := u.waits.filter fun w => !l.any fun y => y.1 == w.1 }, l.map (·.2))

/-- fut.resolve: VALUE. -/
def futResolve (v : Nat) (x : Nat) : Nat := putLow x 32 32 v
/-- fut.poison: PCODE. -/
def futPoisoned (p : Nat) (x : Nat) : Nat := putLow x 16 8 p

/-- A node's FUTURE as its record in memory names it. -/
def State.futureOf (s : State) (c addr : Nat) : State × Nat :=
  match s.greadNat c (addr + 48) 8 with
  | .ok (t, x) => (t, x % 2 ^ 56)
  | .error e => (s.struckAt e.1 c (addr + 48) 8 true false, 0)

/-- Nodes that become poisoned (R104, R309), by context and pod address: each is marked and will be decremented, and its own future is
poisoned with PCODE 2, which may poison further nodes. -/
def poisonNodes (src : Option (BitVec 8)) : Nat → List (Nat × Nat) → State → State
  | 0, _, s => s
  | _ + 1, [], s => s
  | k + 1, (c, pod) :: ws, s =>
    match s.podTarget c pod with
    | none => poisonNodes src k ws (s.notify { cls := .nodeReject, node := some pod, addr := 11 } c)
    | some (e, va) =>
      if e.p ≠ s.self then poisonNodes src k ws (s.tell e.p (.decrement s.self e.rcref (s.crefOf c) va true)) else
      let n := s.nodeRec c va
      let t := ((s.putNode { n with st := 5, ended := false, dead := true }).nodeEnded c va []).after 0 .nodeDecrement (.node c va src)
      let (t, f) := t.futureOf c va
      if f = 0 then poisonNodes src k ws t else
      match t.podTarget c f with
      | none => poisonNodes src k ws t
      | some (g, fa) =>
        if g.p ≠ t.self then
          poisonNodes src k ws (t.tell g.p (.copRequest t.self g.rcref (t.crefOf c) 0 0x43 (BitVec.ofNat 32 fa) 2 (leBytes 8 fa)))
        else
          match t.futEnd c fa 3 (futPoisoned 2) with
          | .error _ => poisonNodes src k ws t
          | .ok (u, l) => poisonNodes src k (ws ++ l.map fun x => (c, x)) u

/-- Decrements that a future sends to the nodes that waited for it, as node.launch from the tile of the function (R104, R283, R311, R460). -/
def State.futNodes (s : State) (c : Nat) (src : Option (BitVec 8)) : List Nat → State
  | [] => s
  | pod :: l =>
    match s.podTarget c pod with
    | none => (s.notify { cls := .nodeReject, node := some pod, addr := 11 } c).futNodes c src l
    | some (e, va) =>
      if e.p ≠ s.self then (s.tell e.p (.decrement s.self e.rcref (s.crefOf c) va false)).futNodes c src l
      else (s.after 0 .nodeDecrement (.node c va src)).futNodes c src l

/-- The future of a rejected, poisoned or killed node, poisoned; one that does not wait is left as it is (R309, R442). -/
def State.futPoison (s : State) (c pod pcode : Nat) : State :=
  if pod = 0 then s else
  match s.podTarget c pod with
  | none => s
  | some (e, va) =>
    if e.p ≠ s.self then
      s.tell e.p (.copRequest s.self e.rcref (s.crefOf c) 0 0x43 (BitVec.ofNat 32 va) (BitVec.ofNat 32 pcode) (leBytes 8 va))
    else
      match s.futEnd c va 3 (futPoisoned pcode) with
      | .error _ => s
      | .ok (t, l) => poisonNodes none waiterFuel (l.map fun x => (c, x)) t

/-- One operation on a future held in this package, under a context, asked for by a tile (R104): reply word and bits [63:0] afterwards. A
program that writes the future itself while an operation on it is outstanding leaves it undefined too: here the operation finds the bytes
as written (DESIGN CHOICE, log 83). -/
def State.futApply (s : State) (c va fn7 : Nat) (gb : Word) (rva : Nat) (src : Option (BitVec 8)) : Access (State × Word × Nat) :=
  let got := if fn7 = 0x44 then (match s.gread c va 16 with
      | .error e => Except.error e
      | .ok (t, bs) => .ok (t, 0, leNat bs))
    else match s.gatomic c va 16 with
      | .error e => .error e
      | .ok (t, k) => .ok (t, k, t.readNat k 16)
  match got with
  | .error e => .error e
  | .ok (t, k, x) =>
    if futClear x = false then .error (.futState, va) else
    match fn7 with
    | 0x40 => .ok (t.store k (futPack 1 (futResolve 0 x) 0), 0, 0)
    | 0x44 =>
      if futSt x = 0 then .error (.futState, va)
      else .ok (t, BitVec.ofNat 32 (futSt x + x / 2 ^ 16 % 256 * 2 ^ 16), x % 2 ^ 64)
    | 0x42 =>
      if futSt x = 0 then .error (.futState, va) else
      (match t.gatomic c rva 16 with
       | .error e => .error e
       | .ok (u, q) =>
         let n := u.readNat q 8
         if futSt x = 1 then
           .ok ({ (u.store (q + 8) (leBytes 8 (futHead x))).store k (futPack 1 x rva) with
             waits := (q, n, futHead x) :: u.waits.filter fun w => w.1 ≠ q }, 0, 0)
         else .ok (if futSt x = 2 then u.futNodes c src [n] else poisonNodes src waiterFuel [(c, n)] u, 0, 0))
    | 0x41 =>
      (match s.futEnd c va 2 (futResolve gb.toNat) with
       | .error e => .error e
       | .ok (u, l) => .ok (u.futNodes c src l, 0, 0))
    | _ =>
      match s.futEnd c va 3 (futPoisoned gb.toNat) with
      | .error e => .error e
      | .ok (u, l) => .ok (poisonNodes src waiterFuel (l.map fun n => (c, n)) u, 0, 0)

/-! ### Rejection and decrements (R33, R307, R309, R460) -/

/-- A node is rejected with a check number: its future is poisoned with PCODE 1 where its record could be read, and NODE.REJECT is
raised. -/
def State.reject (s : State) (c addr check : Nat) (img : Option NodeImg) : State :=
  let n := s.nodeRec c addr
  let t := s.putNode { n with st := 4, ended := true, place := [], dead := true }
  let t := match img with
    | some x => t.futPoison c (nodeFuture x) 1
    | none => t
  (t.notify { cls := .nodeReject, node := some addr, addr := check } c).nodeEnded c addr []

/-- Reserved fields of a node are zero (R32). -/
def nodeClear (x : NodeImg) : Bool :=
  nodeField x 85 3 == 0 && nodeField x 184 8 == 0 && nodeField x 248 8 == 0 && (nodePinned x || nodeTbase x == 0) &&
  nodeField x 344 8 == 0 && nodeField x 368 16 == 0 && nodeField x 440 8 == 0 && nodeField x 448 64 == 0

/-- The loaded generation that a node names (R33, R373, R447). -/
def State.nodeCode (s : State) (c : Nat) (x : NodeImg) : Option Code :=
  s.codes.find? fun o => o.cnum == c && o.ident == nodeField x 0 24 && o.gen == nodeField x 24 8 && !o.quarantined && o.unload.isNone

/-- The first check of R309's table that a node fails when it becomes ready, 0 for none (R33). -/
def State.nodeCheck (s : State) (c : Nat) (x : NodeImg) : Nat :=
  match s.nodeCode c x, s.ctx? c with
  | none, _ => 1
  | _, none => 1
  | some o, some y =>
    let off (lo : Nat) : Bool := decide (4 * nodeField x lo 16 < o.size)
    let valid (l : Nat) : Bool := (y.tileOf l).isSome && nodeAdmits x l
    if !(off 32 && off 48 && off 64) then 2
    else if nodeField x 336 8 % 8 ≠ 0 ∨ 56 < nodeField x 336 8 ∨ 2048 < nodeField x 352 16 then 3
    else if nodeClear x = false then 4
    else if nodePinned x = true ∧ (255 < nodeTbase x + nodeCount x - 1 ∨
        ((List.range (nodeCount x)).all fun i => valid (nodeTbase x + i)) = false) then 5
    else if nodeGang x = true ∧ ((List.range 256).filter valid).length < nodeCount x then 6
    else 0

/-- What a decrement came to: PREDS afterwards and whether the node became ready; PREDS was 0; the node was rejected. -/
inductive Dec where
  | applied (preds : Nat) (ready : Bool)
  | zero
  | rejected
  deriving DecidableEq, Repr

/-- One predecessor decrement (R307): src is the tile that sent it; want is the NODEID that the node must bear and the check that
fails where it does not. A program that writes PREDS while the node is ready or running or owed a decrement leaves the node undefined: here
the launcher goes on with the bytes as they then stand (DESIGN CHOICE, log 83). -/
def State.decrement (s : State) (c addr : Nat) (src : Option (BitVec 8)) (want : Option (Nat × Nat)) : State × Dec :=
  match s.gread c addr 64 with
  | .error e => (((s.struckAt e.1 c addr 64 true false).deviceError e.1 c addr).reject c addr 10 none, .rejected)
  | .ok (s, bs) =>
  match s.gatomic c (addr + 12) 2 with
  | .error e => (((s.struckAt e.1 c (addr + 12) 2 true true).deviceError e.1 c addr).reject c addr 10 none, .rejected)
  | .ok (t, k) =>
    let x : NodeImg := BitVec.ofNat 512 (leNat bs)
    let preds := nodeField x 96 16
    let n := t.nodeRec c addr
    match want.filter fun w => w.1 ≠ nodeId x with
    | some w => (t.reject c addr w.2 (some x), .rejected)
    | none =>
      if preds = 0 then (t, .zero) else
      let t := t.store k (leBytes 2 (preds - 1))
      if n.st = 1 ∨ n.st = 2 then (t, .applied (preds - 1) false) else
      if n.st = 5 ∧ n.ended = false then (t.putNode { n with ended := decide (preds = 1) }, .applied (preds - 1) false) else
      if preds ≠ 1 then (t.putNode { n with st := 0, ended := false, dead := false }, .applied (preds - 1) false) else
      let x : NodeImg := putField x 96 16 0
      let check := t.nodeCheck c x
      if check ≠ 0 then ((t.putNode { n with img := x }).reject c addr check (some x), .applied 0 false) else
      let n : NodeRec := { n with st := 1, ended := false, dead := false, run := n.run + 1, img := x, readyAt := t.now, order := t.readyN
                                  src := src, place := List.range (nodeCount x), left := nodeCount x, a0 := 0 }
      (({ (t.putNode n) with readyN := t.readyN + 1 } : State).after 0 .distributorPlace .none, .applied 0 true)

/-- R307: a decrement that a future or another party sends. -/
def execNodeDecrement (s : State) : Host.Outcome State Fault Refusal :=
  match s.arg with
  | .node c addr src => .next (s.decrement c addr src none).1
  | _ => .next s

/-! ### node.launch and node.status (R294, R295) -/

/-- The node address of node.launch and node.status. -/
def copNode (ga gb : Word) : Nat := ga.toNat + gb.toNat % 4096 * 2 ^ 32

/-- The argument rules of both. -/
def nodeArgs (x y : Word) (_ : List Byte) : Bool := fld 12 20 y == 0 && copNode x y % 64 == 0

/-- R294: its issue releases the stream's writes at .pkg, which are visible already (log 4). -/
def execNodeLaunch (d a b : GReg) (m : BitVec 2) (s : State) : Host.Outcome State Fault Refusal := plainCop 0x60 0 nodeArgs d a b m s
/-- R295. -/
def execNodeStatus (d a b : GReg) (m : BitVec 2) (s : State) : Host.Outcome State Fault Refusal := plainCop 0x61 0 nodeArgs d a b m s

/-- R294, R437, R460. -/
def copNodeLaunch : CopFn := fun r s =>
  if ((s.ctx? r.cnum).map (·.lost)).getD true then (s, .done stState 0) else
  let (t, x) := s.decrement r.cnum (copNode r.ga r.gb) (some r.tile) none
  (t, match x with
    | .zero => .done stState 0
    | .rejected => .done stFault 0
    | .applied n _ => .done 0 n)

/-- R295. -/
def copNodeStatus : CopFn := fun r s =>
  let addr := copNode r.ga r.gb
  match s.gread r.cnum addr 64 with
  | .error e => copFault s r.cnum e
  | .ok (t, bs) =>
    let st := ((t.node? r.cnum addr).map (·.st)).getD 0
    (t, .word (BitVec.ofNat 32 (st * 256 + leNat bs / 2 ^ 96 % 65536 * 65536)))

/-! ### fut.init to fut.read (R282 to R284) -/

/-- The pod address of the future in a reference, and the waiter record's address. -/
def futRef (b : List Byte) : Nat × Nat := (blockNat b 0 8, blockNat b 8 8)

/-- A future function at issue: reference, argument rules, snapshot destination. -/
def futCop (fn7 : Nat) (d a b : GReg) (m : BitVec 2) (s : State) : Host.Outcome State Fault Refusal :=
  cop fn7 (if fn7 = 0x42 then 16 else 8) (fun t _ y bs => do
    let (pod, rva) := futRef bs
    copArg (pod < 2 ^ 56 ∧ pod % 16 = 0 ∧ rva % 16 = 0 ∧ rva < 2 ^ 44 ∧ ((fn7 = 0x40 ∨ fn7 = 0x42) → y = 0) ∧
      (fn7 = 0x43 → fld 8 24 y = 0))
    if fn7 = 0x44 ∧ y ≠ 0 then do
      let _ ← accessAt t b y 8 8 2
      .ok ()
    else .ok ()
    let _ ← pkgAt t (pod / 2 ^ 44)
    .ok {}) d a b m s

/-- R104, R282, R283. -/
def execFutInit (d a b : GReg) (m : BitVec 2) (s : State) := futCop 0x40 d a b m s
/-- R104, R283. -/
def execFutResolve (d a b : GReg) (m : BitVec 2) (s : State) := futCop 0x41 d a b m s
/-- R104, R282. -/
def execFutReg (d a b : GReg) (m : BitVec 2) (s : State) := futCop 0x42 d a b m s
/-- R104, R283. -/
def execFutPoison (d a b : GReg) (m : BitVec 2) (s : State) := futCop 0x43 d a b m s
/-- R104, R284. -/
def execFutRead (d a b : GReg) (m : BitVec 2) (s : State) := futCop 0x44 d a b m s

/-- Whether every write that fut.resolve or fut.poison covers has been acknowledged (R123, R283). -/
def State.futCovered (s : State) (r : Req) : Bool :=
  s.unacked.all (fun u => !u.write || decide (r.mark ≤ u.pkt.id)) &&
  (match s.taskTile r.tid with
   | none => true
   | some t => t.ops.all fun o => o.core != r.core || !o.isRemote || o.fault.isSome || decide (r.n < o.recv))

/-- A remote write that fut.resolve or fut.poison covers and that was broken before it began to wait (R428, R441). -/
def State.futBroken (s : State) (r : Req) : Option Trap :=
  match r.raise with
  | some t => some t
  | none => (s.taskTile r.tid).bind fun t =>
    (t.ops.filter fun o => o.core == r.core && o.broken && !o.reported && decide (o.recv ≤ r.n)).findSome? (·.fault)

/-- A future function at the future engine: here, or sent to the package that holds the future. -/
def copFuture : CopFn := fun r s =>
  let (pod, rva) := futRef r.block
  let waits := r.fn7 = 0x41 ∨ r.fn7 = 0x43
  match if waits then s.futBroken r else none with
  | some t => (s, .trap { t with cls := .ordBroken, precise := r.mode == 1, async := true, access := 2, fn7 := r.fn7
                                 pc := if r.precise then some r.pc else none })
  | none =>
    if waits ∧ s.futCovered r = false then (s, .again 8) else
    match s.podTarget r.cnum pod with
    | none => (s, .trap (copTrap r .placeUnmapped 0 pod 0))
    | some (e, va) =>
      if e.p ≠ s.self then
        if s.lostPkgs.contains e.p then (s, .trap (copTrap r .placeUnmapped 0 pod 0)) else
        (s.tell e.p (.copRequest s.self e.rcref (s.crefOf r.cnum) r.n r.fn7 r.ga r.gb r.block), .running)
      else
        match s.futApply r.cnum va r.fn7 r.gb rva (some r.tile) with
        | .error (cls, a) =>
          (s.deviceError cls r.cnum a 16 (r.fn7 != 0x44), .trap (copTrap r cls (if r.fn7 = 0x44 then 1 else 4) (if a = va then pod else a) 0))
        | .ok (t, w, snap) =>
          if r.fn7 = 0x44 ∧ r.gb ≠ 0 then copWrites t r r.gb.toNat (leBytes 8 snap) (.word w) else (t, .word w)

end Sys2Proof.Machine
end

