-- ==== Sys2Proof/Machine/Reshard.lean ====
section
/-! DEFINITION. How a re-shard job ends, and what its end leaves of its tensors (R281, R349, R440). -/

namespace Sys2Proof.Machine

/-- CONV of a record as given. -/
def Ctx.setConv (x : Ctx) (i : Nat) (on : Bool) : Ctx := x.putRec i (putField (x.recAt i) 54 1 (if on then 1 else 0))

/-- The members of a mesh in other packages. -/
def State.farMembers (s : State) (x : Ctx) (m : Mesh) : List PkgMap := (m.members.filterMap (x.memberPkg m)).filter fun e => e.p ≠ s.self

/-- A record told to every other member. -/
def State.tellRecord (s : State) (c prec : Nat) (m : Mesh) (img : BitVec 512) (bad : Bool) : State :=
  match s.ctx? c with
  | none => s
  | some x => (s.farMembers x m).foldl (fun t e => t.tell e.p (.record t.self e.rcref x.cref prec img bad)) s

/-- CONV set or cleared in every member's copy. -/
def State.markConv (s : State) (c prec : Nat) (m : Mesh) (on bad : Bool) : State :=
  let t := s.mapCtx c fun x => x.setConv prec on
  t.tellRecord c prec m (((t.ctx? c).map fun x => x.recAt prec).getD 0) bad

/-- The records and meshes of a job that could run: well-formed, VALID, and without an axis in P. -/
def Ctx.planRec (x : Ctx) (i : Nat) : Option (Rec × Mesh) :=
  let img := x.recAt i
  let r := Rec.ofBits img
  match x.meshAt r.mesh with
  | none => none
  | some m => if r.valid = true ∧ recClear img = true ∧ recOk r (some m) = true ∧ (axesOf r.st 5).isEmpty = true then some (r, m) else none

/-- A job changed. -/
def State.mapJob (s : State) (c n : Nat) (f : Job → Job) : State :=
  s.mapCtx c fun x => { x with jobs := x.jobs.map fun j => if j.n = n then f j else j }

/-- Whether a packet belongs to a job. -/
def jobMine (c n : Nat) (u : Sent) : Bool := match u.own with
  | .xfer d k _ _ => d == c && k == n
  | _ => false

/-- CONV of the tensors of a job whose home is this package, in every member; another home marks its own (R342). -/
def State.jobConv (s : State) (c : Nat) (j : Job) (on : Bool) : State :=
  [j.srec, j.drec].foldl (fun t i =>
    match t.ctx? c with
    | none => t
    | some x =>
      if (x.homePkg i).any (fun e => e.p ≠ t.self) then t else
      match x.meshAt (Rec.ofBits (x.recAt i)).mesh with
      | none => t.mapCtx c fun x => x.setConv i on
      | some m => t.markConv c i m on false) s

/-- A job leaves RUNNING: its packets are followed no more, both tensors are free, and their homes hear of it. -/
def State.jobEnds (s : State) (c : Nat) (j : Job) (st : Nat) : State :=
  let t := (if j.began then s.jobConv c j false else s).dropSent (jobMine c j.n)
  let t := j.asks.foldl (fun u a => u.endAsk c (some (a.2.1, a.2.2.1))) t
  let t := (t.settleRace c j.srec).settleRace c j.drec
  t.mapJob c j.n fun k => { k with st := st, began := false, asks := [] }

/-- The outstanding reply of a job. -/
def State.jobReply (s : State) (c : Nat) (j : Job) (status : Nat) : State :=
  match j.req with
  | none => s
  | some n => (s.mapJob c j.n fun k => { k with req := none }).endReq n status

/-- A member's coordinates, package, and pod address of its address 0. -/
def Ctx.memberAt (x : Ctx) (m : Mesh) (rank : Nat) : List Nat × Option PkgMap × Nat :=
  (m.coords rank, x.memberPkg m (m.coords rank), m.pkg (m.coords rank) * 2 ^ 44)

/-- The rows of a transfer: source and destination address and bytes. -/
def xferRows (a : Rec) (ma : Mesh) (b : Rec) (mb : Mesh) (t : Xfer) : List (Nat × Nat × Nat) :=
  let box := t.lo.zip t.ext
  let sb := ma.box a.dims a.st (ma.coords t.p)
  let db := mb.box b.dims b.st (mb.coords t.q)
  let n := entry t.ext 0
  (List.range (boxCount box / n)).map fun i =>
    let g := boxIndex box (i * n)
    (a.layout + boxElem sb g * a.width, b.layout + boxElem db g * b.width, n * a.width)

/-- The destination bytes of transfers in this package become undefined (R281, R349): free bytes. -/
def State.freeRows (s : State) (c : Nat) (j : Job) (xs : List Nat) : State :=
  match s.ctx? c with
  | none => s
  | some y =>
    match y.planRec j.srec, y.planRec j.drec with
    | some (a, ma), some (b, mb) =>
      xs.foldl (fun t x =>
        match j.plan[x]? with
        | none => t
        | some p => if ((y.memberAt mb p.q).2.1.map (·.p)) = some s.self then
            (xferRows a ma b mb p).foldl (fun t row => t.freeBytes c row.2.1 row.2.2) t else t) s
    | _, _ => s

/-- A job aborted (R281): its outstanding reply gets ABORTED, bytes not yet transferred are undefined, and it leaves the table. -/
def State.abortJob (s : State) (c : Nat) (j : Job) : State :=
  let t := if j.st = 4 then s else s.freeRows c j ((List.range j.plan.length).filter fun x => !j.done.contains x)
  ((t.jobEnds c j j.st).jobReply c j stAborted).mapCtx c fun x => { x with jobs := x.jobs.filter fun k => k.n ≠ j.n }

/-- Every job of a context aborted (R440). -/
def State.abortJobs (s : State) (c : Nat) : State := (((s.ctx? c).map (·.jobs)).getD []).foldl (fun t j => t.abortJob c j) s

end Sys2Proof.Machine
end

