-- ==== Sys2Proof/Machine/Stops.lean ====
section
/-! DEFINITION. How a task leaves its tile (R310, R313, R419, R435, R436), and what a disposition does to a stopped task (R419, R420). -/

namespace Sys2Proof.Machine

/-! ### The context tree -/

/-- A context and its ancestors up to the keystone, at most n levels. -/
def State.chain (s : State) : Nat → Nat → List Ctx
  | 0, _ => []
  | n + 1, c =>
    match s.ctx? c with
    | none => []
    | some x => if x.cnum = 0 then [x] else x :: s.chain n x.parent

/-- A context and its ancestors. -/
def State.lineage (s : State) (c : Nat) : List Ctx := s.chain treeDepth c

/-- A context and its descendants. -/
def State.subtree (s : State) (c : Nat) : List Nat := (s.ctxs.filter fun x => (s.lineage x.cnum).any fun y => y.cnum == c).map (·.cnum)

/-- Whether tasks of a context may run: neither it nor an ancestor is throttled, paused, switched out, in transit, lost or torn (R314,
R324, R437, R438). -/
def State.runnable (s : State) (c : Nat) : Bool :=
  (s.lineage c).all fun x => !(x.throttled || x.paused || x.out || x.transit || x.lost || x.torn || x.destroyed)

/-- A budget debit: tile-nanoseconds from a context and its ancestors below the keystone (R313). -/
def State.debit (s : State) (c ns : Nat) : State :=
  ((s.lineage c).filter fun x => x.cnum ≠ 0).foldl (fun t x => t.mapCtx x.cnum fun y => { y with balance := y.balance - ns }) s

/-- The nanoseconds from one cycle to the present. -/
def State.since (s : State) (from_ : Nat) : Nat := s.now / 3 - from_ / 3

/-! ### PCIe functions (R353, R376 to R378) -/

/-- The function of a context: the PF for the keystone, else the VF bound to it. -/
def State.fnOf (s : State) (c : Nat) : Option Nat := if c = 0 then some 0 else ((s.ctx? c).map (·.vf)).filter (· ≠ 0)

/-- A function as it stands before its first use: disabled, with a 64 KiB aperture (R377). -/
def Func.fresh (n : Nat) : Func where
  n := n
  on := false
  apbase := 0
  aplog := 16
  cmd := 0
  rsp := 0
  bell := 0

/-- A PCIe function. -/
def State.func (s : State) (n : Nat) : Func := (s.fns.find? fun f => f.n == n).getD (.fresh n)

/-- A PCIe function replaced. -/
def State.putFunc (s : State) (f : Func) : State := { s with fns := f :: s.fns.filter fun g => g.n ≠ f.n }

/-- APBASE is 0 again when a VF's binding moves (R377). -/
def State.unaim (s : State) (vf : Nat) : State := { s with fns := s.fns.map fun f => if f.n = vf ∧ vf ≠ 0 then { f with apbase := 0 } else f }

/-- An MSI-X message of a function that is enabled (R378). -/
def State.interrupt (s : State) (fn vec : Nat) : State := if (s.func fn).on then { s with msix := s.msix ++ [(fn, vec)] } else s

/-! ### Leaving a tile -/

/-- A change made with a tile in focus. -/
def State.onFocus (s : State) (pt : BitVec 8) (f : State → State) : State := (s.onCore pt s.sel f).getD s

/-- The key range of a tile's scratch holds a key. -/
def inScratch (pt : BitVec 8) (k : Nat) : Bool := decide (tileKey pt.toNat ≤ k ∧ k < tileKey pt.toNat + 2 ^ 21)

/-- The barrier slots of a tile's scratch are slots no more. -/
def State.dropBars (s : State) (pt : BitVec 8) : State :=
  { s with bars := s.bars.filter (fun k => !inScratch pt k), errs := s.errs.filter fun x => !inScratch pt x.1 }

/-- A range has been zeroed: a unit that does not read back is retired, and the keystone hears of it (R445). -/
def State.readBack (s : State) (k n : Nat) : State :=
  let l := s.stuck.filter fun u => decide (k ≤ u ∧ u < k + n) && !s.retired.contains u
  l.foldl (fun t u => ({ t with retired := u :: t.retired } : State).notify { cls := .memError, access := 1, addr := u } 0) s

/-- A tile scrubbed for a context: scratch, ring, registers and queues zero, tags EMPTY (R23, R85); its scratch is read back (R445). -/
def State.scrubTile (s : State) (pt : BitVec 8) (owner : Option Nat) : State :=
  ((((s.dropBars pt).zeroBytes (tileKey pt.toNat) (2 ^ 21)).zeroBytes (ringKey pt.toNat 0) (2 ^ 17)).mapTile pt fun _ =>
    { Tile.empty pt with owner := owner }).readBack (tileKey pt.toNat) (2 ^ 21)

/-- The tile's state exists and is the context's: a tile that held another context's is scrubbed (R23, R85). -/
def State.ensureTile (s : State) (pt : BitVec 8) (c : Nat) : State :=
  let s := if (s.findTile pt).isSome then s else { s with rest := s.rest ++ [Tile.empty pt] }
  if ((s.findTile pt).bind (·.owner)) = some c then s else s.scrubTile pt (some c)

/-- The lock bits and lock waits of a tile end; a core that held one finds it lost (R99). -/
def State.dropLocks (s : State) (pt : BitVec 8) : State :=
  let held (c : CoreId) : Bool := s.locks.any fun l => l.tile == pt && l.core == c
  let mark (c : CoreId) (x : CoreSt) : CoreSt := if held c then { x with lost := true } else x
  ({ s with locks := s.locks.filter (fun l => l.tile ≠ pt), lockq := s.lockq.filter fun w => w.2.2.1 ≠ pt } : State).mapTile pt fun t =>
    { t with lc := mark .load t.lc, cc := mark .compute t.cc, sc := mark .store t.sc }

/-- A packet of a task's BTE operation that is not in flight: it still waits at the source, or its answer has come and is kept. -/
def Sent.idle (u : Sent) (tid : Nat) : Bool := u.tid == tid && (u.waits || u.data.isSome) && (match u.own with
  | .op _ _ => true
  | _ => false)

/-- Packets and answers of a task's operations that are not in flight are followed no further: an operation that restarts asks for them again
(R194). -/
def State.dropIdle (s : State) (tid : Nat) : State := { s with unacked := s.unacked.filter fun u => !u.idle tid }

/-- Code generations that are being unloaded may be free now that a task is gone (R373). -/
def State.codesFree (s : State) : State :=
  (s.codes.filter (·.unload.isSome)).foldl (fun u o => u.after 0 .codeGenerationFree (.page o.cnum o.ident o.gen 0)) s

/-- Records of a killed task's traps are withdrawn; a record that waited may have its slot. -/
def State.withdraw (s : State) (tid : Nat) : State :=
  ({ s with mail := s.mail.filter fun m => m.tid ≠ some tid } : State).after 0 .trapDelivery .none

/-- The tile has no task any more: its residence is debited, its die reports, the distributor looks for work, and a switch out under way
may be complete (R310, R313, R321). -/
def State.leave (s : State) (pt : BitVec 8) : State :=
  match s.findTile pt with
  | none => s
  | some t =>
    if t.resident = false then s else
    let s := s.debit t.task.cnum (s.since (max t.task.started s.tickAt))
    let s := s.mapTile pt fun u => { u with resident := false, stop := none, saving := none, drain := none }
    let s := s.codesFree
    ((s.after 0 .dieReport (.num (pdie pt.toNat))).after 0 .saveCommit (.num t.task.cnum)).after 0 .distributorPlace .none

/-! ### Killing (R419, R435) -/

/-- What a task's death does apart from its node: its collective episodes end, the homes that it asked for a turn hear that it has ended, and
its operations and traps are dropped. -/
def State.taskDies (s : State) (t : Tile) : State :=
  let s := t.ops.foldl (fun u o => u.endAsk t.task.cnum o.ask) (s.memberKilled t)
  (s.dropIdle t.task.id).withdraw t.task.id

/-- The streams of a killed task count as arrived in every hbar (R429). -/
def State.diedArrives (s : State) (t : Task) : State := [CoreId.load, .compute, .store].foldl (fun u c => u.hbarEnd t c) s

/-- The task on a tile is killed, and the tile scrubbed within the context (R419). -/
def State.killTile (s : State) (pt : BitVec 8) : State :=
  match s.findTile pt with
  | none => s
  | some t =>
    if t.resident = false then s else
    ((((s.taskDies t).dropLocks pt).leave pt).scrubTile pt t.owner).diedArrives t.task

/-- Saved tasks of a context that satisfy a condition are killed: their images are dropped. -/
def State.killImages (s : State) (c : Nat) (p : Image → Bool) : State :=
  let l := (((s.ctx? c).map (·.saved)).getD []).filter p
  let t := (l.foldl (fun t i => t.taskDies i.tile) s).mapCtx c fun x => { x with saved := x.saved.filter fun i => !p i }
  (l.foldl (fun t i => t.diedArrives i.tile.task) t).codesFree

/-- A node's run ends in poison: every instance of a GANG node is killed, no instance is placed any more, its future is poisoned (R419,
R442). -/
def State.killNode (s : State) (c addr pcode : Nat) : State :=
  let n := s.nodeRec c addr
  let s := if nodeGang n.img then
      ((s.tiles.filter fun t => t.resident && t.task.cnum == c && t.task.node == addr).foldl (fun u t => u.killTile t.ptile) s).killImages c
        fun i => i.tile.task.node == addr
    else s
  ((s.putNode { n with st := 5, ended := true, place := [], dead := true }).nodeEnded c addr []).futPoison c (nodeFuture n.img) pcode

/-- KILL of the task on a tile with a PCODE. -/
def State.killTask (s : State) (pt : BitVec 8) (pcode : Nat) : State :=
  match s.findTile pt with
  | none => s
  | some t => if t.resident then (s.killTile pt).killNode t.task.cnum t.task.node pcode else s

/-- KILL of a saved task. -/
def State.killSaved (s : State) (c : Nat) (tid pcode : Nat) : State :=
  match (((s.ctx? c).map (·.saved)).getD []).find? fun i => i.tile.task.id == tid with
  | none => s
  | some i => (s.killImages c fun j => j.tile.task.id == tid).killNode c i.tile.task.node pcode

/-- Every task of a context is killed with a PCODE (R435, R436). -/
def State.killContext (s : State) (c pcode : Nat) : State :=
  let nodes := (((s.tiles.filter fun t => t.resident && t.task.cnum == c).map (·.task.node)) ++
    ((((s.ctx? c).map (·.saved)).getD []).map (·.tile.task.node))).eraseDups
  let s := (s.tiles.filter fun t => t.resident && t.task.cnum == c).foldl (fun u t => u.killTile t.ptile) s
  nodes.foldl (fun u a => u.killNode c a pcode) (s.killImages c fun _ => true)

/-- A task killed for relaunch (R318): its instance is placed again as a new start; its writes stand. -/
def State.killRelaunch (s : State) (pt : BitVec 8) : State :=
  match s.findTile pt with
  | none => s
  | some t =>
    if t.resident = false then s else
    let n := s.nodeRec t.task.cnum t.task.node
    (s.killTile pt).putNode { n with place := (n.place.filter (· < t.task.inst)) ++ t.task.inst :: n.place.filter (t.task.inst < ·) }

/-! ### Lost contexts (R436, R437, R440) -/

/-- A save or restore that fails makes the context and its descendants LOST: tasks killed with PCODE 4, held completions discarded, jobs
aborted, CTX.LOST raised with the address (R436, R437). -/
def State.lostCtx (s : State) (c addr : Nat) : State :=
  let l := s.subtree c
  let s := l.foldl (fun t x => (t.mapCtx x fun y => { y with lost := true, held := [] })) s
  (l.foldl (fun t x => (t.killContext x 4).abortJobs x) s).notify { cls := .ctxLost, addr := addr } c

/-! ### Dispositions of a stop (R419, R420, R422) -/

/-- The engines of the tile in focus start again: operations from DONE, the array with the next K-step of its oldest operation, commands
not yet complete from their start (R263, R412). -/
def State.restartEngines (s : State) : State :=
  let t := s.tile
  let s := (t.ops.filter fun o => o.fault.isNone).foldl State.restart s
  let s := if t.mmas = [] then s else s.after engineDelay .mmaCompletion (.tile t.ptile)
  t.epis.foldl (fun u _ => u.after engineDelay .epiCompletion (.tile t.ptile)) s

/-- A waiting instruction is executed again; a barrier wait whose slot was retired stays so (R176, R411); a stall count still runs (R133). -/
def CoreSt.rerun (c : CoreSt) (now : Nat) : CoreSt :=
  { c with next := max c.next now, latch := [], wait := match c.wait with
      | .barGone => .barGone
      | .run => .run
      | .take => .run
      | .reserve => .run
      | .hbarTile => .run
      | .bar _ _ => .run
      | .other => .run }

/-- The operation that a record names, where it has not been abandoned (R407, R420). -/
def Tile.namedOp (t : Tile) (x : Trap) : Option Op :=
  match x.op with
  | none => none
  | some r => if x.async = true ∧ (x.engine = 1 ∨ x.engine = 2) ∧ r.tid = t.task.id then
      t.ops.find? fun o => o.core = r.core ∧ o.seq = r.seq ∧ o.fault.isSome
    else none

/-- The queue with an owner's poisoned slots pending again (R420). -/
def unpoison (o : Owner) (q : Queue) : Queue :=
  { q with slots := q.slots.map fun x => match x with
      | .poisoned p t => if p = o then .pending p else .poisoned p t
      | .pending p => .pending p
      | .filled tk a => .filled tk a }

/-- ECODE 5 cleared in a barrier that an operation names (R420). -/
def State.clearErr5 (s : State) (k : Option Nat) : State :=
  match k with
  | none => s
  | some k =>
    if (s.bar k).live = true ∧ (s.bar k).ecode = 5 then
      { (s.putBar k { s.bar k with err := false, ecode := 0 }) with errs := s.errs.filter fun x => x.1 ≠ k }
    else s

/-- RETRY (R420). -/
def State.retryOp (s : State) (o : Op) : State :=
  let s := s.mapOp o fun p => { p with fault := none, running := true, reported := false }
  let s := s.setTile { s.tile with q := s.tile.q.map (unpoison (.dma o.core o.seq)) }
  (s.clearErr5 o.dbar).clearErr5 o.sbar

/-- An operation abandoned (R407): outstanding in no sense; its stream waits for it no more. -/
def State.abandon (s : State) (o : Op) : State :=
  let c := s.tile.core o.core
  let mine (h : Hold) : Bool := match h with
    | .op q _ => q == o.seq
    | _ => false
  let c := { c with hold := c.hold.filter fun h => !mine h, pend := c.pend.filter fun p => !mine p.2 }
  ((s.dropSent fun u => o.mine s.tile.task.id u && (u.waits || u.data.isSome)).setTile (s.tile.setCore o.core c)).setTile
    { s.tile.setCore o.core c with ops := s.tile.ops.filter fun p => !(p.core == o.core && p.seq == o.seq) }

/-- The fault of an operation for whose completion a stream of the tile holds, met while the task was stopped (R195). -/
def Tile.heldFault (t : Tile) : Option (CoreId × Trap) :=
  [CoreId.load, .compute, .store].findSome? fun c => match (t.core c).hold with
    | some (.op q _) => (t.op? c q).bind fun o => if o.reported then none else o.fault.map fun x => (c, x)
    | _ => none

/-- The tile in focus goes on after its stop: the streams from their saved PCs, the engines from their records. -/
def State.goOn (s : State) (deadlock : Bool) : State :=
  let t := s.tile.mapCores fun c => c.rerun s.now
  let s := ((s.setTile { t with stop := none, tumbler := if deadlock then 0 else t.tumbler }).restartEngines).tryComplete
  match s.tile.heldFault with
  | none => s
  | some (c, x) => s.takeTrap (some c) { x with precise := true }

/-- RESUME of the task in focus (R419, R420, R422). -/
def State.resumeTask (s : State) (retry : Bool) : State :=
  match s.tile.stop with
  | none => s
  | some x =>
    match s.tile.namedOp x.trap with
    | none => s.goOn (x.trap.cls == .deadlock)
    | some o => (if retry then s.retryOp o else s.abandon o).goOn false

/-- SKIP acts as RESUME for a record that is not PRECISE, one that is ASYNC and that of an ECALL (R419); but a report of ECODE 3 at an
instruction that has not retired is recovered by SKIP (R431; DEDUCED, log 84). -/
def skips (x : Trap) : Bool :=
  (x.cls == .barError && x.ecode == 3 && x.pc.isNone) || (x.precise && !x.async && x.cls != .ecall)

/-- SKIP of the task in focus (R419). -/
def State.skipTask (s : State) : State :=
  match s.tile.stop with
  | none => s
  | some x =>
    match x.core with
    | none => s.resumeTask false
    | some c =>
      if skips x.trap = false then s.resumeTask false else
      (s.setTile (s.tile.setCore c ((s.tile.core c).retire s.now 0))).resumeTask false

/-- A disposition other than PASS of the stopped task on a tile: codes 0 RESUME, 1 SKIP, 2 KILL (R419); after CODE.HASH each is KILL
(R447). -/
def State.dispose (s : State) (pt : BitVec 8) (code : Nat) (retry : Bool) : State :=
  if ((s.findTile pt).bind (·.stop)).map (·.trap.cls) = some .codeHash then s.killTask pt 3 else
  match code with
  | 0 => s.onFocus pt fun t => t.resumeTask retry
  | 1 => s.onFocus pt State.skipTask
  | _ => s.killTask pt 3

end Sys2Proof.Machine
end

