-- ==== Sys2Proof/Machine/Image.lean ====
section
/-! DEFINITION. A task's image in the save area, byte by byte (R48, R320). Where R320 names contents without their places, the places are the
model's (DESIGN CHOICE, log 22); reserved bytes are zero (R4). -/

namespace Sys2Proof.Machine

/-! ### Queues (R48) -/

/-- The token of a slot as an image shows it. -/
def Slot.token : Slot → Nat
  | .filled tk _ => tk.toNat
  | .pending _ => 0
  | .poisoned _ _ => 0

/-- A slot that waits for its owner. -/
def Slot.isPending : Slot → Bool
  | .pending _ => true
  | .filled _ _ => false
  | .poisoned _ _ => false

/-- A slot that its owner's fault has poisoned. -/
def Slot.isPoisoned : Slot → Bool
  | .poisoned _ _ => true
  | .filled _ _ => false
  | .pending _ => false

/-- The owner of a slot that is pending or poisoned. -/
def Slot.owner : Slot → Option Owner
  | .pending o => some o
  | .poisoned o _ => some o
  | .filled _ _ => none

/-- Bit i set for each slot i, from i on, that satisfies a condition. -/
def slotMask (p : Slot → Bool) : Nat → List Slot → Nat
  | _, [] => 0
  | i, x :: xs => (if p x then 2 ^ i else 0) + slotMask p (i + 1) xs

/-- A queue image (R48). -/
def Queue.image (q : Queue) : Nat :=
  leNat (q.slots.map fun x => BitVec.ofNat 8 x.token) + q.slots.length * 2 ^ 128 + slotMask Slot.isPending 0 q.slots * 2 ^ 144 +
  slotMask Slot.isPoisoned 0 q.slots * 2 ^ 160

/-- The six queue images in the order of R48. -/
def Queues.images (q : Queues) : List Byte := [q.lc, q.cl, q.cs, q.sc, q.ls, q.sl].flatMap fun x => leBytes 24 x.image

/-! ### Byte strings -/

/-- A byte string cut or filled with zeros to n bytes. -/
def fit (n : Nat) (l : List Byte) : List Byte := (l ++ List.replicate n 0).take n

/-- Numbers laid one after another, n bytes each. -/
def packed (n : Nat) (l : List Nat) : List Byte := l.flatMap (leBytes n)

/-- Number i of n bytes in a byte string. -/
def numAt (b : List Byte) (n i : Nat) : Nat := leNat ((b.drop (n * i)).take n)

/-! ### Cores (bytes 0 to 2,047) -/

/-- The value of a CSR of a core as it is saved. -/
def savedCsr (t : Tile) (c : CoreId) (tokstat place : Word) (time : Word) (n : Nat) : Nat :=
  let x := t.core c
  (match n with
   | 0x000 => BitVec.ofNat 32 (x.precise.toNat + 2 * x.checkstall.toNat)
   | 0x001 => x.stklim
   | 0x002 => place
   | 0x003 => tokstat
   | 0x004 => time
   | 0x005 => x.timeh
   | 0x008 => BitVec.ofNat 32 x.loops.length
   | 0x0A0 => t.vallot.zeroExtend 32
   | 0x0A1 => t.vgrp.zeroExtend 32
   | 0x0B0 => t.ringHd.zeroExtend 32
   | 0x0B1 => t.ringTl.zeroExtend 32
   | 0x0C0 => BitVec.ofNat 32 t.rmode.code
   | 0x0C1 => t.lfsrc
   | 0x0C2 => ((t.epis.head?).map (·.lfsr)).getD t.lfsre
   | m => if m < 0x014 then (x.frame (m - 0x010)).start else if m < 0x018 then (x.frame (m - 0x014)).stop
          else (x.frame (m - 0x018)).count : Word).toNat

/-- The CSRs of a core in the order of their numbers (R181). -/
def csrList (c : CoreId) : List Nat :=
  [0x000, 0x001, 0x002, 0x003, 0x004, 0x005, 0x008] ++ (List.range 12).map (0x010 + ·) ++
  if c = .compute then [0x0A0, 0x0A1, 0x0B0, 0x0B1, 0x0C0, 0x0C1, 0x0C2] else []

/-- A hold as a kind and a number. -/
def Hold.code : Hold → Nat × Nat × Word
  | .op q pc => (1, q.toNat, pc)
  | .reply n => (2, n, 0)
  | .cop n pc => (3, n, pc)
  | .packet n _ _ => (4, n, 0)

/-- The hold of a kind and a number; a packet's is never saved. -/
def holdOf (k n : Nat) (pc : Word) : Option Hold :=
  match k with
  | 1 => some (.op (BitVec.ofNat 16 n) pc)
  | 2 => some (.reply n)
  | 3 => some (.cop n pc)
  | _ => none

/-- A fault that waits for a report point, in 16 bytes: what R416 shows of it but for its operation. -/
def Trap.pack (t : Trap) : List Byte :=
  leBytes 8 (classNum t.cls + 1 + t.async.toNat * 2 ^ 8 + t.precise.toNat * 2 ^ 9 + t.access * 2 ^ 10 + t.engine * 2 ^ 16 + t.ecode * 2 ^ 20 +
    t.opclass * 2 ^ 24 + t.status * 2 ^ 32 + t.fn7 * 2 ^ 40) ++ leBytes 8 t.addr

/-- The trap classes in class-number order (R403). -/
def trapClasses : List TrapClass :=
  [.opReserved, .vregRange, .stallCheck, .tagCheck, .misalign, .scratchRange, .stackLimit, .handleForm, .handlePerm, .placeUnmapped,
   .xlateNone, .xlatePerm, .xferCtl, .xferShape, .xferIndex, .barLive, .barDead, .barError, .lockState, .lockLost,
   .loopDepth, .csrAccess, .codeRange, .codeHash, .hbarScope, .portCfg, .ringFull, .ringEmpty, .ringSel, .matrixShape,
   .matrixIndex, .epiCmd, .copArg, .copFail, .futDouble, .futState, .ordBroken, .placeRec, .placeMember, .deadlock,
   .ecall, .brk, .queueError, .nodeReject, .ctxLost, .ctxTorn, .linkKeylow, .linkKeyexh, .linkFail, .memError]

/-- The trap in 16 bytes; none where there is none. -/
def Trap.unpack (b : List Byte) : Option Trap :=
  let x := numAt b 8 0
  if x % 2 ^ 8 = 0 then none else
  (trapClasses[x % 2 ^ 8 - 1]?).map fun c =>
    { cls := c, async := x.testBit 8, precise := x.testBit 9, access := x / 2 ^ 10 % 8, engine := x / 2 ^ 16 % 16, ecode := x / 2 ^ 20 % 8
      opclass := x / 2 ^ 24 % 256, status := x / 2 ^ 32 % 256, fn7 := x / 2 ^ 40 % 128, addr := numAt b 8 1 }

/-- A core's 640 bytes: PC, g1 to g31, CSRs, then what the model keeps besides: flags, the next SEQ, hold, episode numbers, stall count,
interlocked registers, faults that wait for a report point. -/
def coreImage (t : Tile) (c : CoreId) (now : Nat) (csr : Nat → Nat) : List Byte :=
  let x := t.core c
  let hold := (x.hold.map Hold.code).getD (0, 0, 0)
  let flags := x.fin.toNat + 2 * x.lost.toNat + (if x.wait = .barGone then 4 else 0)
  fit 640
    (leBytes 4 x.pc.toNat ++ packed 4 ((List.range 31).map fun i => (x.rg (BitVec.ofNat 5 (i + 1))).toNat) ++
     fit 104 (packed 4 ((csrList c).map csr)) ++
     [BitVec.ofNat 8 flags, BitVec.ofNat 8 ((x.hbarIn.map (· + 1)).getD 0)] ++ leBytes 2 x.seq.toNat ++
     packed 4 [hold.1, hold.2.1, hold.2.2.toNat] ++ packed 4 x.hbarN.toList ++ packed 4 x.collN.toList ++ packed 4 [x.next - now, x.pend.length] ++
     fit 256 (x.pend.flatMap fun p => packed 2 [p.1.toNat, p.2.code.1] ++ leBytes 4 p.2.code.2.1) ++
     fit 88 ((x.late.take 5).flatMap Trap.pack))

/-- A core read from its 640 bytes and its handles. -/
def coreOf (b : List Byte) (h : List Byte) (now : Nat) : CoreSt :=
  let w (i : Nat) : Word := BitVec.ofNat 32 (numAt b 4 i)
  let csr (i : Nat) : Word := w (32 + i)
  let o := b.drop 232
  let depth := (csr 6).toNat % 8
  { CoreSt.empty with
    pc := w 0
    g := Vector.ofFn fun i => if i.val = 0 then 0 else w i.val
    h := Vector.ofFn fun i =>
      let x : Handle := BitVec.ofNat 256 (numAt h 32 i.val)
      Handle.withLock (if 10 < Handle.fmt x then putField x 50 4 0 else x) false
    precise := (csr 0).getLsbD 0, checkstall := (csr 0).getLsbD 1, stklim := csr 1, timeh := csr 5
    loops := ((List.range (min 4 depth)).map fun i => (⟨csr (7 + i), csr (11 + i), csr (15 + i)⟩ : LoopFrame)).reverse
    fin := (numAt o 1 0).testBit 0, lost := (numAt o 1 0).testBit 1, wait := if (numAt o 1 0).testBit 2 then .barGone else .run
    hbarIn := if numAt o 1 1 = 0 then none else some (numAt o 1 1 - 1)
    seq := BitVec.ofNat 16 (numAt o 2 1)
    hold := holdOf (numAt o 4 1) (numAt o 4 2) (BitVec.ofNat 32 (numAt o 4 3))
    hbarN := Vector.ofFn fun i => numAt o 4 (4 + i.val)
    collN := Vector.ofFn fun i => numAt o 4 (9 + i.val)
    next := now + numAt o 4 14
    pend := (List.range (min 32 (numAt o 4 15))).filterMap fun i =>
      let e := (o.drop (64 + 8 * i)).take 8
      (holdOf (numAt e 2 1) (numAt e 4 1) 0).map fun x => (BitVec.ofNat 5 (numAt e 2 0), x)
    late := (List.range 5).filterMap fun i => Trap.unpack ((o.drop (320 + 16 * i)).take 16) }

/-! ### Handles, ports, vectors -/

/-- A port's parameter set as nine words in selector order (R217, R320). -/
def Port.image (p : Port) : List Byte :=
  [p.addr, BitVec.ofNat 32 p.fmt.code, p.n0.zeroExtend 32, p.n1.zeroExtend 32, p.n2.zeroExtend 32, p.s0, p.s1, p.s2, p.pos].flatMap
    fun (x : Word) => leBytes 4 x.toNat

/-- A port read from its nine words (R320). -/
def portOf (b : List Byte) : Port :=
  let w (i : Nat) : Word := BitVec.ofNat 32 (numAt b 4 i)
  { addr := w 0, fmt := (Fmt.ofCode ((w 1).toNat % 16)).getD .empty, n0 := (w 2).setWidth 16, n1 := (w 3).setWidth 16
    n2 := (w 4).setWidth 16, s0 := w 5, s1 := w 6, s2 := w 7, pos := w 8 }

/-- The handle registers of a tile, 32 bytes each, with LOCK as read. -/
def Tile.handleImage (t : Tile) : List Byte :=
  [CoreId.load, .compute, .store].flatMap fun c => (List.range 16).flatMap fun r => leBytes 32 (t.rh c (BitVec.ofNat 4 r)).toNat

/-- The v registers of the allotment and their tags. -/
def Tile.vectorImage (t : Tile) : List Byte :=
  ((t.v.toList.take t.vallot.toNat).flatMap fun x => leBytes 256 x.toNat) ++
  (t.vtag.toList.take t.vallot.toNat).map fun f => BitVec.ofNat 8 f.code

/-- The slots of a stream's queue to a neighbour that an owner holds. -/
def Tile.puts (t : Tile) (c : CoreId) (b : Bool) (o : Owner) : Bool := (t.q.get c (nbr c b)).slots.any fun x => x.owner == some o

/-- Which of its stream's two queues an owner has a slot in, as two bits. -/
def Tile.putBits (t : Tile) (c : CoreId) (o : Owner) : Nat := (t.puts c false o).toNat + 2 * (t.puts c true o).toNat

/-! ### Operation records (bytes 5,120 to 11,775) -/

/-- A scratch address of a barrier slot, from its key. -/
def keyAddr (k : Nat) : Nat :=
  if k < 2 ^ 49 then k % 2 ^ 21 else if k < 2 ^ 50 then 0x01000000 + k % 2 ^ 23 else 0x04000000 + k % 2 ^ 25

/-- A barrier address plus 1, 0 for none. -/
def barField (k : Option Nat) : Nat := (k.map fun k => keyAddr k + 1).getD 0

/-- The key of a scratch address of a tile. -/
def addrKey (pt : Nat) (a : Nat) : Nat :=
  if a < 2 ^ 21 then tileKey pt + a else if a < 0x04000000 then quadKey (pquad pt) + (a - 0x01000000) else dieKey (pdie pt) + (a - 0x04000000)

/-- The barrier of a field. -/
def fieldBar (pt x : Nat) : Option Nat := if x = 0 then none else some (addrKey pt (x - 1))

/-- The kind of an operation as control fields, a package, an address, an operand, a compare value and a register. -/
def OpKind.fields (k : OpKind) : List Nat :=
  match k with
  | .copy => [0, 0, 0, 0, 0, 0]
  | .multicast f n => [f, n, 0, 0, 0, 0]
  | .gather l z => [z.toNat, 0, keyAddr l, 0, 0, 0]
  | .scatter l => [0, 0, keyAddr l, 0, 0, 0]
  | .rd p => [p, 0, 0, 0, 0, 0]
  | .wr p g => [p, g, 0, 0, 0, 0]
  | .rvat p g => [p, g, 0, 0, 0, 0]
  | .rat c p a b x d => [c, p, a, b.toNat, x.toNat, d.toNat]
  | .ldPlace d => [0, 0, d.toNat, 0, 0, 0]
  | .stPlace d => [0, 0, d.toNat, 0, 0, 0]

/-- The kind of a transfer-map op with such fields, for a task on a tile. -/
def kindOf (pt opc : Nat) (mc : Bool) (f : Nat → Nat) : OpKind :=
  match opc with
  | 3 => .gather (addrKey pt (f 2)) (f 0 == 1)
  | 4 => .scatter (addrKey pt (f 2))
  | 5 => .rd (f 0)
  | 6 => .wr (f 0) (f 1)
  | 9 => .rat (f 0) (f 1) (f 2) (BitVec.ofNat 32 (f 3)) (BitVec.ofNat 32 (f 4)) (BitVec.ofNat 5 (f 5))
  | 10 => .rvat (f 0) (f 1)
  | 11 => .ldPlace (BitVec.ofNat 32 (f 2))
  | 12 => .stPlace (BitVec.ofNat 32 (f 2))
  | _ => if mc then .multicast (f 0) (f 1) else .copy

/-- Whether a kind is a multicast. -/
def OpKind.mc : OpKind → Bool
  | .multicast _ _ => true
  | _ => false

/-- The logical package of an operation's target plus 1, 0 for this package. -/
def Op.far (o : Op) : Nat := (o.remote.map fun e => e.l + 1).getD 0

/-- The 128 bytes of an operation: progress record, instruction word, control fields, barrier addresses, handle images; a rat's fields stand
where another operation's handles do. -/
def Op.image (t : Tile) (word : Word) (o : Op) : List Byte :=
  let f := o.kind.fields
  let g (i : Nat) : Nat := entry f i
  let flags := coreNum o.core + o.precise.toNat * 4 + o.reported.toNat * 8 + o.broken.toNat * 16 + o.srcDone.toNat * 32 +
    t.putBits o.core (.dma o.core o.seq) * 64 + o.kind.mc.toNat * 256
  let rat := o.opc == 9
  leBytes 16 o.record ++ packed 4 [word.toNat, g 0 + g 1 * 2 ^ 16, if rat then 0 else g 2, barField o.dbar, barField o.sbar, flags, o.pc.toNat,
    o.far] ++
  (match o.fault with
   | some x => x.pack
   | none => List.replicate 16 0) ++
  (if rat then fit 64 (leBytes 8 (g 2) ++ packed 4 [g 3, g 4, g 5]) else leBytes 32 o.hd.toNat ++ leBytes 32 o.hs.toNat)

/-- Which slots an operation owns, from its record: its core and the two bits. -/
def opPuts (b : List Byte) : Nat := numAt b 4 9 / 64 % 4

/-- A core by its number. -/
def coreAt (n : Nat) : CoreId := if n = 0 then .load else if n = 1 then .compute else .store

/-- The operation of a record, for a task with an id on a tile; far gives the package-map entry of a logical package. -/
def opOf (tid pt : Nat) (far : Nat → Option PkgMap) (b : List Byte) : Option Op :=
  let r := numAt b 16 0
  let w (i : Nat) : Nat := numAt b 4 i
  if r / 2 ^ 20 % 8 = 0 then none else
  let opc := r / 2 ^ 16 % 16
  let rat := opc == 9
  let hb := b.drop 64
  let f (i : Nat) : Nat :=
    if i = 0 then w 5 % 2 ^ 16 else if i = 1 then w 5 / 2 ^ 16
    else if rat then (if i = 2 then numAt hb 8 0 else numAt hb 4 (i - 1)) else w 6
  let flags := w 9
  let core := coreAt (flags % 4)
  let seq : BitVec 16 := BitVec.ofNat 16 r
  let done := r / 2 ^ 32 % 2 ^ 32
  let ref : OpRef := { tid := tid, core := core, seq := seq, opc := opc, felem := r / 2 ^ 64 % 2 ^ 32, done := done }
  some
    { core := core, seq := seq, opc := opc, kind := kindOf pt opc (flags.testBit 8) f
      hd := if rat then 0 else BitVec.ofNat 256 (numAt hb 32 0), hs := if rat then 0 else BitVec.ofNat 256 (numAt hb 32 1)
      dbar := fieldBar pt (w 7), sbar := fieldBar pt (w 8), pc := BitVec.ofNat 32 (w 10), done := done, total := r / 2 ^ 96
      running := r / 2 ^ 20 % 8 == 2, fault := (Trap.unpack ((b.drop 48).take 16)).map fun x =>
        { x with op := some ref, pc := if flags.testBit 2 then some (BitVec.ofNat 32 (w 10)) else none }
      reported := flags.testBit 3, broken := flags.testBit 4, credited := 0, acked := [], srcDone := flags.testBit 5, paths := []
      precise := flags.testBit 2, remote := if w 11 = 0 then none else far (w 11 - 1), recv := 0, ask := none, granted := false, free := none }

/-- The 384 bytes of an array operation: handle images, K-steps applied, registers, slot, and its index lanes. -/
def Mma.image (t : Tile) (m : Mma) : List Byte :=
  leBytes 32 m.hb.toNat ++ leBytes 32 m.ha.toNat ++
  packed 4 [m.steps, m.b.toNat + ((m.a.map fun r => r.toNat + 1).getD 0) * 2 ^ 8 + m.slot.toNat * 2 ^ 16 + m.gather.toNat * 2 ^ 24 +
    t.putBits .compute (.mma m.id) * 2 ^ 25 + 2 ^ 31, m.id] ++ List.replicate 52 0 ++ leBytes 256 m.lanes.toNat

/-- The array operation of a record. -/
def mmaOf (b : List Byte) : Option Mma :=
  let w (i : Nat) : Nat := numAt b 4 i
  let x := w 17
  if x.testBit 31 = false then none else
  let a := x / 2 ^ 8 % 2 ^ 8
  some { id := w 18, a := if a = 0 then none else some (BitVec.ofNat 4 (a - 1)), b := BitVec.ofNat 4 x, ha := BitVec.ofNat 256 (numAt b 32 1)
         hb := BitVec.ofNat 256 (numAt b 32 0), slot := BitVec.ofNat 4 (x / 2 ^ 16), steps := w 16, gather := x.testBit 24
         lanes := BitVec.ofNat 2048 (numAt (b.drop 128) 256 0) }

/-- The 64 bytes of an epilogue command: handle image, command word, parameter address, first draw, slot. -/
def Epi.image (t : Tile) (e : Epi) : List Byte :=
  leBytes 32 e.h.toNat ++ packed 4 [e.cmd.toNat, e.bias.toNat, e.lfsr.toNat, e.slot.toNat + t.putBits .compute (.epi e.id) * 2 ^ 25 + 2 ^ 31, e.id] ++
  List.replicate 12 0

/-- The epilogue command of a record. -/
def epiOf (b : List Byte) : Option Epi :=
  let w (i : Nat) : Nat := numAt b 4 i
  if (w 11).testBit 31 = false then none else
  some { id := w 12, h := BitVec.ofNat 256 (numAt b 32 0), cmd := BitVec.ofNat 32 (w 8), bias := BitVec.ofNat 32 (w 9)
         slot := BitVec.ofNat 4 (w 11), lfsr := BitVec.ofNat 32 (w 10) }

/-! ### Queues from an image -/

/-- The slots of a queue image from slot i on, k of them: owners are given to those that wait or are poisoned, in order (R48). -/
def ownSlots (tr : Owner → Option Trap) (x now : Nat) : Nat → Nat → List Owner → List Slot
  | 0, _, _ => []
  | k + 1, i, l =>
    let tk : Byte := BitVec.ofNat 8 (x / 2 ^ (8 * i))
    if (x / 2 ^ 144).testBit i || (x / 2 ^ 160).testBit i then
      match l with
      | [] => .filled tk now :: ownSlots tr x now k (i + 1) []
      | o :: os => (match if (x / 2 ^ 160).testBit i then tr o else none with
        | some t => .poisoned o t
        | none => .pending o) :: ownSlots tr x now k (i + 1) os
    else .filled tk now :: ownSlots tr x now k (i + 1) l

/-- A queue read from its image. -/
def queueOf (tr : Owner → Option Trap) (x now : Nat) (l : List Owner) : Queue :=
  { slots := ownSlots tr x now (min 16 (x / 2 ^ 128 % 32)) 0 l }

/-! ### The whole image -/

/-- The places of a tile's ring slots in the order of the image: RINGTL to RINGHD - 1 (R320), then those that an epilogue command not
complete still has to read, oldest first (DESIGN CHOICE, log 22). -/
def Tile.ringSlots (t : Tile) : List Nat :=
  ((List.range (t.ringHd - t.ringTl).toNat).map fun i => (t.ringTl.toNat + i) % 8) ++ t.epis.map fun e => e.slot.toNat % 8

/-- The parts of a task's image: offset and bytes. The rest of the slot below the scratch, and its last 32 KiB, are zero (R4). -/
def State.imageParts (s : State) (t : Tile) : List (Nat × List Byte) :=
  let pt := t.ptile.toNat
  let word (pc : Word) : Word := match s.codeOf t.task with
    | none => 0
    | some c => if codeBase ≤ pc.toNat ∧ pc.toNat < codeBase + c.size then
        BitVec.ofNat 32 (s.readNat (codeKey c.slot + (pc.toNat - codeBase)) 4) else 0
  let core (c : CoreId) : List Byte := coreImage t c s.now
    (savedCsr t c ({ s with tile := t, sel := c } : State).tokstat ({ s with tile := t } : State).place
      ((s.guestTime t.task.cnum).truncate 32))
  [(0, fit 2048 (core .load ++ core .compute ++ core .store ++ leBytes 4 t.tumbler)), (2048, t.handleImage),
    (3584, fit 512 t.q.images), (4096, fit 256 (t.ports.toList.flatMap Port.image)),
    (4352, fit 768 (packed 8 (t.p.toList.map (·.toNat)))), (5120, fit 4096 (t.ops.flatMap fun o => o.image t (word o.pc))),
    (9216, fit 2048 (t.mmas.flatMap (Mma.image t))), (11264, fit 5120 (t.epis.flatMap (Epi.image t))), (16384, fit 16384 t.vectorImage),
    (32768, fit 131072 (t.ringSlots.flatMap fun k => Mem.readRange s.mem (ringKey pt k) 16384)),
    (163840, Mem.readRange s.mem (tileKey pt) t.task.limit), (2260992, List.replicate 32768 0)]

/-- The tile of a task's image whose first 32 KiB are b, on physical tile pt; far gives the package-map entry of a logical package. -/
def tileOf (task : Task) (pt : BitVec 8) (far : Nat → Option PkgMap) (b : List Byte) (now : Nat) : Tile :=
  let cut (o n i : Nat) : List Byte := (b.drop (o + n * i)).take n
  let core (k : Nat) : CoreSt := coreOf (cut 0 640 k) (cut 2048 512 k) now
  let csr (i : Nat) : Nat := numAt (cut 0 640 1) 4 (51 + i)
  let nz (x : Nat) : Word := if BitVec.ofNat 32 x = 0#32 then 1 else BitVec.ofNat 32 x
  let ops := (List.range 32).filterMap fun i => (opOf task.id pt.toNat far (cut 5120 128 i)).map fun o => (opPuts (cut 5120 128 i), o)
  let mmas := (List.range 5).filterMap fun i => (mmaOf (cut 9216 384 i)).map fun m => (numAt (cut 9216 384 i) 4 17 / 2 ^ 25 % 4, m)
  let epis := (List.range 8).filterMap fun i => (epiOf (cut 11264 64 i)).map fun e => (numAt (cut 11264 64 i) 4 11 / 2 ^ 25 % 4, e)
  let bit (n : Bool) (x : Nat) : Bool := x.testBit n.toNat
  let owners (c : CoreId) (n : Bool) : List Owner := match c with
    | .compute =>
      let l : List (Nat × Owner) := ((mmas.filter fun m => bit n m.1).map fun m => (m.2.id, .mma m.2.id)) ++
        (epis.filter fun e => bit n e.1).map fun e => (e.2.id, .epi e.2.id)
      (l.foldr (fun x r => r.takeWhile (fun y => decide (y.1 < x.1)) ++ x :: r.dropWhile fun y => decide (y.1 < x.1)) []).map (·.2)
    | _ => (ops.filter fun o => o.2.core == c && bit n o.1).map fun o => .dma c o.2.seq
  let tr (o : Owner) : Option Trap := match o with
    | .dma c q => (ops.find? fun x => x.2.core == c && x.2.seq == q).bind (·.2.fault)
    | _ => none
  let q (c : CoreId) (n : Bool) (i : Nat) : Queue := queueOf tr (numAt (b.drop 3584) 24 i) now (owners c n)
  let va := min 56 (csr 0 % 64)
  { Tile.empty pt with
    owner := some task.cnum, task := task, lc := core 0, cc := core 1, sc := core 2
    v := Vector.ofFn fun i => if i.val < va then BitVec.ofNat 2048 (numAt (b.drop 16384) 256 i.val) else 0
    vtag := Vector.ofFn fun i => if i.val < va then (Fmt.ofCode (numAt (b.drop (16384 + 256 * va)) 1 i.val)).getD .empty else .empty
    vallot := BitVec.ofNat 6 va
    p := Vector.ofFn fun i => if i.val = 0 then -1 else BitVec.ofNat 64 (numAt (b.drop 4352) 8 i.val)
    ports := Vector.ofFn fun i => portOf (cut 4096 36 i.val)
    q := ⟨q .load false 0, q .compute false 1, q .compute true 2, q .store false 3, q .load true 4, q .store true 5⟩
    vgrp := vgrpOf (BitVec.ofNat 32 (csr 1)), ringHd := BitVec.ofNat 4 (csr 2), ringTl := BitVec.ofNat 4 (csr 3)
    rmode := Rm.ofCode (csr 4 % 8), lfsrc := nz (csr 5), lfsre := nz (csr 6)
    ops := ops.map (·.2), mmas := mmas.map (·.2), epis := epis.map (·.2)
    nextId := ((mmas.map (·.2.id)) ++ epis.map (·.2.id)).foldl (fun m n => max m (n + 1)) 0
    tumbler := numAt (b.drop 1920) 4 0 }

end Sys2Proof.Machine
end

