-- ==== Sys2Proof/Machine/StateWindow.lean ====
section
/-! DEFINITION. The state window of a stopped task: which bytes of its image a handler may write, and what they change at resumption
(R417, R418). -/

namespace Sys2Proof.Machine

/-- A tile as its image holds it: results landed, no instruction waiting (R319, R411). -/
def Tile.frozen (t : Tile) : Tile :=
  let t := ((t.landAll .load).landAll .compute).landAll .store
  { (t.mapCores fun c => c.rerun 0) with saving := none, drain := none, resident := false }

/-! ### Reads -/

/-- Byte o of an image given in parts; what no part holds is zero. -/
def partsByte (l : List (Nat × List Byte)) (o : Nat) : Byte :=
  match l.find? fun p => decide (p.1 ≤ o ∧ o < p.1 + p.2.length) with
  | none => 0
  | some p => (p.2[o - p.1]?).getD 0

/-- A byte as the latest of a list of writes leaves it, oldest first. -/
def written (ws : List (Nat × Byte)) (o : Nat) (b : Byte) : Byte := ws.foldl (fun x w => if w.1 = o then w.2 else x) b

/-! ### Writable parts (R418) -/

/-- A change to one core of a tile. -/
def Tile.mapCore (t : Tile) (c : CoreId) (f : CoreSt → CoreSt) : Tile := t.setCore c (f (t.core c))

/-- A PC as written: a wait, the reply of a sent cop and a release under way belong to the instruction left. -/
def CoreSt.movePc (c : CoreSt) (x : Word) : CoreSt :=
  let drop : Hold → Bool := fun h => match h with
    | .reply _ => false
    | .op _ _ => true
    | .cop _ _ => true
    | .packet _ _ _ => true
  { c with pc := x, wait := .run, hold := c.hold.filter drop, relMark := none, relExempt := none, relBad := none }

/-- A handle register as written: LOCK is ignored, and no register holds a format from 11 on (R62; log 51). -/
def CoreSt.winHandle (c : CoreSt) (r : HReg) (x : Handle) : CoreSt :=
  { c with h := c.h.set r.toNat (Handle.withLock (if 10 < Handle.fmt x then putField x 50 4 0 else x) false) r.isLt
           bad := c.bad.filter (· ≠ .h r) }

/-- A word of a port's parameter set (R217, R320). -/
def Port.putWord (p : Port) (sel : Nat) (x : Word) : Port :=
  match sel with
  | 0 => { p with addr := x }
  | 1 => { p with fmt := (Fmt.ofCode (fld 0 4 x).toNat).getD .empty }
  | 2 => { p with n0 := fld 0 16 x }
  | 3 => { p with n1 := fld 0 16 x }
  | 4 => { p with n2 := fld 0 16 x }
  | 5 => { p with s0 := x }
  | 6 => { p with s1 := x }
  | 7 => { p with s2 := x }
  | 8 => { p with pos := x }
  | _ => p

/-- A writable CSR of a tile's core. -/
def Tile.putCsr (t : Tile) (c : CoreId) (n : Nat) (x : Word) : Tile :=
  match n with
  | 0x000 => t.mapCore c fun y => { y with precise := x.getLsbD 0, checkstall := x.getLsbD 1 }
  | 0x001 => t.mapCore c fun y => { y with stklim := x }
  | 0x0A1 => if c = .compute then { t with vgrp := vgrpOf x } else t
  | 0x0C0 => if c = .compute then { t with rmode := Rm.ofCode (fld 0 3 x).toNat } else t
  | 0x0C1 => if c = .compute then { t with lfsrc := if x = 0 then 1 else x } else t
  | 0x0C2 => if c = .compute then { t with lfsre := if x = 0 then 1 else x } else t
  | _ => t

/-- A v register, its tag and a p register as written. -/
def Tile.winV (t : Tile) (r : Nat) (x : BitVec 2048) : Tile :=
  { t with v := t.v.setIfInBounds r x, cc := { t.cc with bad := t.cc.bad.filter (· ≠ .v r) } }

/-- A tag as written: 11 to 15 stores EMPTY (R418). -/
def Tile.winTag (t : Tile) (r : Nat) (x : Byte) : Tile := { t with vtag := t.vtag.setIfInBounds r ((Fmt.ofCode x.toNat).getD .empty) }

/-- A p register as written. -/
def Tile.winP (t : Tile) (r : PReg) (x : BitVec 64) : Tile :=
  if r = 0 then t else { t with p := t.p.set r.toNat x r.isLt, cc := { t.cc with bad := t.cc.bad.filter (· ≠ .p r) } }

/-- A field of an image that a handler may write: its offset, its bytes, and what a value does to the tile. -/
structure WinItem where
  at_ : Nat
  size : Nat
  put : Nat → Tile → Tile

/-- The fields of a core: PC, g1 to g31, the CSRs that may be written, h0 to h15. -/
def coreItems (c : CoreId) : List WinItem :=
  let base := 640 * coreNum c
  [⟨base, 4, fun x t => t.mapCore c fun y => y.movePc (BitVec.ofNat 32 x)⟩] ++
  ((List.range 31).map fun i => ⟨base + 4 * (i + 1), 4, fun x t => t.mapCore c fun y => y.wg (BitVec.ofNat 5 (i + 1)) (BitVec.ofNat 32 x)⟩) ++
  ((csrList c).zipIdx.filter fun e => csrWritable e.1).map (fun e =>
    ⟨base + 128 + 4 * e.2, 4, fun x t => t.putCsr c e.1 (BitVec.ofNat 32 x)⟩) ++
  (List.range 16).map fun r =>
    ⟨2048 + 512 * coreNum c + 32 * r, 32, fun x t => t.mapCore c fun y => y.winHandle (BitVec.ofNat 4 r) (BitVec.ofNat 256 x)⟩

/-- The fields in registers that a handler may write, for an allotment of va vectors. -/
def winItems (va : Nat) : List WinItem :=
  coreItems .load ++ coreItems .compute ++ coreItems .store ++
  ((List.range va).map fun r => ⟨16384 + 256 * r, 256, fun x t => t.winV r (BitVec.ofNat 2048 x)⟩) ++
  ((List.range va).map fun r => ⟨16384 + 256 * va + r, 1, fun x t => t.winTag r (BitVec.ofNat 8 x)⟩) ++
  ((List.range 8).map fun r => ⟨4352 + 8 * r, 8, fun x t => t.winP (BitVec.ofNat 3 r) (BitVec.ofNat 64 x)⟩) ++
  (List.range 6).flatMap fun r => (List.range 9).map fun k =>
    ⟨4096 + 36 * r + 4 * k, 4, fun x t => { t with ports := t.ports.setIfInBounds r (((t.ports[r]?).getD {}).putWord k (BitVec.ofNat 32 x)) }⟩

/-- Whether a byte of a task's image may be written (R418). -/
def Tile.writable (t : Tile) (o : Nat) : Bool :=
  ((winItems t.vallot.toNat).any fun i => decide (i.at_ ≤ o ∧ o < i.at_ + i.size)) ||
  decide (32768 ≤ o ∧ o < 32768 + 16384 * t.ringSlots.length) || decide (163840 ≤ o ∧ o < 163840 + t.task.limit)

/-! ### Resumption (R418) -/

/-- A tile's registers with the fields that writes touch as the image then holds them. -/
def Tile.withWrites (t : Tile) (l : List (Nat × List Byte)) (ws : List (Nat × Byte)) : Tile :=
  (winItems t.vallot.toNat).foldl (fun u i =>
    if ws.any fun w => decide (i.at_ ≤ w.1 ∧ w.1 < i.at_ + i.size) then
      i.put (leNat ((List.range i.size).map fun k => written ws (i.at_ + k) (partsByte l (i.at_ + k)))) u
    else u) t

/-- A byte written to a ring slot or to tile scratch of a tile; one to a live barrier slot is a plain store into it (R431). -/
def State.winStore (s : State) (t : Tile) (o : Nat) (b : Byte) : State :=
  if 163840 ≤ o then s.store (tileKey t.ptile.toNat + (o - 163840)) [b]
  else if 32768 ≤ o then (match t.ringSlots[(o - 32768) / 16384]? with
    | none => s
    | some n => s.writeBytes (ringKey t.ptile.toNat n + (o - 32768) % 16384) [b])
  else s

/-- The writes made through the state window of the task on a tile take effect: it is about to be resumed. -/
def State.takeWrites (s : State) (pt : BitVec 8) (ws : List (Nat × Byte)) : State :=
  match s.findTile pt with
  | none => s
  | some t => ws.foldl (fun u w => u.winStore t w.1 w.2) (s.mapTile pt fun u => u.withWrites (s.imageParts t.frozen) ws)

end Sys2Proof.Machine
end

