-- ==== Sys2Proof/Machine/Save.lean ====
section
/-! DEFINITION. Checkpoint, commit, restore and held completions (R48, R315, R319 to R323, R436 to R438). -/

namespace Sys2Proof.Machine

/-! ### The save area (R320) -/

/-- Bytes of an image slot. -/
def slotBytes : Nat := 2240 * 1024

/-- The number of image slots of a context. -/
def Ctx.slots (x : Ctx) : Nat := min 256 ((x.saveKB * 1024 - 65536) / slotBytes)

/-- The address, in the parent's space, of image slot k. -/
def Ctx.slotAt (x : Ctx) (k : Nat) : Nat := x.save + 65536 + slotBytes * k

/-- The first address beyond the area. -/
def Ctx.areaEnd (x : Ctx) : Nat := x.save + x.saveKB * 1024

/-- The area holds an image slot for every valid tile-map entry. -/
def Ctx.areaFits (x : Ctx) : Bool := decide (65536 + slotBytes * x.tileMap.length ≤ x.saveKB * 1024)

/-- The slots that no image of the context uses. -/
def Ctx.freeSlot (x : Ctx) : Option Nat := (List.range x.slots).find? fun k => !x.saved.any fun i => i.slot == k

/-- The directory entry of a slot: its address; the slot's number is the entry's (DESIGN CHOICE, log 22). -/
def Ctx.dirAt (x : Ctx) (k : Nat) : Nat := x.save + 4096 + 16 * k

/-- A directory entry. -/
def dirEntry (node inst slot : Nat) (valid : Bool) : Nat := node % 2 ^ 64 + inst * 2 ^ 64 + slot * 2 ^ 72 + (if valid then 2 ^ 80 else 0)

/-! ### The image (R320) -/

/-- Parts written from a base address in a context's space. -/
def State.gwriteParts (s : State) (c base : Nat) : List (Nat × List Byte) → Access State
  | [] => .ok s
  | (o, bs) :: ps =>
    match s.gwrite c (base + o) bs with
    | .error e => .error e
    | .ok t => t.gwriteParts c base ps

/-- A token slot with an uncorrectable error (R444): its fault is no operation's. -/
def Slot.struck : Slot → Bool
  | .filled _ _ => false
  | .pending _ => false
  | .poisoned _ t => t.cls == .memError && !t.async

/-- A read by the save that meets poison (R444): scratch, a ring slot, a register or a token. -/
def State.savePoisoned (s : State) (t : Tile) : Bool :=
  s.poisoned (tileKey t.ptile.toNat) t.task.limit || t.ringSlots.any (fun k => s.poisoned (ringKey t.ptile.toNat k) 16384) ||
  !(t.lc.bad.isEmpty && t.cc.bad.isEmpty && t.sc.bad.isEmpty) ||
  [t.q.lc, t.q.cl, t.q.cs, t.q.sc, t.q.ls, t.q.sl].any (·.slots.any Slot.struck)

/-! ### Checkpoint (R319) -/

/-- The cycles that a save takes (R317). -/
def saveCost (t : Tile) : Nat := (t.task.limit + t.occupancy * 16384 + 65536) / 256

/-- A checkpoint begins: the streams and engines stand still, and the image follows after the cycles that a save takes. -/
def State.beginSave (s : State) (pt : BitVec 8) : State :=
  match s.findTile pt with
  | none => s
  | some t =>
    if t.resident = false ∨ t.saving.isSome = true then s else
    ((s.mapTile pt fun u => { u with saving := some (s.now + saveCost u), drain := none }).dropLocks pt).after (saveCost t) .checkpoint
      (.tile pt)

/-- Whether an instruction that has issued is still under way: an ld.acq whose word has not come, or a stop not yet captured. -/
def Tile.unsettled (t : Tile) : Bool :=
  [t.lc, t.cc, t.sc].any (fun c => match c.hold with
    | some (.packet _ _ _) => true
    | _ => false) || ((t.stop.map fun x => !x.captured).getD false)

/-- Whether a packet of a task is in flight: it has been sent, and is neither acknowledged nor answered. -/
def State.inFlight (s : State) (tid : Nat) : Bool := s.unacked.any fun u => u.tid == tid && !u.waits && u.data.isNone && (match u.own with
  | .op _ _ => true
  | .rel => true
  | .acq => true
  | .counts => true
  | .req _ _ => false
  | .xfer _ _ _ _ => false)

/-- What a stream has sent in counted groups that no flag has carried yet. -/
def CoreSt.openCounts (c : CoreSt) : List SentCount := c.sent.filter fun x => x.group ≠ 0 && x.counts.any (· ≠ 0)

/-- The package-map entry by which the task in focus reaches a package. -/
def State.entryOf (s : State) (p : BitVec 12) : Option PkgMap :=
  (s.ctx? s.tile.task.cnum).bind fun y => y.pmap.find? fun e => e.p == p

/-- Every count-only flag that the task in focus still owes may be sent (R124). -/
def State.countsReady (s : State) : Bool := [CoreId.load, .compute, .store].all fun c => (s.tile.core c).openCounts.all fun x =>
  match s.entryOf x.pkg with
  | none => true
  | some e => s.flagOk c e x.group

/-- The streams' packet counts are reconciled by count-only flags, and restart (R124): the task may go on elsewhere. -/
def State.settleCounts (s : State) (c : CoreId) : State :=
  let s := (s.tile.core c).openCounts.foldl (fun t x => match t.entryOf x.pkg with
    | none => t
    | some e => t.sendCounts c e x.group) s
  s.setTile (s.tile.setCore c { s.tile.core c with sent := [] })

/-- The image of the task in focus written into a free slot, its record kept, and the tile left (R319 to R321). -/
def State.saveTile (s : State) : State :=
  let t := s.tile
  match s.ctx? t.task.cnum with
  | none => s
  | some x =>
    match x.freeSlot with
    | none => s.lostCtx x.cnum x.areaEnd
    | some k =>
      if s.savePoisoned t then s.lostCtx x.cnum (x.slotAt k) else
      let s := (((s.landEverything.settleCounts .load).settleCounts .compute).settleCounts .store).dropIdle t.task.id
      let f := s.tile.frozen
      match s.gwriteParts x.parent (x.slotAt k) (s.imageParts f) with
      | .error (_, a) => s.lostCtx x.cnum a
      | .ok u =>
        let off (k : Nat) : Nat := k - tileKey t.ptile.toNat
        let i : Image := { slot := k, gen := x.gen, valid := false, tile := f, disp := none
                           bars := (u.bars.filter (inScratch t.ptile)).map off
                           errs := (u.errs.filter fun e => inScratch t.ptile e.1).map fun e => (off e.1, e.2)
                           writes := [] }
        let late : Nat := match x.deadline with
          | some d => if x.out then s.since (min d s.now) else 0
          | none => 0
        ((((u.dropBars t.ptile).mapCtx x.cnum fun y => { y with saved := y.saved ++ [i] }).debit x.cnum late).leave t.ptile)

/-- R319: the image is written once every instruction that has issued is past, and every packet that the task has sent has been acknowledged or
answered (R120, R206). -/
def execCheckpoint (s : State) : Host.Outcome State Fault Refusal :=
  match s.arg with
  | .tile pt =>
    (match s.findTile pt with
     | none => .next s
     | some t =>
       match t.saving with
       | none => .next s
       | some c =>
         if t.resident = false ∨ s.now < c then .next s
         else if t.unsettled ∨ s.inFlight t.task.id = true ∨ ((s.swap pt).map State.countsReady) = some false then .next (s.after 8 .checkpoint (.tile pt))
         else .next (s.onFocus pt State.saveTile))
  | _ => .next s

/-- R318: a draining task still on its tile is checkpointed. -/
def execDrainBound (s : State) : Host.Outcome State Fault Refusal :=
  match s.arg with
  | .tile pt =>
    (match s.findTile pt with
     | none => .next s
     | some t => match t.drain with
       | none => .next s
       | some c => if t.resident = true ∧ c ≤ s.now then .next (s.beginSave pt) else .next s)
  | _ => .next s

/-! ### Commit (R321) and late dies (R438) -/

/-- The header but for GEN: guest time, paused time, image count; the rest of its 4 KiB is zero. -/
def State.saveHeader (s : State) (x : Ctx) : List Byte :=
  fit 4088 (leBytes 8 (s.guestTime x.cnum).toNat ++ leBytes 8 (BitVec.ofNat 64 (s.now / 3) - x.born - s.guestTime x.cnum).toNat ++
    leBytes 2 x.saved.length)

/-- The directory: the entry of each image slot, zero for one that holds no image. -/
def Ctx.directory (x : Ctx) : List Byte := packed 16 ((List.range 256).map fun k => match x.saved.find? fun i => i.slot == k with
  | some i => dirEntry i.tile.task.node i.tile.task.inst k true
  | none => 0)

/-- Directory, then the header, then GEN (R321). -/
def State.writeDirectory (s : State) (x : Ctx) : Access State :=
  s.gwriteParts x.parent x.save [(4096, x.directory), (8, s.saveHeader x), (0, leBytes 8 (x.gen + 1))]

/-- R321: with the last image of the switch or checkpoint written, or with a switch out that had none to write, the directory and then GEN are
written; a failure loses the context. -/
def execSaveCommit (s : State) : Host.Outcome State Fault Refusal :=
  match s.arg with
  | .num c =>
    (match s.ctx? c with
     | none => .next s
     | some x =>
       let busy := s.tiles.any fun t => t.resident && t.task.cnum == c && (t.saving.isSome || x.out)
       if busy = true ∨ ((x.saved.any fun i => !i.valid) || (x.out && x.deadline.isSome)) = false then .next s else
       if x.areaFits = false then .next (s.lostCtx c x.areaEnd) else
       match s.writeDirectory x with
       | .error (_, a) => .next (s.lostCtx c a)
       | .ok t => .next ((t.mapCtx c fun y => { y with
           gen := (y.gen + 1) % 2 ^ 64, torn := false, deadline := none
           saved := y.saved.map fun i => { i with valid := true, gen := (x.gen + 1) % 2 ^ 64 } }).after 0 .distributorPlace .none))
  | _ => .next s

/-- The dies, in the context's own numbering, on which a task of the context has not been saved. -/
def State.lateDies (s : State) (x : Ctx) : List Nat :=
  ((s.tiles.filter fun t => t.resident && t.task.cnum == x.cnum).filterMap fun t =>
    (x.tmap.find? fun e => e.p == t.ptile).map fun e => e.l / 32).eraseDups

/-- R438: a late die is granted a grace period of a tenth of the slice. -/
def execSaveDeadline (s : State) : Host.Outcome State Fault Refusal :=
  match s.arg with
  | .num c =>
    (match s.ctx? c with
     | none => .next s
     | some x => match x.deadline with
       | none => .next s
       | some d =>
         if x.out = false ∨ s.now < d then .next s
         else if (s.lateDies x).isEmpty then .next (s.mapCtx c fun y => { y with deadline := none })
         else .next (s.after (s.tickT * 300) .gracePeriodEnd (.num c)))
  | _ => .next s

/-- R438: a die still late makes the context TORN, and its parent hears of it. -/
def execGracePeriodEnd (s : State) : Host.Outcome State Fault Refusal :=
  match s.arg with
  | .num c =>
    (match s.ctx? c with
     | none => .next s
     | some x =>
       if x.out = false ∨ x.deadline = none then .next s else
       match s.lateDies x with
       | [] => .next s
       | d :: _ => .next ((s.mapCtx c fun y => { y with torn := true }).notify { cls := .ctxTorn, addr := d } c))
  | _ => .next s

/-! ### Restore (R322) -/

/-- A barrier key moved with its task's scratch from one tile to another. -/
def moveKey (a b : BitVec 8) (k : Nat) : Nat := if inScratch a k then k - tileKey a.toNat + tileKey b.toNat else k

/-- What refers to a saved task's scratch and tile refers to its new tile. -/
def State.rebase (s : State) (tid : Nat) (a b : BitVec 8) : State :=
  { s with reqs := s.reqs.map fun r => if r.tid = tid then
              { r with tile := b, dbar := r.dbar.map (moveKey a b), sbar := r.sbar.map (moveKey a b) } else r
           unacked := s.unacked.map fun u => if u.tid = tid then { u with tile := b } else u
           mail := s.mail.map fun m => if m.tid = some tid then { m with tile := some b } else m }

/-- The index list of an operation, moved with its task's scratch. -/
def OpKind.moved (a b : BitVec 8) : OpKind → OpKind
  | .gather l z => .gather (moveKey a b l) z
  | .scatter l => .scatter (moveKey a b l)
  | k => k

/-- The tile of an image as it stands on its new tile. -/
def Image.onTile (i : Image) (pt : BitVec 8) (l now : Nat) : Tile :=
  let a := i.tile.ptile
  let t := i.tile.mapCores fun c => { c with next := max c.next now }
  { t with ptile := pt, owner := some i.tile.task.cnum, resident := true
           task := { t.task with ltile := l, started := now }
           ops := t.ops.map fun o => { o with kind := o.kind.moved a pt, dbar := o.dbar.map (moveKey a pt), sbar := o.sbar.map (moveKey a pt) } }

/-- The bytes of the ring laid in the tile's ring slots. -/
def State.putRing (s : State) (pt : Nat) : List Nat → List Byte → State
  | [], _ => s
  | k :: ks, bs => (s.writeBytes (ringKey pt k) (bs.take 16384)).putRing pt ks (bs.drop 16384)

/-! ### The hold queue (R320, R323) -/

/-- The bytes that a collective's source barrier is credited with (R275). -/
def Req.sourceBytes (r : Req) : Nat := if r.fn7 = 5 then 0 else Handle.bytes (blockSrc r.block)

/-- The first four bytes of a held event: image slot, kind, what it names, ECODE. -/
def heldHead (k kind a ecode : Nat) : List Byte := leBytes 4 (k + (kind + a * 2 ^ 3 + ecode * 2 ^ 20) * 2 ^ 8)

/-- The ECODE that a function's barriers get at its completion point, 0 for a function that ends well (R268, R274). -/
def Req.ecode (r : Req) : Nat := if r.status = 0 ∧ r.raise.isNone then 0 else if r.status = stLost then 4 else 5

/-- A held reply: first what the function still does to its barriers in the task's own scratch (R268, R275), then the reply. -/
def Req.heldBytes (r : Req) (k : Nat) : List Byte :=
  let off (b : Nat) : Nat := (b - tileKey r.tile.toNat) / 16
  let own (b : Option Nat) : Option Nat := (b.filter (inScratch r.tile)).map off
  (match own r.dbar with
   | none => []
   | some a => heldHead k 2 a r.ecode ++ List.replicate 12 0) ++
  (match own r.sbar with
   | none => []
   | some a => if r.ecode = 0 then heldHead k 3 a 0 ++ leBytes 4 r.sourceBytes ++ List.replicate 8 0
               else heldHead k 5 a r.ecode ++ List.replicate 12 0) ++
  heldHead k 1 (coreNum r.core + r.mode * 4 + r.precise.toNat * 16 + r.gd.toNat * 32 + r.fn7 * 2 ^ 10) 0 ++
  [BitVec.ofNat 8 r.status, BitVec.ofNat 8 ((r.raise.map fun t => classNum t.cls + 1).getD 0), 0, 0] ++ leBytes 4 r.n ++ leBytes 4 r.word.toNat

/-- The 16-byte entries of a held event for an image slot; their layout is the model's (DESIGN CHOICE, log 22). -/
def State.heldBytes (s : State) (k : Nat) (e : HeldEv) : List Byte :=
  match e with
  | .reply n => ((s.reqs.find? fun r => r.n == n).map fun r => r.heldBytes k).getD []
  | .arrive a ec => heldHead k 2 (a / 16) ec ++ List.replicate 12 0
  | .error a ec => heldHead k 5 (a / 16) ec ++ List.replicate 12 0
  | .credit a n ch => heldHead k 3 (a / 16) 0 ++ leBytes 4 n ++ leBytes 8 ch.toNat
  | .fill c o => heldHead k 4 (coreNum c) 0 ++ leBytes 4 o ++ List.replicate 8 0

/-- The entries of a context's hold queue. -/
def State.heldAll (s : State) (x : Ctx) : List Byte := x.held.flatMap fun e => s.heldBytes e.1 e.2

/-- The numbers of a core's waits for replies, counted from n on. -/
def Hold.renumber (n : Nat) : Hold → Hold
  | .reply m => .reply (m + n)
  | .cop m pc => .cop (m + n) pc
  | .op q pc => .op q pc
  | .packet k d w => .packet k d w

/-- A core's waits for replies, numbered from n on. -/
def CoreSt.renumber (c : CoreSt) (n : Nat) : CoreSt :=
  { c with hold := c.hold.map (Hold.renumber n), pend := c.pend.map fun p => (p.1, p.2.renumber n) }

/-- A held event read from its 16 bytes, requests numbered from n on; none for an entry of no kind. -/
def heldOf (n : Nat) (b : List Byte) : Option (Nat × HeldEv) :=
  let w := numAt b 4 0
  let a := w / 2 ^ 11 % 2 ^ 17
  let e : Option HeldEv := match w / 2 ^ 8 % 8 with
    | 1 => some (.reply (numAt b 4 2 + n))
    | 2 => some (.arrive (16 * a) (w / 2 ^ 28))
    | 3 => some (.credit (16 * a) (numAt b 4 1) (BitVec.ofNat 64 (numAt b 8 1)))
    | 4 => some (.fill (coreAt a) (numAt b 4 1))
    | 5 => some (.error (16 * a) (w / 2 ^ 28))
    | _ => none
  e.map fun e => (w % 256, e)

/-- The request of a held reply, for one of the tasks in images; its barriers have had theirs by entries of their own. -/
def heldReq (n cnum : Nat) (l : List Image) (b : List Byte) : Option Req :=
  let w := numAt b 4 0
  let a := w / 2 ^ 11 % 2 ^ 17
  let c := numAt b 1 5
  if w / 2 ^ 8 % 8 ≠ 1 then none else
  (l.find? fun i => i.slot == w % 256).map fun i =>
    let core := coreAt (a % 4)
    let pc : Word := match (i.tile.core core).hold with
      | some (.cop _ pc) => pc
      | _ => 0
    let r : Req :=
      { n := numAt b 4 2 + n, tid := i.tile.task.id, tile := i.tile.ptile, core := core, cnum := cnum, fn7 := a / 2 ^ 10, mode := a / 4 % 4
        gd := BitVec.ofNat 5 (a / 32), pc := pc, precise := a.testBit 4, ga := 0, gb := 0, block := [], dbar := none, sbar := none, ep := none
        mark := 0, phase := 9, status := numAt b 1 4, word := BitVec.ofNat 32 (numAt b 4 3) }
    { r with raise := if c = 0 then none else (trapClasses[c - 1]?).map fun k => copTrap r k 0 0 r.status }

/-- The entries of a hold queue up to the first that is zero. -/
def heldEntries (b : List Byte) : List (List Byte) :=
  ((List.range 3584).map fun i => (b.drop (16 * i)).take 16).takeWhile fun e => leNat e ≠ 0

/-- The hold queue as a context has it: its entries, and a zero entry after them. -/
def State.writeHeld (s : State) (c : Nat) : State :=
  match s.ctx? c with
  | none => s
  | some x =>
    let l := s.heldAll x
    match s.gwrite x.parent (x.save + 8192) (fit (min (l.length + 16) 57344) l) with
    | .error (_, a) => s.lostCtx c a
    | .ok t => t

/-- One held event applied at the restore (R323). -/
def State.applyHeld (s : State) (pt : BitVec 8) (e : HeldEv) : State :=
  match e with
  | .reply n => s.after 0 .copReply (.num n)
  | .arrive a ecode =>
    let k := tileKey pt.toNat + a
    let s := if ecode = 0 then s else s.engineBar (some k) fun b => b.fail ecode
    s.engineBar (some k) Bar.arrive
  | .error a ecode => s.engineBar (some (tileKey pt.toNat + a)) fun b => b.fail ecode
  | .credit a n ch => s.engineBar (some (tileKey pt.toNat + a)) fun b => b.credit n ch
  | .fill c o => s.mapTile pt fun t => t.fill (.dma c (BitVec.ofNat 16 o)) s.now

/-- The image of a slot restored on a tile (R321 to R323, R414); a read that fails, or an entry that is not valid under the current GEN,
loses the context (R405, R436). -/
def State.restoreOn (s : State) (x : Ctx) (i : Image) (pt : BitVec 8) (l : Nat) : State :=
  let p := x.parent
  let n := 163840 + i.tile.task.limit
  let got : Access (State × List Byte × List Byte × List Byte) := do
    let (t, h) ← s.gread p x.save 4096
    let (t, d) ← t.gread p (x.dirAt i.slot) 16
    let (t, b) ← t.gread p (x.slotAt i.slot) n
    .ok (t, h, d, b)
  match got with
  | .error (_, a) => s.lostCtx x.cnum a
  | .ok (s, h, d, b) =>
    if leNat (h.take 8) ≠ x.gen ∨ leNat (h.drop 26) ≠ 0 ∨ leNat d ≠ dirEntry i.tile.task.node i.tile.task.inst i.slot true then s.lostCtx x.cnum (x.dirAt i.slot) else
    match s.gwrite p (x.dirAt i.slot) (leBytes 16 (dirEntry i.tile.task.node i.tile.task.inst i.slot false)) with
    | .error (_, a) => s.lostCtx x.cnum a
    | .ok s =>
      let s := s.ensureTile pt x.cnum
      let s := (s.mapTile pt fun _ => i.onTile pt l s.now).dropBars pt
      let s := (s.writeBytes (tileKey pt.toNat) (b.drop 163840)).putRing pt.toNat i.tile.ringSlots (b.drop 32768)
      let base := tileKey pt.toNat
      let s : State := { s with bars := i.bars.map (base + ·) ++ s.bars, errs := (i.errs.map fun e => (base + e.1, e.2)) ++ s.errs }
      let s := s.rebase i.tile.task.id i.tile.ptile pt
      let mine := x.held.filter fun e => e.1 == i.slot
      let s := s.mapCtx x.cnum fun y => { y with saved := y.saved.filter (fun j => j.slot ≠ i.slot)
                                                 held := y.held.filter fun e => e.1 ≠ i.slot }
      let s := mine.foldl (fun t e => t.applyHeld pt e.2) (s.writeHeld x.cnum)
      let s := if i.tile.stop.isNone then s.onFocus pt State.restartEngines else s
      let s := match i.disp with
        | some w => if i.tile.stop.isSome then
            (if (fld 0 3 w).toNat ≤ 1 then s.takeWrites pt i.writes else s).dispose pt (fld 0 3 w).toNat (fld 3 1 w == 1) else s
        | none => s
      s.after 0 .dieReport (.num (pdie pt.toNat))

/-- The free tiles of a context: logical and physical; PINNED's saved tasks keep their own (R310). -/
def State.freeTiles (s : State) (x : Ctx) : List (Nat × BitVec 8) :=
  (x.tmap.filter fun e => !(s.tiles.any (fun t => t.ptile == e.p && t.resident) ||
    x.saved.any fun i => i.tile.task.pinned && i.tile.task.ltile == e.l)).map fun e => (e.l, e.p)

/-- The free tile of a context with the lowest logical number that satisfies a condition. -/
def lowestTile (p : Nat → Bool) (l : List (Nat × BitVec 8)) : Option (Nat × BitVec 8) :=
  (l.filter fun e => p e.1).foldl (fun m e => match m with
    | none => some e
    | some y => if e.1 < y.1 then some e else some y) none

/-- Where a saved task may go: PINNED its own tile, another the lowest free tile that QAFF admits, outside a list. -/
def State.restoreTile (s : State) (x : Ctx) (i : Image) (but : List Nat) : Option (Nat × BitVec 8) :=
  if i.tile.task.pinned then
    match x.tileOf i.tile.task.ltile with
    | none => none
    | some p => if s.tiles.any (fun t => t.ptile == p && t.resident) then none else some (i.tile.task.ltile, p)
  else
    lowestTile (fun l => nodeAdmits (s.nodeRec x.cnum i.tile.task.node).img l && !but.contains l) (s.freeTiles x)

/-! ### Held completions (R323) -/

/-- R323: an event aimed at saved state is held; the 3,585th loses the context, with ADDR the hold queue's base (R436). -/
def execHeldEvent (s : State) : Host.Outcome State Fault Refusal :=
  match s.arg with
  | .held c k e =>
    (match s.ctx? c with
     | none => .next s
     | some x =>
       if x.lost then .next s
       else if (x.saved.any fun i => i.slot == k) = false then .next (match e with
         | .reply n => s.after 0 .copReply (.num n)
         | _ => s)
       else if 57344 < (s.heldAll x).length + (s.heldBytes k e).length then .next (s.lostCtx c (x.save + 8192))
       else .next ((s.mapCtx c fun y => { y with held := y.held ++ [(k, e)] }).writeHeld c))
  | _ => .next s

end Sys2Proof.Machine
end

