-- ==== Sys2Proof/Machine/Distributor.lean ====
section
/-! DEFINITION. The master distributor (R34 to R36, R40, R310, R311), pre-emption (R316 to R318) and the completion of tasks and nodes
(R38, R306, R442). -/

namespace Sys2Proof.Machine

/-- A list put in order: each element after those that come before it or tie with it. -/
def orderBy {α : Type} (before : α → α → Bool) (l : List α) : List α :=
  l.foldl (fun r x => r.takeWhile (fun y => !before x y) ++ x :: r.dropWhile fun y => !before x y) []

/-! ### Reports (R310) -/

/-- The report of a physical die for a context: logical die, mask of free tiles, free scratch in KiB. -/
def State.reportOf (s : State) (x : Ctx) (d : Nat) : Option (Nat × Nat × Nat × Nat) :=
  match x.tmap.filter fun e => pdie e.p.toNat == d with
  | [] => none
  | e :: es =>
    let free := s.freeTiles x
    let mask := ((e :: es).filter fun f => free.any fun y => y.1 == f.l).foldl (fun m f => m + 2 ^ (f.l % 32)) 0
    let kib := (s.tiles.filter fun t => t.resident && t.task.cnum == x.cnum && pdie t.ptile.toNat == d).foldl
      (fun n t => n + (2048 - t.task.limit / 1024)) 0
    some (x.cnum, e.l / 32, mask, kib)

/-- A die's reports replace those it made before. -/
def State.report (s : State) (d : Nat) : State :=
  let new := s.ctxs.filterMap fun x => s.reportOf x d
  { s with reports := new ++ s.reports.filter fun r => !new.any fun q => q.1 == r.1 && q.2.1 == r.2.1 }

/-- R310. -/
def execDieReport (s : State) : Host.Outcome State Fault Refusal :=
  match s.arg with
  | .num d => .next (s.report d)
  | _ => .next s

/-- Every compute die has reported: the reports are never older than the placement (log 23). -/
def State.reportAll (s : State) : State := (List.range 8).foldl State.report s

/-! ### Starting a task (R36) -/

/-- h0 at entry. -/
def entryHandle (args : Nat) : Handle :=
  BitVec.ofNat 256 (args % 2 ^ 48 + 3 * 2 ^ 48 + Fmt.code .uint8 * 2 ^ 50 + 4096 * 2 ^ 54 + 2 ^ 70 + 2 ^ 86 + 2 ^ 102)

/-- A core at entry. -/
def entryCore (n : NodeImg) (inst now lo : Nat) : CoreSt :=
  let c : CoreSt := { CoreSt.empty with pc := BitVec.ofNat 32 (0x10000 + 4 * nodeField n lo 16), fin := false, next := now
                                        precise := nodeFlag n 0, checkstall := nodeFlag n 1
                                        h := (Vector.replicate 16 0).set 0 (entryHandle (nodeField n 128 56)) }
  ((c.wg 4 (BitVec.ofNat 32 inst)).wg 5 (BitVec.ofNat 32 (nodeCount n))).wg 6 (BitVec.ofNat 32 (nodeId n))

/-- The task of an instance of a node. -/
def State.newTask (s : State) (n : NodeRec) (inst l : Nat) : Task where
  id := s.taskN
  cnum := n.cnum
  ltile := l
  node := n.addr
  run := n.run
  inst := inst
  icount := nodeCount n.img - 1
  nodeid := nodeId n.img
  gang := nodeGang n.img
  restartable := nodeFlag n.img 3
  pinned := nodePinned n.img
  prio := nodePrio n.img
  limit := nodeLimit n.img
  remtime := nodeField n.img 288 32 * 256
  started := s.now
  order := n.order
  epoch := s.epoch
  code := nodeField n.img 0 24
  gen := nodeField n.img 24 8

/-- An instance starts on a tile. -/
def State.startTask (s : State) (n : NodeRec) (inst l : Nat) (pt : BitVec 8) : State :=
  let s := s.ensureTile pt n.cnum
  let req := nodeField n.img 336 8
  let t : Tile := { Tile.empty pt with owner := some n.cnum, resident := true, task := s.newTask n inst l
                                       lc := entryCore n.img inst s.now 32, cc := entryCore n.img inst s.now 48
                                       sc := entryCore n.img inst s.now 64, vallot := if req = 0 then 8 else BitVec.ofNat 6 req }
  let s := (s.mapTile pt fun _ => t).putNode { n with st := 2, place := n.place.erase inst }
  ({ s with taskN := s.taskN + 1 } : State).after 0 .dieReport (.num (pdie pt.toNat))

/-! ### The choice of a tile (R311) -/

/-- The report of a logical die: how many free tiles, and the free scratch. -/
def State.reported (s : State) (c d : Nat) : Nat × Nat :=
  match s.reports.find? fun r => r.1 == c && r.2.1 == d with
  | none => (0, 0)
  | some r => (((List.range 32).filter fun i => r.2.2.1.testBit i).length, r.2.2.2)

/-- Whether die a is to be taken before die b: most free tiles first, or fewest under `few`; then the higher scratch count, then the lower
number. -/
def State.dieBefore (s : State) (c : Nat) (few : Bool) (a b : Nat) : Bool :=
  let x := s.reported c a
  let y := s.reported c b
  decide ((if few then x.1 < y.1 else y.1 < x.1) ∨ (x.1 = y.1 ∧ (y.2 < x.2 ∨ (x.2 = y.2 ∧ a < b))))

/-- The candidate that a node's HINT selects. -/
def State.chooseTile (s : State) (n : NodeRec) (cand : List (Nat × BitVec 8)) : Option (Nat × BitVec 8) :=
  let dies := (cand.map fun e => e.1 / 32).eraseDups
  let hint := nodeField n.img 88 2
  let near := n.src.bind fun p => ((s.ctx? n.cnum).bind fun x => x.tmap.find? fun e => e.p == p).map fun e => e.l / 32
  let best (few : Bool) : Option Nat := (orderBy (s.dieBefore n.cnum few) dies).head?
  let die := if hint = 1 then best true
    else if hint = 2 then (match near.filter dies.contains with
      | some d => some d
      | none => best false)
    else best false
  match die with
  | none => none
  | some d => lowestTile (fun l => l / 32 == d) cand

/-- The candidates of a node (R311). -/
def State.candidates (s : State) (n : NodeRec) : List (Nat × BitVec 8) :=
  match s.ctx? n.cnum with
  | none => []
  | some x => (s.freeTiles x).filter fun e => nodeAdmits n.img e.1

/-- Where an instance may go now. -/
def State.tileFor (s : State) (n : NodeRec) (inst : Nat) (but : List Nat) : Option (Nat × BitVec 8) :=
  if nodePinned n.img then
    (((s.ctx? n.cnum).map s.freeTiles).getD []).find? fun e => e.1 == nodeTbase n.img + inst
  else s.chooseTile n ((s.candidates n).filter fun e => !but.contains e.1)

/-- Tiles for a list of instances, each its own; none where one finds no tile. -/
def State.tilesFor (s : State) (n : NodeRec) : List Nat → List Nat → Option (List (Nat × Nat × BitVec 8))
  | [], _ => some []
  | i :: is, but =>
    match s.tileFor n i but with
    | none => none
    | some (l, p) => (s.tilesFor n is (l :: but)).map fun r => (i, l, p) :: r

/-- Instances of a node started in increasing order while tiles are found (R34). -/
def State.placeEach (n : NodeRec) : List Nat → State → State
  | [], s => s
  | i :: is, s =>
    match s.tileFor n i [] with
    | none => s
    | some (l, p) => State.placeEach n is ((s.startTask (s.nodeRec n.cnum n.addr) i l p).reportAll)

/-! ### Pre-emption (R316 to R318) -/

/-- DRAIN, KILL or CHECKPOINT. -/
inductive Policy where
  | drain | kill | checkpoint
  deriving DecidableEq, Repr

/-- The policy for one task (R317); a stopped task is always checkpointed (R414). -/
def policyOf (now bound : Nat) (t : Tile) : Policy :=
  let e := now - t.task.started
  if t.stop.isSome then .checkpoint
  else if t.task.remtime - e ≤ bound then .drain
  else if t.task.restartable = true ∧ e < 2 * saveCost t then .kill
  else .checkpoint

/-- The policy for tiles that go together: DRAIN or KILL only where each would. -/
def policyFor (now bound : Nat) (g : List Tile) : Policy :=
  match (g.map (policyOf now bound)).eraseDups with
  | [p] => p
  | _ => .checkpoint

/-- The save deadline in cycles: the greater of a quarter of the slice and 100 µs (R315). -/
def State.saveWindow (s : State) : Nat := max (s.tickT * 750) 300000

/-- The tiles of a list by node instance sets that leave together: a GANG node's as one, others singly. -/
def gangs : List Tile → List (List Tile)
  | [] => []
  | t :: ts =>
    match gangs ts with
    | g :: gs =>
      (match (g :: gs).find? fun q => q.any fun u => u.task.gang && t.task.gang && u.task.node == t.task.node &&
          u.task.cnum == t.task.cnum with
       | none => [t] :: g :: gs
       | some q => (t :: q) :: (g :: gs).erase q)
    | [] => [[t]]

/-- A group leaves its tiles by its policy (R318). -/
def State.evict (s : State) (bound : Nat) (g : List Tile) : State :=
  match policyFor s.now bound g with
  | .drain => g.foldl (fun u t => (u.mapTile t.ptile fun v => { v with drain := some (u.now + bound) }).after bound .drainBound
      (.tile t.ptile)) s
  | .kill => g.foldl (fun u t => u.killRelaunch t.ptile) s
  | .checkpoint => g.foldl (fun u t => u.beginSave t.ptile) s

/-- Whether tile a is to be a victim before tile b (R316). -/
def State.victimBefore (s : State) (a b : Tile) : Bool :=
  let r (t : Tile) : Nat := (s.nodeRec t.task.cnum t.task.node).readyAt
  decide (a.task.prio < b.task.prio ∨ (a.task.prio = b.task.prio ∧ (r b < r a ∨ (r a = r b ∧
    (b.task.nodeid < a.task.nodeid ∨ (a.task.nodeid = b.task.nodeid ∧ b.task.inst < a.task.inst))))))

/-- Whether a node could use a tile once it is free. -/
def nodeWants (n : NodeRec) (l : Nat) : Bool :=
  if nodePinned n.img then n.place.any fun i => nodeTbase n.img + i == l else nodeAdmits n.img l

/-- Victims taken in order until the need is met: a GANG node only whole, and only where all its tiles are needed. -/
def takeVictims (n : NodeRec) (all : List Tile) : Nat → List Tile → List (List Tile) → Option (List (List Tile))
  | 0, _, got => some got
  | _ + 1, [], _ => none
  | k + 1, t :: ts, got =>
    let g := if t.task.gang then all.filter fun u => u.task.node == t.task.node else [t]
    if got.any (fun q => q.any fun u => u.ptile == t.ptile) = true ∨ k + 1 < g.length ∨
        (g.all fun u => nodeWants n u.task.ltile && decide (u.task.prio < nodePrio n.img) && u.saving.isNone && u.drain.isNone) = false then
      takeVictims n all (k + 1) ts got
    else takeVictims n all (k + 1 - g.length) ts (got ++ [g])

/-- A node with no tile for its next instances pre-empts tasks of its own context (R316). -/
def State.preempt (s : State) (n : NodeRec) : State :=
  match s.ctx? n.cnum with
  | none => s
  | some x =>
    let mine := s.tiles.filter fun t => t.resident && t.task.cnum == n.cnum && t.task.node != n.addr
    let need := if nodeGang n.img then n.place.length else 1
    let wanted (l : Nat) : Bool := if nodePinned n.img && !nodeGang n.img then (n.place.head?.map fun i => nodeTbase n.img + i) == some l
      else nodeWants n l
    let free := ((s.freeTiles x).filter fun e => wanted e.1).length
    let coming := (mine.filter fun t => (t.saving.isSome || t.drain.isSome) && wanted t.task.ltile).length
    if need ≤ free + coming then s else
    let n' : NodeRec := if nodeGang n.img then n else { n with place := n.place.take 1 }
    let order := orderBy s.victimBefore (mine.filter fun t => decide (t.task.prio < nodePrio n.img))
    match takeVictims n' mine (need - free - coming) order [] with
    | none => s
    | some gs =>
      let bound (g : List Tile) : Nat :=
        min (65536 * (nodePrio n.img - ((g.head?.map (·.task.prio)).getD 0))) (s.saveWindow / 2)
      let killed := (gs.filter fun g => policyFor s.now (bound g) g == .kill).foldl (fun k g => k + g.length) 0
      let resident := (s.tiles.filter fun t => t.resident && t.task.cnum == n.cnum).length
      if x.slots < x.saved.length + resident - killed + need then s else
      gs.foldl (fun u g => u.evict (bound g) g) s

/-! ### Placing (R40, R311) -/

/-- A node's instances placed: a GANG node's all at once or none; where a tile lacks, it may pre-empt. -/
def State.placeNode (s : State) (c addr : Nat) : State :=
  let n := s.nodeRec c addr
  if n.place = [] ∨ n.dead = true ∨ (n.st ≠ 1 ∧ n.st ≠ 2) ∨ s.runnable c = false then s else
  let t := if nodeGang n.img then
      match s.tilesFor n n.place [] with
      | none => s
      | some l => (l.foldl (fun u e => u.startTask (u.nodeRec c addr) e.1 e.2.1 e.2.2) s).reportAll
    else State.placeEach n n.place s
  let m := t.nodeRec c addr
  if m.place = [] then t else t.preempt m

/-- The images that are restored together with one: a GANG node's. -/
def Ctx.imagesWith (x : Ctx) (i : Image) : List Image :=
  if i.tile.task.gang then x.saved.filter fun j => j.valid && j.tile.task.node == i.tile.task.node else [i]

/-- Tiles for images, each its own. -/
def State.tilesForImages (s : State) (x : Ctx) : List Image → List Nat → Option (List (Image × Nat × BitVec 8))
  | [], _ => some []
  | i :: is, but =>
    match s.restoreTile x i but with
    | none => none
    | some (l, p) => (s.tilesForImages x is (l :: but)).map fun r => (i, l, p) :: r

/-- A saved task restored, a GANG node's instances together or not at all (R35, R322). -/
def State.restoreGroup (s : State) (c slot : Nat) : State :=
  match s.ctx? c with
  | none => s
  | some x =>
    match x.saved.find? fun i => i.slot == slot && i.valid with
    | none => s
    | some i =>
      if s.runnable c = false then s else
      match s.tilesForImages x (x.imagesWith i) [] with
      | none => s
      | some l => l.foldl (fun u e => match u.ctx? c with
          | none => u
          | some y => if y.lost then u else u.restoreOn y e.1 e.2.2 e.2.1) s

/-- R322: a saved image is restored on a free tile of its context. -/
def execRestore (s : State) : Host.Outcome State Fault Refusal :=
  match s.arg with
  | .num2 c k => .next (s.restoreGroup c k)
  | _ => .next s

/-- What waits for tiles: a saved task or a node, with its PRIO, the cycle it became ready and its NODEID. -/
inductive Waiting where
  | image (c slot prio : Nat)
  | node (c addr prio readyAt nodeid : Nat)
  deriving DecidableEq, Repr

/-- PRIO. -/
def Waiting.prio : Waiting → Nat
  | .image _ _ p => p
  | .node _ _ p _ _ => p

/-- The order of R40; a saved task goes before a ready node of the same PRIO (log 23). -/
def waitsBefore (a b : Waiting) : Bool :=
  decide (b.prio < a.prio) || (a.prio == b.prio && (match a, b with
    | .image _ _ _, .node _ _ _ _ _ => true
    | .image _ _ _, .image _ _ _ => false
    | .node _ _ _ _ _, .image _ _ _ => false
    | .node _ _ _ r i, .node _ _ _ r' i' => decide (r < r' ∨ (r = r' ∧ i < i'))))

/-- All that waits for tiles. -/
def State.waitingWork (s : State) : List Waiting :=
  (s.ctxs.flatMap fun x => (x.saved.filter (·.valid)).map fun i => Waiting.image x.cnum i.slot i.tile.task.prio) ++
  (s.nodes.filter fun n => (n.st == 1 || n.st == 2) && !n.place.isEmpty && !n.dead).map fun n =>
    Waiting.node n.cnum n.addr (nodePrio n.img) n.readyAt (nodeId n.img)

/-- Whether saved tasks are being restored, or held completions released, in this cycle: nothing is placed before that (R315). -/
def State.settling (s : State) : Bool := s.due.any fun d => decide (d.at_ ≤ s.now) && (d.ev == .restore || d.ev == .heldEvent || d.ev == .copReply)

/-- R311. -/
def execDistributorPlace (s : State) : Host.Outcome State Fault Refusal :=
  if s.settling then .next (s.after 0 .distributorPlace .none) else
  .next ((orderBy waitsBefore s.waitingWork).foldl (fun t w => match w with
    | .image c k _ => (t.restoreGroup c k).reportAll
    | .node c a _ _ _ => t.placeNode c a) s.reportAll)

/-! ### Completion (R38) -/

/-- The words of a successor list after its count, or none where it is malformed or not readable (R306). -/
def State.successors (s : State) (c va : Nat) : Option (State × List Nat) :=
  if va % 4 ≠ 0 then none else
  match s.greadNat c va 4 with
  | .error _ => none
  | .ok (t, n) =>
    if 2 ^ 16 ≤ n then none else
    match t.gread c (va + 4) (4 * n) with
    | .error _ => none
    | .ok (u, bs) =>
      let l := (List.range n).map fun i => leNat ((bs.drop (4 * i)).take 4)
      if l.all fun w => decide (w < 2 ^ 16) then some (u, l) else none

/-- The address of node i in the table of the node at an address (R306). One that lies below 0 stands at its value modulo 2^64, where
nothing translates. -/
def tableNode (addr nodeid i : Nat) : Nat := (addr + 2 ^ 64 - 64 * nodeid + 64 * i) % 2 ^ 64

/-- Successors of the node at an address decremented in list order; those that became ready. -/
def State.decrementAll (s : State) (c addr nodeid : Nat) : List Nat → State × List Nat
  | [] => (s, [])
  | i :: is =>
    let a := tableNode addr nodeid i
    let (t, d) := s.decrement c a none (some (i, 7))
    let (u, l) := t.decrementAll c addr nodeid is
    (u, if (match d with
      | .applied _ r => r
      | .zero => false
      | .rejected => false) then a :: l else l)

/-- A node's future is resolved with a value (R38, R442); in another package by a request of the launcher's own. -/
def State.resolveNode (s : State) (c addr fut : Nat) (v : Word) : State :=
  if fut = 0 then s else
  match s.podTarget c fut with
  | none => s.notify { cls := .placeUnmapped, access := 4, addr := fut, node := some addr } c
  | some (e, va) =>
    if e.p ≠ s.self then
      let r : Req := { n := s.reqN, tid := 0, tile := 0, core := .load, cnum := c, fn7 := 0x41, mode := 3, gd := 0, pc := 0, precise := false
                       ga := BitVec.ofNat 32 addr, gb := BitVec.ofNat 32 (addr / 2 ^ 32), block := [], dbar := none, sbar := none, ep := none
                       mark := 0, phase := 1 }
      ({ s with reqs := s.reqs ++ [r], reqN := s.reqN + 1 } : State).tell e.p
        (.copRequest s.self e.rcref (s.crefOf c) r.n 0x41 (BitVec.ofNat 32 va) v (leBytes 8 va))
    else
      match s.futEnd c va 2 (futResolve v.toNat) with
      | .error (cls, a) => s.notify { cls := cls, access := 4, addr := if a = va then fut else a, node := some addr } c
      | .ok (t, l) => t.futNodes c none l

/-- A node whose last instance is complete is complete: its future is resolved, its successors are decremented, and packets that count
it go on (R38, R306, R442). -/
def State.nodeComplete (s : State) (c addr : Nat) : State :=
  let n := s.nodeRec c addr
  let s := s.putNode { n with st := 3, ended := true }
  let s := s.resolveNode c addr (nodeFuture n.img) n.a0
  if nodeSuccs n.img = 0 then s.nodeEnded c addr [] else
  match s.successors c (nodeSuccs n.img) with
  | none => s.reject c addr 8 (some n.img)
  | some (t, l) =>
    let (u, ready) := t.decrementAll c addr (nodeId n.img) l
    u.nodeEnded c addr ready

/-- The task on the tile in focus completes: what is left in its queues is discarded, and the node counts it (R38). -/
def State.completeTask (s : State) : State :=
  let k := s.tile.task
  let a0 := s.tile.cc.rg 4
  let s := (((s.settleCounts .load).settleCounts .compute).settleCounts .store)
  let s := (s.setTile { s.tile with q := {} }).leave s.tile.ptile
  let n := s.nodeRec k.cnum k.node
  if n.st ≠ 2 ∨ n.run ≠ k.run then s else
  let s := s.putNode { n with left := n.left - 1, a0 := if k.inst = 0 then a0 else n.a0 }
  if n.left = 1 then s.nodeComplete k.cnum k.node else s

/-- R38. -/
def execTaskCompletion (s : State) : Host.Outcome State Fault Refusal :=
  match s.arg with
  | .tile pt => .next (s.onFocus pt fun t => if t.taskDone = true ∧ t.tile.stop = none then t.completeTask else t)
  | _ => .next s

end Sys2Proof.Machine
end

