-- ==== Sys2Proof/Machine/Queues.lean ====
section
/-! DEFINITION. Command queues, their packets and the scanner (R299 to R305). -/

namespace Sys2Proof.Machine

/-! ### Descriptors (R299) -/

/-- A field of a queue's descriptor. -/
def QSt.field (q : QSt) (lo n : Nat) : Nat := (fld lo n q.desc).toNat
/-- ENABLE. -/
def QSt.enabled (q : QSt) : Bool := q.field 0 1 == 1
/-- LOC: the ring and indices lie in host memory. -/
def QSt.host (q : QSt) : Bool := q.field 1 1 == 1
/-- HOLD. -/
def QSt.hold (q : QSt) : Bool := q.field 2 1 == 1
/-- The number of ring entries. -/
def QSt.size (q : QSt) : Nat := 2 ^ q.field 8 5
/-- The address of packet n. -/
def QSt.packetAt (q : QSt) (n : Nat) : Nat := q.field 64 64 + 64 * (n % q.size)
/-- WIDX. -/
def QSt.widx (q : QSt) : Nat := q.field 128 64
/-- RIDX. -/
def QSt.ridx (q : QSt) : Nat := q.field 192 64

/-- A descriptor that is performed: reserved fields zero, LOG2N from 4 to 16 (R405). -/
def QSt.ok (q : QSt) : Bool := q.field 3 5 == 0 && q.field 13 51 == 0 && decide (4 ≤ q.field 8 5 ∧ q.field 8 5 ≤ 16)

/-- Key of a byte of host memory, which the device reaches over CXL (log 24). -/
def hostKey (a : Nat) : Nat := 2 ^ 60 + a

/-- The deepest context that holds a queue; the keystone holds what is granted to none (R299). -/
def State.queueOwner (s : State) (q : Nat) : Nat :=
  ((s.ctxs.filter fun x => x.queues.contains q).foldl (fun (m : Nat × Nat) x => if m.2 < x.depth then (x.cnum, x.depth) else m) (0, 0)).1

/-- n bytes read for a queue: host memory under LOC = 1, else the owner's space. -/
def State.qread (s : State) (q : QSt) (c a n : Nat) : Access (State × List Byte) :=
  if q.host then .ok (s, Mem.readRange s.mem (hostKey a) n) else s.gread c a n

/-- Bytes written for a queue. -/
def State.qwrite (s : State) (q : QSt) (c a : Nat) (bs : List Byte) : Access State :=
  if q.host then .ok (s.writeBytes (hostKey a) bs) else s.gwrite c a bs

/-- A queue's entry replaced. -/
def State.putQueue (s : State) (q : QSt) : State := { s with queues := q :: s.queues.filter fun p => p.n ≠ q.n }

/-- QUEUE.ERROR to the queue's owner. -/
def State.queueError (s : State) (c : Nat) (addr : Nat) (node : Option Nat) : State :=
  s.notify { cls := .queueError, addr := addr, node := node } c

/-- A queue is disabled, and QUEUE.ERROR names an address (R300). -/
def State.queueFails (s : State) (q : QSt) (c addr : Nat) : State :=
  (s.putQueue { q with desc := putField q.desc 0 1 0 }).queueError c addr none

/-! ### Packets (R301, R302) -/

/-- A field of a packet. -/
def pktField (p : BitVec 512) (lo n : Nat) : Nat := (fld lo n p).toNat
/-- BARRIER. -/
def pktBarrier (p : BitVec 512) : Bool := pktField p 16 1 == 1
/-- SIG. -/
def pktSig (p : BitVec 512) : Bool := pktField p 17 1 == 1

/-- A packet that is performed: OPC 0 to 2, reserved fields zero, the arguments as its OPC has them. -/
def pktOk (p : BitVec 512) : Bool :=
  decide (pktField p 0 16 ≤ 2) && pktField p 18 46 == 0 && pktField p 384 128 == 0 &&
  (match pktField p 0 16 with
   | 1 => pktField p 128 128 == 0
   | 2 => pktField p 208 48 == 0 && pktField p 192 16 != 0
   | _ => true)

/-- The step of a packet's OPC. -/
def pktStep (p : BitVec 512) : Instr :=
  match pktField p 0 16 with
  | 0 => .packetNop
  | 1 => .node
  | _ => .graph

/-- Packets of a queue that may start now, in index order: one with BARRIER only when no earlier one is left (R301, R302). -/
def startable (q : Nat) : Bool → List Pkt → List Pkt
  | _, [] => []
  | earlier, p :: ps =>
    if p.q ≠ q then startable q earlier ps
    else if p.st ≠ 0 then startable q true ps
    else if pktBarrier p.pkt && earlier then []
    else p :: startable q true ps

/-- A list with the first element equal to one replaced. -/
def swapFirst {α : Type} [DecidableEq α] (a b : α) : List α → List α
  | [] => []
  | x :: xs => if x = a then b :: xs else x :: swapFirst a b xs

/-- A packet's entry replaced: a packet of an earlier enabling with the same index is another one. -/
def State.swapPkt (s : State) (a b : Pkt) : State := { s with packets := swapFirst a b s.packets }

/-- The packets of a queue that may start do so. -/
def State.startPackets (s : State) (q : Nat) : State :=
  (startable q false s.packets).foldl (fun t p => (t.swapPkt p { p with st := 1 }).after 0 (pktStep p.pkt) (.cmd q p.pkt)) s

/-- The started packet of a queue with given contents. -/
def State.startedPkt (s : State) (q : Nat) (p : BitVec 512) : Option Pkt :=
  s.packets.find? fun x => x.q = q ∧ x.pkt = p ∧ x.st = 1

/-- A started packet counts nodes from now on; with none left it is complete. -/
def State.runPkt (s : State) (p : Pkt) (nodes : List Nat) : State :=
  (s.swapPkt p { p with st := 2, nodes := nodes }).packetsEnd

/-- R301: a packet that does nothing. -/
def execPacketNop (s : State) : Host.Outcome State Fault Refusal :=
  match s.arg with
  | .cmd q x => (match s.startedPkt q x with
    | none => .next s
    | some p => .next (s.runPkt p []))
  | _ => .next s

/-- Whether a context is LOST (R437). -/
def State.isLost (s : State) (c : Nat) : Bool := ((s.ctx? c).map (·.lost)).getD true

/-- R302: as node.launch; the packet counts the node if its decrement launched it. -/
def execNode (s : State) : Host.Outcome State Fault Refusal :=
  match s.arg with
  | .cmd q x => (match s.startedPkt q x with
    | none => .next s
    | some p =>
      if s.isLost p.cnum then .next (s.runPkt p []) else
      let a := pktField x 64 64
      let (t, d) := s.decrement p.cnum a none none
      .next (t.runPkt p (match d with
        | .applied _ true => [a]
        | .applied _ false => []
        | .zero => []
        | .rejected => [])))
  | _ => .next s

/-- Whether a node's run is under way, so that a packet counts it. -/
def State.nodeOpen (s : State) (c a : Nat) : Bool :=
  match s.node? c a with
  | none => false
  | some n => decide (n.st ≤ 2) && !n.ended

/-- The roots of a graph from word k on (R302): those counted. -/
def graphRoots (c table list : Nat) : Nat → Nat → State → State × List Nat
  | 0, _, s => (s, [])
  | n + 1, k, s =>
    match s.greadNat c (list + 4 * k) 4 with
    | .error e => ((s.deviceError e.1 c e.2 4).queueError c (list + 4 * k) none, [])
    | .ok (t, w) =>
      let a := table + 64 * (w % 2 ^ 16)
      if 2 ^ 16 ≤ w then
        let img := match t.gread c a 64 with
          | .ok (_, bs) => some (BitVec.ofNat 512 (leNat bs))
          | .error _ => none
        graphRoots c table list n (k + 1) (t.reject c a 9 img)
      else
        let (u, d) := t.decrement c a none (some (w, 9))
        match d with
        | .zero => graphRoots c table list n (k + 1) (u.queueError c 0 (some a))
        | .rejected => graphRoots c table list n (k + 1) u
        | .applied _ _ =>
          let (v, l) := graphRoots c table list n (k + 1) u
          (v, a :: l)

/-- R302: each root is decremented in root-list order. -/
def execGraph (s : State) : Host.Outcome State Fault Refusal :=
  match s.arg with
  | .cmd q x => (match s.startedPkt q x with
    | none => .next s
    | some p =>
      if s.isLost p.cnum then .next (s.runPkt p []) else
      let (t, l) := graphRoots p.cnum (pktField x 64 64) (pktField x 128 64) (pktField x 192 16) 0 s
      .next (t.runPkt p (l.eraseDups.filter fun a => t.nodeOpen p.cnum a)))
  | _ => .next s

/-- R303: SIGVAL is written, the packet is complete, and packets that waited for it start. -/
def execPacketCompletion (s : State) : Host.Outcome State Fault Refusal :=
  match s.arg with
  | .num2 q i =>
    (match s.packets.find? fun x => x.q = q ∧ x.idx = i ∧ x.st = 3 with
     | none => .next s
     | some p =>
       let s := { s with packets := s.packets.erase p }
       let d := (s.queues.find? fun y => y.n = q).getD ⟨q, 0, 0, 0, 0, 0⟩
       let addr := pktField p.pkt 256 64
       let s := if pktSig p.pkt then
           (match s.qwrite d p.cnum addr (leBytes 8 (pktField p.pkt 320 64)) with
            | .error _ => s.queueError p.cnum addr none
            | .ok t => t)
         else s
       .next (s.startPackets q))
  | _ => .next s

/-! ### The scanner (R304, R305) -/

/-- Packets parsed from the read index on, at most n (R300). -/
def parsePackets (c : Nat) : Nat → QSt → State → State
  | 0, q, s => s.putQueue q
  | n + 1, q, s =>
    match s.qread q c (q.packetAt q.rd) 64 with
    | .error e => s.queueFails q c e.2
    | .ok (t, bs) =>
      match t.qwrite q c q.ridx (leBytes 8 (q.rd + 1)) with
      | .error e => t.queueFails q c e.2
      | .ok u =>
        let x : BitVec 512 := BitVec.ofNat 512 (leNat bs)
        let r := { q with rd := q.rd + 1 }
        if pktOk x then
          parsePackets c n r { u with packets := u.packets ++ [{ q := q.n, idx := q.rd, pkt := x, st := 0, cnum := c, nodes := [] }] }
        else parsePackets c n r (u.queueError c (q.packetAt q.rd) none)

/-- One poll (R304): the write index is read and new packets are parsed; the interval doubles where there is none. -/
def State.poll (s : State) (q : QSt) : State :=
  let c := s.queueOwner q.n
  if q.ok = false then s.queueFails q c 0 else
  match s.qread q c q.widx 8 with
  | .error e => s.queueFails q c e.2
  | .ok (t, bs) =>
    let w := leNat bs
    let ival := if w = q.rd then min (2 * q.ival) 262144 else 64
    let q := { q with ival := ival, due := t.now / 3 + ival }
    if w < q.wr ∨ q.rd + q.size < w then t.queueFails q c q.widx else
    ((parsePackets c (w - q.rd) { q with wr := w } t).startPackets q.n).after (3 * ival) .queuePoll (.num q.n)

/-- The queues due now, the one after the last served first (R304). -/
def State.nextDue (s : State) : Option QSt :=
  let turn (q : QSt) : Nat := (q.n + 4095 - s.scanLast) % 4096
  (s.queues.filter fun q => q.enabled && decide (q.due ≤ s.now / 3)).foldl (fun m q => match m with
    | none => some q
    | some p => if turn q < turn p then some q else some p) none

/-- R304: at most one poll every 4 ns; the due queues are served in turn. -/
def execQueuePoll (s : State) : Host.Outcome State Fault Refusal :=
  match s.arg with
  | .num n =>
    (match s.nextDue with
     | none => .next s
     | some q =>
       if s.now < s.scanAt then .next (s.after (s.scanAt - s.now) .queuePoll (.num n)) else
       let t := { s with scanLast := q.n, scanAt := s.now + 12 }.poll q
       .next (if q.n = n then t else t.after 12 .queuePoll (.num n)))
  | _ => .next s

/-- R305: a held queue whose line is invalidated is due at once. -/
def execHeldLineInvalidate (s : State) : Host.Outcome State Fault Refusal :=
  match s.arg with
  | .num n =>
    (match s.queues.find? fun q => q.n = n with
     | none => .next s
     | some q =>
       if q.enabled && q.host && q.hold then
         .next ((s.putQueue { q with ival := 64, due := s.now / 3 }).after 0 .queuePoll (.num n))
       else .next s)
  | _ => .next s

end Sys2Proof.Machine
end

