-- ==== Sys2Proof/Machine/Slice.lean ====
section
/-! DEFINITION. The slice tick: budgets, gang switches and guest time (R312 to R315, R324), the log ring (R365), and code pages
(R369 to R373, R447). -/

namespace Sys2Proof.Machine

/-! ### The log ring (R365) -/

/-- Event codes of a log entry. -/
def logArm : Nat := 0
/-- TICK. -/
def logTick : Nat := 1
/-- DISARM. -/
def logDisarm : Nat := 2
/-- END. -/
def logEnd : Nat := 3

/-- A log entry's 64 bytes. -/
def logBytes (m : Monitor) (event cref : Nat) (when_ : BitVec 64) : List Byte :=
  leBytes 8 (m.n % 64 + event * 64 + cref * 256) ++ leBytes 8 m.reads ++ leBytes 8 m.writes ++ leBytes 8 m.first.toNat ++
  leBytes 8 m.last.toNat ++ leBytes 8 when_.toNat ++ leBytes 16 0

/-- An entry of a monitor of context c appended to the ring of its owner, and WCOUNT after it; none for an owner whose control page is not
mapped writable, or cannot be written. A monitor with an entry has no change to report (R365). -/
def State.logEntry (s : State) (c : Nat) (m : Monitor) (event : Nat) : State :=
  match s.ctx? m.owner with
  | none => s
  | some o =>
    match s.gwrite o.cnum (0x2000 + 64 * (o.logN % 896)) (logBytes m event (s.crefOf c).toNat (s.guestTime c)) with
    | .error _ => s
    | .ok t =>
      match t.gwrite o.cnum 0x1000 (leBytes 8 (o.logN + 1)) with
      | .error _ => s
      | .ok u => (u.mapCtx o.cnum fun y => { y with logN := y.logN + 1 }).mapCtx c fun x =>
          { x with mons := x.mons.map fun y => if y.n = m.n then { y with changed := false } else y }

/-- TICK entries of the monitors whose counts have changed (R365). -/
def State.logTicks (s : State) : State :=
  (s.ctxs.flatMap fun x => (x.mons.filter (·.changed)).map fun m => (x.cnum, m)).foldl (fun t e => t.logEntry e.1 e.2 logTick) s

/-! ### Budgets (R312, R313) -/

/-- fraction(c). -/
def Ctx.fraction (x : Ctx) : Nat := if x.share = 0 then 65536 else x.share

/-- Ent(c) in tile-nanoseconds for a slice of T µs, rounded down at each level (log 25). -/
def State.ent (s : State) (c t : Nat) : Nat :=
  ((s.lineage c).filter fun x => x.cnum ≠ 0).foldr (fun x e => e * x.fraction / 65536) (256 * t * 1000)

/-- The residence of every task up to now is debited. -/
def State.debitAll (s : State) : State :=
  (s.tiles.filter (·.resident)).foldl (fun t u => t.debit u.task.cnum (t.since (max u.task.started t.tickAt))) s

/-- A change made to every context. -/
def State.eachCtx (s : State) (f : Ctx → Ctx) : State := { s with ctxs := s.ctxs.map f }

/-- Shares come into force and balances are refilled; a balance of 0 or less throttles. -/
def State.refill (s : State) : State :=
  let s := s.eachCtx fun x => { x with share := x.newShare.getD x.share, newShare := none }
  s.eachCtx fun x =>
    if x.cnum = 0 then x else
    let e : Int := s.ent x.cnum s.tickT
    let b := min (x.balance + e) (2 * e)
    { x with balance := b, throttled := decide (b ≤ 0) }

/-! ### Guest time (R324) -/

/-- Whether guest time of a context stands. -/
def State.timeStands (s : State) (c : Nat) : Bool := (s.lineage c).any fun x => x.paused || x.transit

/-- Guest times stopped and started as the contexts' states now have it; none ever jumps. -/
def State.fixTimes (s : State) : State :=
  s.eachCtx fun x =>
    match x.gstop with
    | none => if s.timeStands x.cnum then { x with gstop := some (s.guestTime x.cnum) } else x
    | some t => if s.timeStands x.cnum then x else { x with gstop := none, gbase := t - BitVec.ofNat 64 (s.now / 3) }

/-! ### Gang switches (R314, R315) -/

/-- Whether a context is kept off its tiles by a budget or a PAUSE. -/
def State.keptOut (s : State) (c : Nat) : Bool := (s.lineage c).any fun x => x.throttled || x.paused

/-- A context is switched out (R315). -/
def State.switchOut (s : State) (c : Nat) : State :=
  let w := s.saveWindow
  let s := s.mapCtx c fun x => { x with out := true, deadline := some (s.now + w) }
  let g := gangs (s.tiles.filter fun t => t.resident && t.task.cnum == c && t.saving.isNone && t.drain.isNone)
  ((g.foldl (fun t q => t.evict (w / 2) q) s).after 0 .saveCommit (.num c)).after w .saveDeadline (.num c)

/-- A context is switched in: saved tasks are restored, in the order they were saved, before anything new is placed (R315). -/
def State.switchIn (s : State) (c : Nat) : State :=
  let s := s.mapCtx c fun x => { x with out := false, deadline := none }
  let s := (s.tiles.filter fun t => t.resident && t.task.cnum == c).foldl (fun t u => t.mapTile u.ptile fun v => { v with drain := none }) s
  (((s.ctx? c).map (·.saved)).getD []).foldl (fun t i => t.after 0 .restore (.num2 c i.slot)) s

/-- Whether a context that is out may be switched in: every image of the switch is committed, and it is neither lost, torn nor in
transit. -/
def State.mayReturn (s : State) (x : Ctx) : Bool :=
  x.out && !s.keptOut x.cnum && !x.lost && !x.torn && !(s.lineage x.cnum).any (·.transit) && x.saved.all (·.valid) &&
  !s.tiles.any fun t => t.resident && t.task.cnum == x.cnum && t.saving.isSome

/-- A pause of a context that is out already: its header gets the guest time it stands at (R324, R325). -/
def State.recommit (s : State) (c : Nat) : State := (s.mapCtx c fun x => { x with deadline := some s.now }).after 0 .saveCommit (.num c)

/-- Replies to ctx.budget are due at the tick (R291). -/
def State.budgetReplies (s : State) : State :=
  (s.reqs.filter fun r => r.fn7 == 0x54 && r.phase == 1).foldl (fun t r => t.endReq r.n 0) s

/-- R314: the tick. -/
def execSliceTick (s : State) : Host.Outcome State Fault Refusal :=
  let s := s.debitAll
  let s := ({ s with tickAt := s.now, tickT := s.tickNew } : State).refill
  let s := s.eachCtx fun x => { x with paused := (x.paused || x.pauseReq) && !x.resumeReq, pauseReq := false, resumeReq := false }
  let ran := (s.ctxs.filter fun x => x.out && !x.lost && x.deadline.isNone && x.gstop.isNone).map (·.cnum)
  let s := s.fixTimes
  let s := (ran.filter s.timeStands).foldl State.recommit s
  let s := ((s.ctxs.filter fun x => x.cnum ≠ 0 && !x.out && !x.lost && s.keptOut x.cnum).map (·.cnum)).foldl State.switchOut s
  let s := ((s.ctxs.filter s.mayReturn).map (·.cnum)).foldl State.switchIn s
  let s := (s.budgetReplies).logTicks
  .next ((s.after 0 .distributorPlace .none).after (s.tickT * 3000) .sliceTick .none)

/-! ### Code pages (R369, R372, R373, R447) -/

/-- A code object's entry changed. -/
def State.mapCode (s : State) (c i g : Nat) (f : Code → Code) : State :=
  { s with codes := s.codes.map fun o => if o.cnum = c ∧ o.ident = i ∧ o.gen = g then f o else o }

/-- The first fetch of a code page by the task in focus: read, hashed, mapped; a mismatch quarantines the generation, and a task of a
quarantined generation is killed (R372, R447). -/
def State.checkPage (s : State) (core : CoreId) (k : Nat) : State :=
  match s.codeOf s.tile.task with
  | none => s
  | some o =>
    if o.quarantined then s.killTask s.tile.ptile 5 else
    let va := o.image + codePage * (1 + k)
    match s.gread o.cnum va codePage with
    | .error (cls, a) => s.takeTrap (some core) { cls := cls, access := 3, addr := a }
    | .ok (t, bs) =>
      if o.hash[k]? = some (Config.shake256 bs 32) then
        (t.writeBytes (codeKey o.slot + codePage * k) bs).mapCode o.cnum o.ident o.gen fun p => { p with checked := k :: p.checked }
      else
        (t.mapCode o.cnum o.ident o.gen fun p => { p with quarantined := true }).takeTrap (some core)
          { cls := .codeHash, access := 3, addr := (s.tile.core core).pc.toNat }

/-- R372. -/
def execCodePageCheck (s : State) : Host.Outcome State Fault Refusal :=
  match s.arg with
  | .fetch pt c k => .next (s.onFocus pt fun t => if t.tile.halted ∨ t.tile.resident = false then t else t.checkPage c k)
  | _ => .next s

/-- Whether a task of the package, resident or saved, started before an epoch (R373). -/
def State.olderTask (s : State) (u : Nat) : Bool :=
  s.tiles.any (fun t => t.resident && decide (t.task.epoch < u)) ||
  s.ctxs.any fun x => x.saved.any fun i => decide (i.tile.task.epoch < u)

/-- R373: an UNLOADING generation that no task can fetch from any more leaves the table, and its pages the store. -/
def execCodeGenerationFree (s : State) : Host.Outcome State Fault Refusal :=
  match s.arg with
  | .page c i g _ =>
    (match s.codes.find? fun o => o.cnum = c ∧ o.ident = i ∧ o.gen = g with
     | none => .next s
     | some o => match o.unload with
       | none => .next s
       | some u => if s.olderTask u then .next s else .next (({ s with codes := s.codes.erase o } : State).zeroBytes (codeKey o.slot) (2 ^ 22)))
  | _ => .next s

/-- R372: the store drops a page, which a later fetch reads and checks again. -/
def execCodeStoreDrop (s : State) : Host.Outcome State Fault Refusal :=
  match s.arg with
  | .page c i g k => .next (s.mapCode c i g fun o => { o with checked := o.checked.filter (· ≠ k) })
  | _ => .next s

end Sys2Proof.Machine
end

