-- ==== Sys2Proof/Machine/Contexts.lean ====
section
/-! DEFINITION. The context engine's functions (R285 to R293, R350 to R360), range monitors and guest time (R296 to R298), scrubs and
receipts (R366, R367, R445, R446). -/

namespace Sys2Proof.Machine

/-! ### At issue (R265, R285) -/

/-- A CREF argument leaves bits [31:20] zero. -/
def crefArg (y : Word) : Bool := fld 20 12 y == 0

/-- The argument rules of a create block (R287). -/
def createArgs (_ y : Word) (b : List Byte) : Bool :=
  y == 0 && decide (blockNat b 2 1 < 2) && decide (blockNat b 3 1 ≤ 96) && blockNat b 4 8 % 4096 == 0 && decide (blockNat b 4 8 < 2 ^ 44) &&
  blockZero b 16 32

/-- The argument rules of a grant block (R288, R426). -/
def grantArgs (_ y : Word) (b : List Byte) : Bool :=
  crefArg y && blockZero b 1 4 &&
  (match blockNat b 0 1 with
   | 0 => blockZero b 7 32 && decide (blockNat b 4 1 + blockNat b 5 1 < 256 ∧ blockNat b 6 1 + blockNat b 5 1 < 256)
   | 1 => blockZero b 10 16 && blockZero b 24 32 && decide (blockNat b 4 2 < 4096 ∧ blockNat b 6 2 < 4096 ∧ blockNat b 8 2 < 4096 ∧
       blockNat b 4 2 + blockNat b 8 2 < 4096 ∧ blockNat b 6 2 + blockNat b 8 2 < 4096 ∧
       blockNat b 16 8 % 4 = 0 ∧ blockNat b 16 8 < 2 ^ 44)
   | 2 => decide (blockNat b 4 1 < 8) && blockZero b 5 8 && blockZero b 28 32 &&
       decide (blockNat b 8 8 % 65536 = 0 ∧ blockNat b 16 8 % 65536 = 0 ∧ blockNat b 8 8 + 65536 * blockNat b 24 4 ≤ 2 ^ 44 ∧
         blockNat b 16 8 + 65536 * blockNat b 24 4 ≤ 2 ^ 44 ∧ blockNat b 8 8 < 2 ^ 44 ∧ blockNat b 16 8 < 2 ^ 44)
   | 3 => blockZero b 8 32 && decide (blockNat b 4 2 < 4096 ∧ blockNat b 6 2 < 4096 ∧ blockNat b 4 2 + blockNat b 6 2 < 4096)
   | 4 => decide (blockNat b 4 1 < 64) && blockZero b 5 8 && blockZero b 10 32
   | 5 => decide (blockNat b 4 1 < 8) && blockZero b 5 8 && blockZero b 12 32
   | _ => true)

/-- The argument rules of a budget word (R291). -/
def budgetArgs (x y : Word) (_ : List Byte) : Bool :=
  crefArg y && fld 19 13 x == 0 && fld 16 2 x != 3 && (fld 18 1 x == 1 || fld 0 16 x == 0)

/-- The argument rules of a receipt's output block (R293). -/
def receiptArgs (_ y : Word) (b : List Byte) : Bool :=
  crefArg y && decide (blockNat b 0 8 % 4096 = 0 ∧ blockNat b 0 8 < 2 ^ 44) && blockZero b 12 16

/-- The argument rules of a monitor block (R296). -/
def monitorArgs (_ y : Word) (b : List Byte) : Bool :=
  crefArg y && decide (blockNat b 0 1 < 64 ∧ blockNat b 1 1 < 8) && blockZero b 2 8 && decide (blockNat b 8 8 < 2 ^ 44) &&
  blockZero b 24 32 && decide (blockNat b 16 8 % 64 = 0 ∧ 1 ≤ blockNat b 16 8 ∧ blockNat b 16 8 ≤ 2 ^ 44)

/-- R287. -/
def execCtxCreate (d a b : GReg) (m : BitVec 2) (s : State) : Host.Outcome State Fault Refusal := plainCop 0x50 32 createArgs d a b m s
/-- R288. -/
def execCtxGrant (d a b : GReg) (m : BitVec 2) (s : State) : Host.Outcome State Fault Refusal := plainCop 0x51 32 grantArgs d a b m s
/-- R289. -/
def execCtxRevoke (d a b : GReg) (m : BitVec 2) (s : State) : Host.Outcome State Fault Refusal := plainCop 0x52 32 grantArgs d a b m s
/-- R290. -/
def execCtxDestroy (d a b : GReg) (m : BitVec 2) (s : State) : Host.Outcome State Fault Refusal :=
  plainCop 0x53 0 (fun x y _ => x == 0 && crefArg y) d a b m s
/-- R291. -/
def execCtxBudget (d a b : GReg) (m : BitVec 2) (s : State) : Host.Outcome State Fault Refusal := plainCop 0x54 0 budgetArgs d a b m s
/-- R292. -/
def execCtxKey (d a b : GReg) (m : BitVec 2) (s : State) : Host.Outcome State Fault Refusal :=
  plainCop 0x55 0 (fun x y _ => x == 0 && crefArg y) d a b m s
/-- R293. -/
def execCtxScrub (d a b : GReg) (m : BitVec 2) (s : State) : Host.Outcome State Fault Refusal := plainCop 0x56 32 grantArgs d a b m s
/-- R293. -/
def execCtxReceipt (d a b : GReg) (m : BitVec 2) (s : State) : Host.Outcome State Fault Refusal := plainCop 0x57 16 receiptArgs d a b m s
/-- R296. -/
def execLogArm (d a b : GReg) (m : BitVec 2) (s : State) : Host.Outcome State Fault Refusal := plainCop 0x68 32 monitorArgs d a b m s
/-- R297: the snapshot's destination is checked as a scalar access of 32 bytes. -/
def execLogRead (d a b : GReg) (m : BitVec 2) (s : State) : Host.Outcome State Fault Refusal :=
  cop 0x69 16 (fun t _ y bs => do
    copArg ((crefArg y && decide (blockNat bs 0 1 < 64) && blockZero bs 1 4 && blockZero bs 8 16) = true)
    let _ ← accessAt t 0 (BitVec.ofNat 32 (blockNat bs 4 4)) 32 32 2
    .ok {}) d a b m s
/-- R298. -/
def execTimeRead (d a b : GReg) (m : BitVec 2) (s : State) : Host.Outcome State Fault Refusal :=
  destCop 0x6A 8 8 (fun _ y => crefArg y) d a b m s

/-! ### Who may act on whom (R285, R286, R437) -/

/-- The context that a CREF names. -/
def State.byCref (s : State) (y : Nat) : Option Ctx := (s.ctx? (y % 4096)).filter fun c => c.cgen == y / 4096 % 256

/-- The caller's direct child that a CREF names, or the STATUS of the failure: on a destroyed child only functions with `dead`, on a lost
one not those with `live`. -/
def State.childOf (s : State) (caller : Nat) (y : Nat) (dead live : Bool) : Except Nat Ctx :=
  match s.byCref y with
  | none => .error stNotfound
  | some c =>
    if c.cnum = 0 ∨ c.parent ≠ caller then .error stDenied
    else if c.destroyed = true ∧ dead = false then .error stState
    else if c.lost = true ∧ live = true then .error stState
    else .ok c

/-- The context of log.arm, log.read and time.read: 0 names the caller. -/
def State.namedCtx (s : State) (caller y : Nat) : Except Nat Ctx :=
  if y = 0 then (match s.ctx? caller with
    | none => .error stNotfound
    | some c => .ok c)
  else s.childOf caller y false false

/-! ### ctx.create (R287, R353) -/

/-- The lowest context number not in use. -/
def State.freeCnum (s : State) : Option Nat := ((List.range 4095).find? fun n => (s.ctx? (n + 1)).isNone).map (· + 1)

/-- Whether a context holds a virtual function: bound to it, or unbound for the keystone. -/
def State.holdsVf (s : State) (caller vf : Nat) : Bool :=
  if caller = 0 then !s.ctxs.any fun c => c.vf == vf else ((s.ctx? caller).map (·.vf)) == some vf

/-- The hard partition that a new child lies in: the lowest number that no hard partition has. -/
def State.newPart (s : State) (p : Ctx) (hard : Bool) : Nat :=
  if hard then (((List.range 20).find? fun n => !s.ctxs.any fun c => c.hard && c.part == n + 1).map (· + 1)).getD 0 else p.part

/-- A new child. -/
def newChild (p : Ctx) (n gen part : Nat) (hard : Bool) (share vf save kb : Nat) (bal : Int) (time : BitVec 64) : Ctx :=
  { Ctx.keystone with cnum := n, cgen := gen, parent := p.cnum, depth := p.depth + 1, hard := hard, part := part, share := share, vf := vf
                      save := save, saveKB := kb, balance := bal, gbase := -time, born := time, qbanks := [], dbanks := [] }

/-- The key epoch of a slot that ctx.create fills: a fresh key replaces the one the slot had before, and the first since boot replaces none
(R287, R292; log 26). -/
def State.freshEpoch (s : State) (n : Nat) : Nat := ((s.keyPast.find? fun x => x.1 == n).map fun x => (x.2 + 1) % 2 ^ 16).getD 0

/-- R287. -/
def copCtxCreate : CopFn := fun r s =>
  match s.ctx? r.cnum with
  | none => (s, .done stState 0)
  | some p =>
    let b := r.block
    let hard := blockNat b 2 1 == 1
    let vf := blockNat b 3 1
    let save := blockNat b 4 8
    let kb := blockNat b 12 4
    if hard = true ∧ (p.cnum ≠ 0 ∨ 20 ≤ (s.ctxs.filter fun c => c.hard && !c.destroyed).length) then (s, .done stDenied 0) else
    if vf ≠ 0 ∧ s.holdsVf p.cnum vf = false then (s, .done stDenied 0) else
    if 8 ≤ p.depth then (s, .done stDepth 0) else
    match s.freeCnum with
    | none => (s, .done stNospace 0)
    | some n =>
      match s.spans p.cnum 2 save (kb * 1024) with
      | .error _ => (s, .done stInvalid 0)
      | .ok _ =>
        let gen := ((s.cgenPast.find? fun x => x.1 == n).map fun x => (x.2 + 1) % 256).getD 0
        let share := blockNat b 0 2
        let c := { newChild p n gen (s.newPart p hard) hard share vf save kb 0 (BitVec.ofNat 64 (s.now / 3)) with kepoch := s.freshEpoch n }
        let t := if vf = 0 then s else (s.mapCtx p.cnum fun x => { x with vf := if x.vf = vf then 0 else x.vf }).unaim vf
        let t := { t with ctxs := t.ctxs ++ [c] }
        let t := t.mapCtx n fun x => { x with balance := t.ent n t.tickT }
        (t, .done 0 (n + gen * 4096))

/-! ### What a context holds (R288, R351) -/

/-- Grants of the caller's map entries to children, by map and the caller's entry. -/
def Ctx.givenAt (x : Ctx) (pkg : Bool) (u : Nat) : Option Given := x.given.find? fun g => g.pkg == pkg && g.unit == u

/-- The physical quad or die of a caller's logical one. -/
def Ctx.unitHeld (x : Ctx) (die : Bool) (u : Nat) : Option Nat := if die then x.dieOf u else x.quadOf u

/-- R28. -/
def mapRule (m : List TileMap) : Bool :=
  m.all fun e => m.all fun f =>
    (e.l == f.l) == (e.p == f.p) && (e.l / 4 == f.l / 4) == (pquad e.p.toNat == pquad f.p.toNat) &&
    (e.l / 32 == f.l / 32) == (pdie e.p.toNat == pdie f.p.toNat)

/-- A task of a context is resident (R29). -/
def State.residentIn (s : State) (c : Nat) : Bool := s.tiles.any fun t => t.resident && t.task.cnum == c

/-- How many pages of a run a child's windows at one offset cover: windows do not share parent pages. -/
def coverage (off : Int) (lo n : Nat) (l : List Window) : Nat :=
  (l.filter fun w => (w.page : Int) - w.parentPage == off).foldl (fun k w =>
    k + (min (w.parentPage + w.count) (lo + n) - max w.parentPage lo)) 0

/-- Whether a page of the caller's space is granted to a child of it. -/
def State.pageGiven (s : State) (caller lo n : Nat) : Bool :=
  s.ctxs.any fun c => c.cnum != 0 && c.parent == caller && !c.destroyed && c.wins.any fun w =>
    decide (w.parentPage < lo + n ∧ lo < w.parentPage + w.count ∧ 0 < n ∧ 0 < w.count)

/-- The physical pages of a run of a context's pages; none where one is not mapped. -/
def State.physPages (s : State) (c lo : Nat) : Nat → Option (List Nat)
  | 0 => some []
  | n + 1 =>
    match s.mapped treeDepth c (lo * 65536) with
    | none => none
    | some m => (s.physPages c (lo + 1) n).map fun l => m.pa / 65536 :: l

/-- A physical page zeroed and tagged with a key slot (R357). -/
def State.zeroPage (s : State) (slot pp : Nat) : State :=
  let t := (s.yields (pp * 65536) 65536).zeroBytes (pp * 65536) 65536
  { t with keyTags := (if slot = 0 then [] else [(pp, slot)]) ++ t.keyTags.filter fun x => x.1 ≠ pp }

/-- A retired unit in a range of memory keys (R445). -/
def State.retiredIn (s : State) (k n : Nat) : Bool := s.retired.any fun u => decide (k ≤ u ∧ u < k + n)

/-! ### ctx.grant (R288) -/

/-- The tiles of a list cover whole physical quads (R352). -/
def wholeQuads (l : List TileMap) : Bool := l.all fun e => (List.range 4).all fun i => l.any fun f => f.p.toNat == 4 * pquad e.p.toNat + i

/-- KIND 0: R28 and the valid entries are judged on the child's whole map, with what it has granted on; the tiles are scrubbed (R23). -/
def grantTiles (s : State) (p c : Ctx) (first n src : Nat) : State × Nat :=
  let ents := (List.range n).map fun i => (first + i, src + i, p.tileOf (src + i))
  if ents.any (fun e => e.2.2.isNone) then (s, stDenied) else
  if ents.any (fun e => c.tileMap.any fun f => f.l == e.1) then (s, stInvalid) else
  let new := ents.filterMap fun e => e.2.2.map fun t => ({ l := e.1, p := t } : TileMap)
  let map := c.tileMap ++ new
  if mapRule map = false then (s, stMaprule) else
  if c.hard = true ∧ wholeQuads new = false then (s, stInvalid) else
  if s.residentIn c.cnum ∨ (s.tiles.any fun t => t.resident && new.any fun e => e.p == t.ptile) = true then (s, stBusy) else
  if c.saveKB * 1024 < 65536 + slotBytes * map.length then (s, stNospace) else
  if new.any (fun e => s.retiredIn (tileKey e.p.toNat) (2 ^ 21)) then (s, stDenied) else
  let given := ents.filterMap fun e => e.2.2.map fun t => ({ pkg := false, unit := e.2.1, child := c.cnum, at_ := e.1, tile := t } : Given)
  let t := (s.mapCtx p.cnum fun x => { x with tmap := x.tmap.filter (fun e => !new.any fun f => f.p == e.p), given := x.given ++ given }).mapCtx
    c.cnum fun x => { x with tmap := x.tmap ++ new }
  (new.foldl (fun u e => u.scrubTile e.p (some c.cnum)) t, 0)

/-- KIND 1. -/
def grantPkgs (s : State) (p c : Ctx) (first n src list : Nat) : State × Nat :=
  let ents := (List.range n).map fun i => (first + i, src + i, p.pkgOf (src + i))
  if ents.any (fun e => e.2.2.isNone || (p.givenAt true e.2.1).isSome) then (s, stDenied) else
  if ents.any (fun e => (c.pkgOf e.1).isSome) then (s, stInvalid) else
  let refs := if list = 0 then .ok (s, []) else s.gread p.cnum list (4 * n)
  match refs with
  | .error e => (s.deviceError e.1 p.cnum e.2 (4 * n), stFault)
  | .ok (t, bs) =>
    let word (i : Nat) : Nat := leNat ((bs.drop (4 * i)).take 4)
    if list ≠ 0 ∧ (List.range n).any (fun i => decide (2 ^ 20 ≤ word i)) = true then (s, stInvalid) else
    if s.residentIn c.cnum then (s, stBusy) else
    let new := ents.filterMap fun e => e.2.2.map fun q =>
      ({ l := e.1, p := q.p, rcref := if list = 0 then q.rcref else BitVec.ofNat 20 (word (e.1 - first)) } : PkgMap)
    let given := ents.map fun e => ({ pkg := true, unit := e.2.1, child := c.cnum, at_ := e.1, tile := 0 } : Given)
    ((t.mapCtx p.cnum fun x => { x with given := x.given ++ given }).mapCtx c.cnum fun x => { x with pmap := x.pmap ++ new }, 0)

/-- KIND 2: the permissions are bits [2:0] of byte 4; writable pages read zero under the child's key (R354, R357). -/
def grantMem (s : State) (p c : Ctx) (perm src first n : Nat) : State × Nat :=
  if s.pageGiven p.cnum (src / 65536) n then (s, stDenied) else
  match s.physPages p.cnum (src / 65536) n with
  | none => (s, if p.cnum = 0 then stInvalid else stDenied)
  | some l =>
    if l.any (fun pp => s.retiredIn (pp * 65536) 65536) then (s, stDenied) else
    let w : Window := { page := first / 65536, parentPage := src / 65536, count := n
                        r := perm.testBit 0, w := perm.testBit 1, x := perm.testBit 2 }
    let t := if perm.testBit 1 then l.foldl (fun u pp => u.zeroPage c.cnum pp) s else s
    (({ t with badPages := t.badPages.filter fun b => b.1 ≠ c.cnum ∨ b.2 < w.page ∨ w.page + w.count ≤ b.2 } : State).mapCtx c.cnum
      fun x => { x with wins := w :: x.wins }, 0)

/-- KIND 3. -/
def grantQueues (s : State) (p c : Ctx) (first n : Nat) : State × Nat :=
  let us := (List.range n).map (first + ·)
  let given (u : Nat) : Bool := s.ctxs.any fun y => y.cnum != 0 && y.parent == p.cnum && y.queues.contains u
  if us.any fun u => (p.cnum != 0 && !p.queues.contains u) || given u then (s, stDenied)
  else (s.mapCtx c.cnum fun x => { x with queues := x.queues ++ us }, 0)

/-- The banks of a mask moved out of or into a list. -/
def moveBanks (l : List (Nat × Nat)) (u mask : Nat) (into : Bool) : List (Nat × Nat) :=
  let old := bankMask l u
  (u, if into then old ||| mask else old &&& (mask ^^^ (2 ^ 32 - 1))) :: l.filter fun x => x.1 ≠ u

/-- The bytes of a bank, and the key of bank 0 of a unit. -/
def bankSize (die : Bool) : Nat := if die then 2 ^ 20 else 2 ^ 19
/-- Key of a bank. -/
def bankKey (die : Bool) (u b : Nat) : Nat := (if die then dieKey u else quadKey u) + b * bankSize die

/-- Banks zeroed: the barrier slots in them are slots no more (R85). -/
def State.zeroBanks (s : State) (die : Bool) (u mask : Nat) : State :=
  ((List.range 32).filter mask.testBit).foldl (fun t b =>
    let k := bankKey die u b
    let n := bankSize die
    { (t.zeroBytes k n) with bars := t.bars.filter (fun x => !decide (k ≤ x ∧ x < k + n))
                             errs := t.errs.filter fun x => !decide (k ≤ x.1 ∧ x.1 < k + n) }) s

/-- The banks a context has. -/
def Ctx.banks (x : Ctx) (die : Bool) : List (Nat × Nat) := if die then x.dbanks else x.qbanks

/-- The banks of a context replaced. -/
def Ctx.putBanks (x : Ctx) (die : Bool) (l : List (Nat × Nat)) : Ctx := if die then { x with dbanks := l } else { x with qbanks := l }

/-- KINDs 4 and 5. -/
def grantBanks (s : State) (p c : Ctx) (die : Bool) (unit mask : Nat) : State × Nat :=
  match p.unitHeld die unit with
  | none => (s, stDenied)
  | some u =>
    if bankMask (p.banks die) u &&& mask ≠ mask ∨
        (List.range 32).any (fun b => mask.testBit b && s.retiredIn (bankKey die u b) (bankSize die)) = true then (s, stDenied) else
    (((s.mapCtx p.cnum fun x => x.putBanks die (moveBanks (x.banks die) u mask false)).mapCtx c.cnum fun x =>
      { x.putBanks die (moveBanks (x.banks die) u mask true) with
        bankNames := (die, u, unit) :: x.bankNames.filter fun y => (y.1, y.2.1) ≠ (die, u) }).zeroBanks die u mask, 0)

/-- A state and STATUS as a function's outcome. -/
def copSt (x : State × Nat) : State × CopOut := (x.1, .done x.2 0)

/-- R288. -/
def copCtxGrant : CopFn := fun r s =>
  match s.ctx? r.cnum, s.childOf r.cnum r.gb.toNat false true with
  | none, _ => (s, .done stState 0)
  | _, .error e => (s, .done e 0)
  | some p, .ok c =>
    let b := r.block
    match blockNat b 0 1 with
    | 0 => copSt (grantTiles s p c (blockNat b 4 1) (blockNat b 5 1 + 1) (blockNat b 6 1))
    | 1 => copSt (grantPkgs s p c (blockNat b 4 2) (blockNat b 8 2 + 1) (blockNat b 6 2) (blockNat b 16 8))
    | 2 => copSt (grantMem s p c (blockNat b 4 1) (blockNat b 8 8) (blockNat b 16 8) (blockNat b 24 4))
    | 3 => copSt (grantQueues s p c (blockNat b 4 2) (blockNat b 6 2 + 1))
    | 4 => copSt (grantBanks s p c false (blockNat b 4 1) (blockNat b 8 2))
    | 5 => copSt (grantBanks s p c true (blockNat b 4 1) (blockNat b 8 4))
    | _ => (s, .done stInvalid 0)

/-! ### ctx.revoke (R289, R359, R360) -/

/-- The given entries that a block of map entries names. -/
def Ctx.givenRange (p : Ctx) (pkg : Bool) (child first n src : Nat) : List Given :=
  p.given.filter fun g => g.pkg == pkg && g.child == child && decide (src ≤ g.unit ∧ g.unit < src + n) && g.at_ + src == g.unit + first

/-- KIND 0: the tiles are the caller's again, scrubbed (R23). -/
def revokeTiles (s : State) (p c : Ctx) (first n src : Nat) : State × Nat :=
  let gs := p.givenRange false c.cnum first n src
  if gs.length ≠ n then (s, stInvalid) else
  let named (t : BitVec 8) : Bool := gs.any fun g => g.tile == t
  let sub := s.ctxs.filter fun x => (s.subtree c.cnum).contains x.cnum &&
    (x.cnum == c.cnum || x.tmap.any (fun e => named e.p) || x.given.any fun g => !g.pkg && named g.tile)
  if sub.any (fun x => s.residentIn x.cnum) then (s, stBusy) else
  let t := sub.foldl (fun u x => u.mapCtx x.cnum fun y => { y with
    tmap := y.tmap.filter (fun e => !named e.p), given := y.given.filter fun g => g.pkg || !named g.tile }) s
  let t := t.mapCtx p.cnum fun y => { y with
    given := y.given.filter (fun g => !gs.contains g), tmap := y.tmap ++ gs.map fun g => { l := g.unit, p := g.tile } }
  (gs.foldl (fun u g => u.scrubTile g.tile (some p.cnum)) t, 0)

/-- The package-map entries granted on from a context's entry, down the subtree: context and entry. -/
def State.pkgHolders (s : State) : Nat → Nat → Nat → List (Nat × Nat)
  | 0, _, _ => []
  | k + 1, c, e =>
    (c, e) :: (match (s.ctx? c).bind fun x => x.givenAt true e with
      | none => []
      | some g => s.pkgHolders k g.child g.at_)

/-- KIND 1. -/
def revokePkgs (s : State) (p c : Ctx) (first n src : Nat) : State × Nat :=
  let gs := p.givenRange true c.cnum first n src
  if gs.length ≠ n then (s, stInvalid) else
  let hs := gs.flatMap fun g => s.pkgHolders treeDepth c.cnum g.at_
  if hs.any (fun h => s.residentIn h.1) then (s, stBusy) else
  let t := hs.foldl (fun u h => u.mapCtx h.1 fun y => { y with
    pmap := y.pmap.filter (fun e => e.l ≠ h.2), given := y.given.filter fun g => !(g.pkg && g.unit == h.2) }) s
  (t.mapCtx p.cnum fun y => { y with given := y.given.filter fun g => !gs.contains g }, 0)

/-- A window without the parent pages from lo up to lo + n. -/
def Window.cut (w : Window) (lo n : Nat) : List Window :=
  let a := min (max lo w.parentPage) (w.parentPage + w.count)
  let b := max (min (lo + n) (w.parentPage + w.count)) a
  ([{ w with count := a - w.parentPage },
    { w with page := w.page + (b - w.parentPage), parentPage := b, count := w.parentPage + w.count - b }] : List Window).filter fun v =>
      decide (0 < v.count)

/-- The own pages of a window that lie over the parent pages from lo up to lo + n: first page and count. -/
def Window.meets (w : Window) (lo n : Nat) : Option (Nat × Nat) :=
  let a := max lo w.parentPage
  let b := min (lo + n) (w.parentPage + w.count)
  if a < b then some (w.page + (a - w.parentPage), b - a) else none

/-- Pages withdrawn from a context, and from every context below that holds them from it (R289): its windows over the runs of parent
pages go, and its children's windows over those. -/
def State.withdrawPages (s : State) : Nat → Nat → (Nat × Nat) → State
  | 0, _, _ => s
  | k + 1, c, (lo, n) =>
    match s.ctx? c with
    | none => s
    | some x =>
      let runs := x.wins.filterMap fun w => w.meets lo n
      let t := s.mapCtx c fun y => { y with wins := y.wins.flatMap fun w => w.cut lo n, tgen := y.tgen + 1 }
      ((s.ctxs.filter fun y => y.cnum != 0 && y.parent == c).map (·.cnum)).foldl (fun u y =>
        runs.foldl (fun v r => v.withdrawPages k y r) u) t

/-- A pinned save area of a context of the subtree lies in a run of the caller's pages (R360). -/
def State.pinnedIn (s : State) (c : Nat) (pages : List Nat) : Bool :=
  (s.ctxs.filter fun x => (s.subtree c).contains x.cnum).any fun x =>
    (List.range ((x.saveKB * 1024 + 65535) / 65536 + 1)).any fun i =>
      decide (x.save + 65536 * i < x.save + x.saveKB * 1024 + 65536) &&
      (match s.mapped treeDepth x.parent ((x.save / 65536 + i) * 65536) with
       | none => false
       | some m => decide ((x.save / 65536 + i) * 65536 < x.save + x.saveKB * 1024) && pages.contains (m.pa / 65536))

/-- KIND 2: no access of the old generation is under way between two steps, so the revocation completes at once (R359). -/
def revokeMem (s : State) (p c : Ctx) (src first n : Nat) : State × Nat :=
  if coverage ((first / 65536 : Nat) - (src / 65536 : Nat) : Int) (src / 65536) n c.wins ≠ n then (s, stInvalid) else
  if s.pinnedIn c.cnum ((s.physPages p.cnum (src / 65536) n).getD []) then (s, stBusy) else
  ({ (s.withdrawPages treeDepth c.cnum (src / 65536, n)) with rac := [] }, 0)

/-- KIND 3. -/
def revokeQueues (s : State) (c : Ctx) (first n : Nat) : State × Nat :=
  let us := (List.range n).map (first + ·)
  if us.any fun u => !c.queues.contains u then (s, stInvalid)
  else ((s.subtree c.cnum).foldl (fun t x => t.mapCtx x fun y => { y with queues := y.queues.filter fun u => !us.contains u }) s, 0)

/-- KINDs 4 and 5: the banks of the child and of whoever holds them below it. -/
def revokeBanks (s : State) (p c : Ctx) (die : Bool) (unit mask : Nat) : State × Nat :=
  match p.unitHeld die unit with
  | none => (s, stInvalid)
  | some u =>
    let sub := s.ctxs.filter fun x => (s.subtree c.cnum).contains x.cnum
    if (sub.foldl (fun m x => m ||| bankMask (x.banks die) u) 0) &&& mask ≠ mask then (s, stInvalid) else
    ((sub.foldl (fun t x => t.mapCtx x.cnum fun y => y.putBanks die (moveBanks (y.banks die) u mask false)) s).mapCtx p.cnum fun y =>
      y.putBanks die (moveBanks (y.banks die) u mask true), 0)

/-- R289. -/
def copCtxRevoke : CopFn := fun r s =>
  match s.ctx? r.cnum, s.childOf r.cnum r.gb.toNat false false with
  | none, _ => (s, .done stState 0)
  | _, .error e => (s, .done e 0)
  | some p, .ok c =>
    let b := r.block
    match blockNat b 0 1 with
    | 0 => copSt (revokeTiles s p c (blockNat b 4 1) (blockNat b 5 1 + 1) (blockNat b 6 1))
    | 1 => copSt (revokePkgs s p c (blockNat b 4 2) (blockNat b 8 2 + 1) (blockNat b 6 2))
    | 2 => copSt (revokeMem s p c (blockNat b 8 8) (blockNat b 16 8) (blockNat b 24 4))
    | 3 => copSt (revokeQueues s c (blockNat b 4 2) (blockNat b 6 2 + 1))
    | 4 => copSt (revokeBanks s p c false (blockNat b 4 1) (blockNat b 8 2))
    | 5 => copSt (revokeBanks s p c true (blockNat b 4 1) (blockNat b 8 4))
    | _ => (s, .done stInvalid 0)

/-! ### Scrubbing (R293, R445) -/

/-- Consecutive numbers as runs: first and count. -/
def runsOfNat : List Nat → List (Nat × Nat)
  | [] => []
  | n :: ns => match runsOfNat ns with
    | [] => [(n, 1)]
    | (m, k) :: r => if m = n + 1 then (n, k + 1) :: r else (n, 1) :: (m, k) :: r

/-- The runs of a receipt for units of one KIND; a retired unit is left out (R445). -/
def scrubRuns (kind : Nat) (byScrub : Bool) (bytes where1 : Nat) (units : List Nat) : List Scrubbed :=
  (runsOfNat (orderBy (fun a b => decide (a < b)) units.eraseDups)).map fun r =>
    { kind := kind, byScrub := byScrub, count := r.2, first := r.1 * where1, last := (r.1 + r.2 - 1) * where1, bytes := r.2 * bytes }

/-- Runs appended to a context's receipt record. -/
def State.addRuns (s : State) (c : Nat) (l : List Scrubbed) : State := s.mapCtx c fun x => { x with rcpt := { x.rcpt with runs := x.rcpt.runs ++ l } }

/-- A bank in a receipt: unit in the low bits, bank from bit 8. -/
def bankWhere (u b : Nat) : Nat := u + b * 256

/-- Bank runs of one unit. -/
def bankRuns (die : Bool) (byScrub : Bool) (u : Nat) (banks : List Nat) : List Scrubbed :=
  (runsOfNat banks).map fun r => { kind := if die then 3 else 2, byScrub := byScrub, count := r.2, first := bankWhere u r.1
                                   last := bankWhere u (r.1 + r.2 - 1), bytes := r.2 * bankSize die }

/-- R293: a range of the caller's own that no context holds. -/
def copCtxScrub : CopFn := fun r s =>
  match s.ctx? r.cnum, s.childOf r.cnum r.gb.toNat true false with
  | none, _ => (s, .done stState 0)
  | _, .error e => (s, .done e 0)
  | some p, .ok c =>
    let b := r.block
    let banks (die : Bool) : State × CopOut :=
      let mask := blockNat b 8 (if die then 4 else 2)
      match p.unitHeld die (blockNat b 4 1) with
      | none => (s, .done stBusy 0)
      | some u =>
        if bankMask (p.banks die) u &&& mask ≠ mask then (s, .done stBusy 0) else
        let bs := (List.range 32).filter mask.testBit
        let t := bs.foldl (fun t b => t.readBack (bankKey die u b) (bankSize die)) (s.zeroBanks die u mask)
        (t.addRuns c.cnum (bankRuns die true (blockNat b 4 1) (bs.filter fun b => !t.retiredIn (bankKey die u b) (bankSize die))), .done 0 0)
    match blockNat b 0 1 with
    | 2 =>
      let lo := blockNat b 8 8 / 65536
      let n := blockNat b 24 4
      if s.pageGiven p.cnum lo n then (s, .done stBusy 0) else
      (match s.physPages p.cnum lo n with
       | none => (s, .done stBusy 0)
       | some l =>
         let t := l.foldl (fun t pp => (t.zeroPage p.cnum pp).readBack (pp * 65536) 65536) s
         let kept := ((List.range n).zip l).filter fun e => !t.retiredIn (e.2 * 65536) 65536
         (t.addRuns c.cnum (scrubRuns 0 true 65536 65536 (kept.map fun e => lo + e.1)), .done 0 0))
    | 4 => banks false
    | 5 => banks true
    | _ => (s, .done stInvalid 0)

/-! ### ctx.destroy (R290, R358) -/

/-- The caller's pages granted to a child, and the physical pages under them. -/
def State.grantedPages (s : State) (p : Nat) (c : Ctx) : List (Nat × Nat) :=
  c.wins.flatMap fun w => (List.range w.count).filterMap fun i =>
    (s.mapped treeDepth p ((w.parentPage + i) * 65536)).map fun m => (w.parentPage + i, m.pa / 65536)

/-- Every page of a caller's space, as far as its windows or the tags show it, that a condition holds of: own page and physical page. -/
def State.taggedPages (s : State) (p : Ctx) (tags : List Nat) : List (Nat × Nat) :=
  ((s.keyTags.filter fun e => tags.contains e.2).filterMap fun e =>
    if p.cnum = 0 then some (e.1, e.1) else
    (p.wins.findSome? fun w => (List.range w.count).findSome? fun i =>
      match s.mapped treeDepth p.cnum ((w.page + i) * 65536) with
      | none => none
      | some m => if m.pa / 65536 = e.1 then some (w.page + i, e.1) else none))

/-- The tasks, nodes, packets, code, requests and traps of a context are gone, and its jobs are aborted; no future is poisoned (R290,
R440). -/
def State.clearContext (s : State) (c : Nat) : State :=
  let s := (s.tiles.filter fun t => t.resident && t.task.cnum == c).foldl (fun u t => u.killTile t.ptile) s
  let s := (s.killImages c fun _ => true).abortJobs c
  { s with nodes := s.nodes.filter (fun n => n.cnum ≠ c), packets := s.packets.filter (fun k => k.cnum ≠ c)
           codes := s.codes.filter (fun o => o.cnum ≠ c), mail := s.mail.filter (fun m => m.fctx ≠ c)
           reports := s.reports.filter (fun r => r.1 ≠ c)
           queues := s.queues.map fun q => if s.queueOwner q.n = c then { q with desc := putField q.desc 0 1 0 } else q }

/-- END entries of the monitors on a context that is destroyed, for owners outside the subtree (R365). -/
def State.logEnds (s : State) (c : Nat) (sub : List Nat) : State :=
  ((((s.ctx? c).map (·.mons)).getD []).filter fun m => !sub.contains m.owner).foldl (fun t m => t.logEntry c m logEnd) s

/-- The key of a slot is gone: pages that still carry its tag can be read no more, and their bytes are free values (R292, R358; log 26). -/
def State.loseKey (s : State) (slot : Nat) : State :=
  (s.keyTags.filter fun e => e.2 == slot).foldl (fun t e =>
    let (x, u) := t.freeVal (8 * 65536)
    u.writeBytes (e.1 * 65536) (leBytes 65536 x)) s

/-- R290: the subtree ends, deepest first; all that was granted into it is scrubbed and returns to the caller. A unit of a receipt has the
caller's name for it, or where the caller has no tile there any more the name that its grant used (R14, R367). -/
def State.destroy (s : State) (p c : Ctx) : State :=
  let l := s.subtree c.cnum
  let t0 := s.now / 3
  let s := l.foldl (fun t x => t.logEnds x l) s
  let gone := s.ctxs.filter fun x => l.contains x.cnum
  let mem := s.grantedPages p.cnum c
  let tiles := p.given.filter fun g => !g.pkg && g.child == c.cnum
  let qb := gone.flatMap (·.qbanks)
  let db := gone.flatMap (·.dbanks)
  let vf := ((gone.find? fun x => x.vf ≠ 0).map (·.vf)).getD 0
  let path := (List.range 8).map fun i => (((s.lineage p.cnum).find? fun x => x.depth == i + 1).map (·.cnum)).getD 0
  let s := (orderBy (fun a b => decide (b.depth < a.depth)) gone).foldl (fun t x => t.clearContext x.cnum) s
  let s := tiles.foldl (fun t g => t.scrubTile g.tile (some p.cnum)) s
  let bankUnits (b : List (Nat × Nat)) : List (Nat × Nat) :=
    (b.map (·.1)).eraseDups.map fun u => (u, (b.filter fun x => x.1 == u).foldl (fun m x => m ||| x.2) 0)
  let s := (bankUnits qb).foldl (fun t x => t.zeroBanks false x.1 x.2) s
  let s := (bankUnits db).foldl (fun t x => t.zeroBanks true x.1 x.2) s
  let pages := (mem ++ s.taggedPages p l).eraseDups
  let s := pages.foldl (fun t x => (t.zeroPage p.cnum x.2).readBack (x.2 * 65536) 65536) s
  let s := l.foldl State.loseKey s
  let unitIn (die : Bool) (u : Nat) : Nat :=
    let span := if die then 32 else 4
    (((p.tileMap.find? fun e => e.p.toNat / span == u).map fun e => e.l / span).orElse fun _ =>
      (c.bankNames.find? fun y => y.1 == die && y.2.1 == u).map (·.2.2)).getD 0
  let banksOf (die : Bool) (b : List (Nat × Nat)) : List Scrubbed :=
    (bankUnits b).flatMap fun x => bankRuns die false (unitIn die x.1)
      ((List.range 32).filter fun i => x.2.testBit i && !s.retiredIn (bankKey die x.1 i) (bankSize die))
  let runs := scrubRuns 0 false 65536 65536 ((pages.filter fun x => !s.retiredIn (x.2 * 65536) 65536).map (·.1)) ++
    scrubRuns 1 false (2 ^ 21 + 2 ^ 17 + 56 * 256) 1 ((tiles.filter fun g => !s.retiredIn (tileKey g.tile.toNat) (2 ^ 21)).map (·.unit)) ++
    banksOf false qb ++ banksOf true db ++ scrubRuns 4 false 32 1 l ++ (if vf = 0 then [] else scrubRuns 5 false 0 1 [vf])
  let dead : Ctx := { newChild p c.cnum c.cgen c.part false 0 0 0 0 0 0 with
    destroyed := true, kepoch := c.kepoch, tgen := c.tgen + 1
    rcpt := { runs := c.rcpt.runs ++ runs, path := path, kepoch := c.kepoch, tstart := t0, tend := s.now / 3 } }
  let past := ((gone.filter fun x => x.cnum ≠ c.cnum).map fun x => (x.cnum, x.cgen)) ++
    s.cgenPast.filter fun e => !l.contains e.1 || e.1 == c.cnum
  let keys := ((gone.filter fun x => x.cnum ≠ c.cnum).map fun x => (x.cnum, x.kepoch)) ++
    s.keyPast.filter fun e => !l.contains e.1 || e.1 == c.cnum
  let s : State := { s with ctxs := (s.ctxs.filter fun x => !l.contains x.cnum) ++ [dead], cgenPast := past, keyPast := keys }
  let back := tiles.map fun g => ({ l := g.unit, p := g.tile } : TileMap)
  ((s.mapCtx p.cnum fun x => { x with
    given := x.given.filter (fun g => g.child ≠ c.cnum), tmap := x.tmap ++ back
    qbanks := (bankUnits qb).foldl (fun b u => moveBanks b u.1 u.2 true) x.qbanks
    dbanks := (bankUnits db).foldl (fun b u => moveBanks b u.1 u.2 true) x.dbanks
    vf := if x.cnum ≠ 0 ∧ x.vf = 0 then vf else x.vf }).unaim vf).after 0 .distributorPlace .none

/-- R290. -/
def copCtxDestroy : CopFn := fun r s =>
  match s.ctx? r.cnum, s.childOf r.cnum r.gb.toNat false false with
  | none, _ => (s, .done stState 0)
  | _, .error e => (s, .done e 0)
  | some p, .ok c => (s.destroy p c, .done 0 0)

/-! ### ctx.budget and ctx.key (R291, R292) -/

/-- R291: a word that changes something is answered at the next tick. -/
def copCtxBudget : CopFn := fun r s =>
  match s.childOf r.cnum r.gb.toNat false true with
  | .error e => (s, .done e 0)
  | .ok c =>
    let x := r.ga
    if fld 16 3 x = 0 then (s, .done 0 0) else
    (s.mapCtx c.cnum fun y => { y with
      newShare := if fld 18 1 x = 1 then some (fld 0 16 x).toNat else y.newShare
      pauseReq := if fld 16 1 x = 1 then true else if fld 17 1 x = 1 then false else y.pauseReq
      resumeReq := if fld 17 1 x = 1 then true else if fld 16 1 x = 1 then false else y.resumeReq }, .running)

/-- R292. -/
def copCtxKey : CopFn := fun r s =>
  match s.childOf r.cnum r.gb.toNat false true with
  | .error e => (s, .done e 0)
  | .ok c =>
    if c.wins ≠ [] then (s, .done stBusy 0) else
    let t := s.loseKey c.cnum
    let e := (c.kepoch + 1) % 2 ^ 16
    (t.mapCtx c.cnum fun y => { y with kepoch := e }, .done 0 e)

/-! ### ctx.receipt (R366, R367, R446) -/

/-- A receipt entry's 32 bytes. -/
def entryBytes (e : Scrubbed) (summary : Bool) : List Byte :=
  leBytes 8 (e.kind + (if summary then 16 else 0) + (if e.byScrub then 32 else 0) + e.count % 2 ^ 32 * 2 ^ 32) ++ leBytes 8 e.first ++
  leBytes 8 e.last ++ leBytes 8 e.bytes

/-- Runs in the order of KIND, then WHERE (R367). -/
def sortRuns (l : List Scrubbed) : List Scrubbed := orderBy (fun a b => decide (a.kind < b.kind ∨ (a.kind = b.kind ∧ a.first < b.first))) l

/-- Runs of one KIND that fit in n entries: the last of them one SUMMARY where not all fit. -/
def fitKind (n : Nat) (l : List Scrubbed) : List (Scrubbed × Bool) :=
  if l.length ≤ n then l.map fun e => (e, false) else
  let rest := l.drop (n - 1)
  (l.take (n - 1)).map (fun e => (e, false)) ++
  (match rest with
   | [] => []
   | e :: es => [(({ e with count := es.foldl (fun k x => k + x.count) e.count, bytes := es.foldl (fun k x => k + x.bytes) e.bytes,
                               first := es.foldl (fun k x => min k x.first) e.first, last := es.foldl (fun k x => max k x.last) e.last,
                               byScrub := false } : Scrubbed), true)])

/-- Entries of the KINDs from k on, with room for at least one of each KIND that follows. -/
def fitRuns (l : List Scrubbed) : Nat → Nat → Nat → List (Scrubbed × Bool)
  | 0, _, _ => []
  | f + 1, k, room =>
    let mine := l.filter fun e => e.kind == k
    let later := ((List.range f).filter fun i => l.any fun e => e.kind == k + 1 + i).length
    let now := fitKind (room - later) mine
    now ++ fitRuns l f (k + 1) (room - now.length)

/-- The entries of a receipt: at most 80 (R367). -/
def receiptEntries (l : List Scrubbed) : List (Scrubbed × Bool) := fitRuns (sortRuns l) 6 0 80

/-- The public part of the receipt key pair of a device secret and lifecycle state (R368; log 6). -/
def State.receiptKey (s : State) : List Byte := Config.receiptPublic s.boot.secret s.boot.life

/-- Bytes 0 to 2,815 of a receipt. -/
def State.receiptBody (s : State) (c : Ctx) : List Byte :=
  let es := receiptEntries c.rcpt.runs
  let head := leBytes 4 (1 + es.length * 2 ^ 16) ++ leBytes 4 c.cref.toNat ++ (c.rcpt.path.flatMap fun n => leBytes 2 n) ++
    leBytes 8 c.rcpt.kepoch ++ leBytes 8 s.boot.rseq ++ leBytes 16 s.boot.bootId.toNat ++ leBytes 8 c.rcpt.tstart ++ leBytes 8 c.rcpt.tend ++
    Config.shake256 s.receiptKey 32
  let body := head ++ List.replicate (256 - head.length) 0 ++ es.flatMap fun e => entryBytes e.1 e.2
  body ++ List.replicate (2816 - body.length) 0

/-- The whole receipt: 4,096 bytes. -/
def State.receipt (s : State) (c : Ctx) : List Byte :=
  let b := s.receiptBody c
  let g := Config.falconSign (Config.shake256 b 64)
  b ++ (g ++ List.replicate 1280 0).take 1280

/-- R293: the receipt is written, and the child's number is freed. -/
def copCtxReceipt : CopFn := fun r s =>
  match s.childOf r.cnum r.gb.toNat true false with
  | .error e => (s, .done e 0)
  | .ok c =>
    if c.destroyed = false ∨ s.boot.keyed = false then (s, .done stState 0) else
    if blockNat r.block 8 4 < 4096 then (s, .done stInvalid 0) else
    match s.gwrite r.cnum (blockNat r.block 0 8) (s.receipt c) with
    | .error e => copFault s r.cnum e
    | .ok t => ({ t with ctxs := t.ctxs.filter (fun x => x.cnum ≠ c.cnum)
                         boot := { t.boot with rseq := t.boot.rseq + 1 }
                         cgenPast := (c.cnum, c.cgen) :: t.cgenPast.filter fun e => e.1 ≠ c.cnum
                         keyPast := (c.cnum, c.kepoch) :: t.keyPast.filter fun e => e.1 ≠ c.cnum }, .done 0 0)

/-! ### Monitors and time (R296 to R298) -/

/-- R296. -/
def copLogArm : CopFn := fun r s =>
  match s.namedCtx r.cnum r.gb.toNat with
  | .error e => (s, .done e 0)
  | .ok c =>
    let b := r.block
    let n := blockNat b 0 1
    let kinds := blockNat b 1 1
    let old := c.mons.find? fun m => m.n == n
    if (old.map fun m => m.owner != r.cnum) = some true then (s, .done stDenied 0) else
    if kinds.testBit 2 then
      match old with
      | none => (s, .done stState 0)
      | some m => ((s.logEntry c.cnum m logDisarm).mapCtx c.cnum fun x => { x with mons := x.mons.filter fun y => y.n ≠ n }, .done 0 0)
    else
      let m : Monitor := { n := n, owner := r.cnum, base := blockNat b 8 8, len := blockNat b 16 8
                           countR := kinds.testBit 0, countW := kinds.testBit 1 }
      ((s.mapCtx c.cnum fun x => { x with mons := m :: x.mons.filter fun y => y.n ≠ n }).logEntry c.cnum m logArm, .done 0 0)

/-- R297. -/
def copLogRead : CopFn := fun r s =>
  match s.namedCtx r.cnum r.gb.toNat with
  | .error e => (s, .done e 0)
  | .ok c =>
    match c.mons.find? fun m => m.n == blockNat r.block 0 1 with
    | none => (s, .done stState 0)
    | some m =>
      if m.owner ≠ r.cnum then (s, .done stDenied 0) else
      copWrites s r (blockNat r.block 4 4) (leBytes 8 m.reads ++ leBytes 8 m.writes ++ leBytes 8 m.first.toNat ++ leBytes 8 m.last.toNat)
        (.done 0 0)

/-- R298. -/
def copTimeRead : CopFn := fun r s =>
  match s.namedCtx r.cnum r.gb.toNat with
  | .error e => (s, .done e 0)
  | .ok c => copWrites s r r.ga.toNat (leBytes 8 (s.guestTime c.cnum).toNat) (.done 0 0)

end Sys2Proof.Machine
end

