-- ==== Sys2Proof/Machine/Control.lean ====
section
/-! DEFINITION. Branches, jumps and hardware loops (R167 to R173). -/

namespace Sys2Proof.Machine

/-- A word offset from the instruction's own address (R128). -/
def target {n : Nat} (s : State) (k : BitVec n) : Word := s.core.pc + (k.signExtend 32 <<< 2)

/-- A branch (R167). -/
def branch (f : Word → Word → Bool) (a b : GReg) (k : BitVec 15) (s : State) : Host.Outcome State Fault Refusal :=
  common s [a, b] [] (.ok (if f (s.g a) (s.g b) then s.jump (target s k) else s.retire))

/-- R167. -/
def execBeq (a b : GReg) (k : BitVec 15) (s : State) := branch (fun x y => x == y) a b k s
/-- R167. -/
def execBne (a b : GReg) (k : BitVec 15) (s : State) := branch (fun x y => x != y) a b k s
/-- R167. -/
def execBlt (a b : GReg) (k : BitVec 15) (s : State) := branch BitVec.slt a b k s
/-- R167. -/
def execBge (a b : GReg) (k : BitVec 15) (s : State) := branch (fun x y => !x.slt y) a b k s
/-- R167. -/
def execBltu (a b : GReg) (k : BitVec 15) (s : State) := branch BitVec.ult a b k s
/-- R167. -/
def execBgeu (a b : GReg) (k : BitVec 15) (s : State) := branch (fun x y => !x.ult y) a b k s

/-- R168. -/
def execJal (d : GReg) (k : BitVec 20) (s : State) : Host.Outcome State Fault Refusal :=
  common s [] [d] (.ok ((s.putG d (s.core.pc + 4)).jump (target s k)))

/-- R168: ga is read before gd is written. -/
def execJalr (d a : GReg) (i : BitVec 15) (s : State) : Host.Outcome State Fault Refusal :=
  common s [a] [d] (.ok ((s.putG d (s.core.pc + 4)).jump ((s.g a + imm i) &&& 0xFFFFFFFC)))

/-- A loop instruction with count n and end address e (R170). -/
def enterLoop (s : State) (n e : Word) : Act State :=
  if n = 0 then .ok (s.jump (e + 4)) else
  if 4 ≤ s.core.loops.length then .error (.trap { cls := .loopDepth }) else
  .ok ((s.setCore { s.core with loops := ⟨s.core.pc + 4, e, n⟩ :: s.core.loops }).jump (s.core.pc + 4))

/-- R169, R170. -/
def execLoop (a : GReg) (k : BitVec 15) (s : State) : Host.Outcome State Fault Refusal :=
  common s [a] [] (enterLoop s (s.g a) (target s k))

/-- R169, R170. -/
def execLoopi (n k : BitVec 10) (s : State) : Host.Outcome State Fault Refusal :=
  common s [] [] (enterLoop s (n.zeroExtend 32) (s.core.pc + (k.zeroExtend 32 <<< 2)))

/-- An exit of the innermost loop where the condition holds (R172). -/
def loopExit (s : State) (yes : Bool) : Act State :=
  match s.core.loops with
  | [] => .error (.trap { cls := .loopDepth })
  | f :: fs => .ok (if yes then (s.setCore { s.core with loops := fs }).jump (f.stop + 4) else s.retire)

/-- R172. -/
def execLbrk (a : GReg) (s : State) : Host.Outcome State Fault Refusal := common s [a] [] (loopExit s (s.g a != 0))
/-- R172. -/
def execLbrkZ (a : GReg) (s : State) : Host.Outcome State Fault Refusal := common s [a] [] (loopExit s (s.g a == 0))

end Sys2Proof.Machine
end

