-- ==== Sys2Proof/Machine/PlaceFns.lean ====
section
/-! DEFINITION. The placement tables, place.conv and Trestle (R277 to R281, R340 to R342, R345 to R349, R439, R440). -/

namespace Sys2Proof.Machine

/-! ### Issue -/

/-- gb holds a table index of n bits. -/
def indexArg (n : Nat) (y : Word) : Bool := decide (y.toNat < 2 ^ n)

/-- R277. -/
def execPtabSet (d a b : GReg) (m : BitVec 2) (s : State) : Host.Outcome State Fault Refusal :=
  plainCop 0x20 64 (fun _ y _ => indexArg 12 y) d a b m s
/-- R277. -/
def execPtabGet (d a b : GReg) (m : BitVec 2) (s : State) : Host.Outcome State Fault Refusal :=
  destCop 0x21 16 64 (fun _ y => indexArg 12 y) d a b m s
/-- R278. -/
def execMeshSet (d a b : GReg) (m : BitVec 2) (s : State) : Host.Outcome State Fault Refusal :=
  plainCop 0x23 64 (fun _ y _ => indexArg 6 y) d a b m s
/-- R208, R279. -/
def execPlaceConv (d a b : GReg) (m : BitVec 2) (s : State) : Host.Outcome State Fault Refusal :=
  barCop 0x22 (fun y => fld 21 11 y == 0 && fld 12 3 y != 7 && fld 15 3 y != 7 && fld 18 3 y != 7) d a b m s

/-- The record indices and PROG of a re-shard request. -/
def planFields (b : List Byte) : Nat × Nat × Nat := (blockNat b 0 2, blockNat b 2 2, blockNat b 4 8)

/-- R280. -/
def execRsPlan (d a b : GReg) (m : BitVec 2) (s : State) : Host.Outcome State Fault Refusal :=
  plainCop 0x30 32 (fun _ y bs =>
    let (sr, dr, prog) := planFields bs
    y == 0 && decide (sr < 4096 ∧ dr < 4096 ∧ prog < 2 ^ 44 ∧ prog % 64 = 0) && blockZero bs 12 32) d a b m s
/-- R281. -/
def execRsStart (d a b : GReg) (m : BitVec 2) (s : State) : Host.Outcome State Fault Refusal := barCop 0x31 (indexArg 4) d a b m s
/-- R281. -/
def execRsResume (d a b : GReg) (m : BitVec 2) (s : State) : Host.Outcome State Fault Refusal := barCop 0x32 (indexArg 4) d a b m s
/-- R281. -/
def execRsStatus (d a b : GReg) (m : BitVec 2) (s : State) : Host.Outcome State Fault Refusal :=
  plainCop 0x33 0 (fun x y _ => x == 0 && indexArg 4 y) d a b m s
/-- R281. -/
def execRsAbort (d a b : GReg) (m : BitVec 2) (s : State) : Host.Outcome State Fault Refusal :=
  plainCop 0x34 0 (fun x y _ => x == 0 && indexArg 4 y) d a b m s

/-! ### Order on one tensor (R209, R342) -/

/-- An ld.place or st.place received before request n is under way on a tensor: one of a task here, resident or saved, or one of another
package whose turn this home has been asked for (code 0x2E). -/
def State.tensorOps (s : State) (c prec n : Nat) : Bool :=
  (s.taskTiles c).any (fun t => t.ops.any fun o => decide (o.recv ≤ n) && o.fault.isNone && o.kind.tensor == some prec) ||
  s.reqs.any fun q => q.fn7 == 0x2E && q.cnum == c && q.gb.toNat % 4096 == prec && decide (q.n < n)

/-- What a ptab.set, place.conv or job waits for. -/
def State.tensorHeld (s : State) (c prec n : Nat) : Bool := s.tensorBusy c prec n || s.tensorOps c prec n

/-! ### Tables (R277, R278) -/

/-- ptab.set: VERSION advances whatever the image holds; the image's VERSION and CONV are not taken. -/
def copPtabSet : CopFn := fun r s =>
  let i := r.gb.toNat
  match s.ctx? r.cnum with
  | none => (s, .done stState 0)
  | some x =>
    if s.tensorHeld r.cnum i r.n then (s, .again 8) else
    let img : BitVec 512 := BitVec.ofNat 512 (leNat r.block)
    let y := Rec.ofBits img
    if recClear img = false ∨ (y.valid = true ∧ recOk y (x.meshAt y.mesh) = false) then (s, .done stInvalid 0) else
    let v := ((Rec.ofBits (x.recAt i)).version + 1) % 65536
    let img := if y.valid then putField (putField img 16 16 v) 54 1 0 else putField 0 16 16 v
    (s.mapCtx r.cnum fun z => z.putRec i img, .done 0 v)

/-- ptab.get. -/
def copPtabGet : CopFn := fun r s =>
  match s.ctx? r.cnum with
  | none => (s, .done stState 0)
  | some x =>
    if s.tensorBusy r.cnum r.gb.toNat r.n then (s, .again 8) else
    let img := x.recAt r.gb.toNat
    copWrites s r r.ga.toNat (leBytes 64 img.toNat) (.done 0 (Rec.ofBits img).version)

/-- mesh.set; an image with NAXES = 0 empties the entry. -/
def copMeshSet : CopFn := fun r s =>
  let i := r.gb.toNat
  let img : BitVec 512 := BitVec.ofNat 512 (leNat r.block)
  match s.ctx? r.cnum with
  | none => (s, .done stState 0)
  | some x =>
    if x.ptab.any (fun y => (Rec.ofBits y.2).conv && (Rec.ofBits y.2).mesh == i) then (s, .done stBusy 0)
    else if meshOk x img = false then (s, .done stInvalid 0)
    else (s.mapCtx r.cnum fun z => { z with mesh := (i, img) :: z.mesh.filter fun y => y.1 ≠ i }, .done 0 0)

/-! ### place.conv (R340, R341) -/

/-- Whether a packet belongs to a request. -/
def reqMine (n : Nat) (u : Sent) : Bool := match u.own with
  | .req k _ => k == n
  | _ => false

/-- The mesh image of a record. -/
def Ctx.meshImage (x : Ctx) (r : Rec) : BitVec 512 := ((x.mesh.find? fun y => y.1 == r.mesh).map (·.2)).getD 0

/-- The conversion that a request demands on the record as it stands; none where the record has no mesh. -/
def Ctx.convFor (x : Ctx) (r : Req) : Option Conv :=
  let y := Rec.ofBits (x.recAt (r.gb.toNat % 4096))
  (x.meshAt y.mesh).map fun m => { mesh := m, r := y, aim := demanded m y.st r.gb.toNat, free := r.free }

/-- Whether a conversion is valid (R341): the record and the demanded record well-formed, the issuing package a member. -/
def State.convOk (s : State) (x : Ctx) (r : Req) (v : Conv) : Bool :=
  let src := (r.origin.map (·.1)).getD s.self
  v.r.valid && recClear (x.recAt (r.gb.toNat % 4096)) && recOk v.r (some v.mesh) && !absentField v.mesh r.gb.toNat &&
  recOk { v.r with st := v.aim } (some v.mesh) && v.mesh.members.any fun c => (x.memberPkg v.mesh c).map (·.p) == some src

/-- The record that a conversion leaves: states, VERSION + 1, CONV clear (R340). -/
def convRecord (img : BitVec 512) (aim : List Nat) : BitVec 512 :=
  let img := putField img 44 9 (entry aim 0 + entry aim 1 * 8 + entry aim 2 * 64)
  putField (putField img 16 16 ((Rec.ofBits img).version + 1)) 54 1 0

/-- The conversion is complete: every member's record is rewritten. -/
def State.convDone (s : State) (c prec : Nat) (v : Conv) : State × CopOut :=
  let img := convRecord (((s.ctx? c).map fun x => x.recAt prec).getD 0) v.aim
  (((s.mapCtx c fun x => x.putRec prec img).tellRecord c prec v.mesh img false).settleRace c prec, .done 0 (Rec.ofBits img).version)

/-- A conversion that has begun faults: every shard byte of the tensor is undefined, the records are as they were, and what its packets met is
reported by the STATUS alone (R267, R279, R341, R439). -/
def State.convFault (s : State) (r : Req) (prec : Nat) (v : Conv) : State × CopOut :=
  let n := fun st => shardBytes { v.r with st := st } v.mesh
  let t := (s.dropSent (reqMine r.n)).freeBytes r.cnum v.r.layout (max (n v.r.st) (n v.aim))
  let t := t.mapReq r.n fun q => { q with raise := none }
  ({ t.markConv r.cnum prec v.mesh false true with spoiled := t.spoiled.filter (· ≠ (r.cnum, prec)) }, .done stFault 0)

/-- The new shard of a member. -/
def State.convShard (s : State) (r : Req) (v : Conv) (c : List Nat) : Access (List Byte) :=
  match (List.range (boxCount (v.boxTo c))).mapM (v.newElem (s.fetchShard (reqMine r.n) r.cnum v) c) with
  | .error e => .error e
  | .ok l => .ok (l.flatMap (leBytes v.r.width))

/-- Every member's new shard written: here at once, elsewhere by packets. -/
def State.convWrite (s : State) (r : Req) (v : Conv) : List (List Nat × List Byte) → Access State
  | [] => .ok s
  | (c, bs) :: l =>
    match writeShards bs r.cnum 0 r.tile r.core (fun i => .req r.n i) [] v.mesh v.r.layout s [c] with
    | .error e => .error e
    | .ok t => t.convWrite r v l

/-- A conversion that has begun needs a package that is lost or that the context no longer maps, or its context is LOST (R439). -/
def State.convCut (s : State) (r : Req) (v : Conv) : Bool :=
  ((s.ctx? r.cnum).map (·.lost)).getD true || v.mesh.members.any fun c => match (s.ctx? r.cnum).bind fun x => x.memberPkg v.mesh c with
    | none => true
    | some e => s.lostPkgs.contains e.p

/-- The home PCE has read what it needs, or has not: the writes, then their acknowledgements. -/
def State.convStep (s : State) (r : Req) (prec : Nat) (v : Conv) : State × CopOut :=
  if r.raise.isSome ∨ s.convCut r v = true then s.convFault r prec v else
  if r.phase = 2 then
    (if s.unacked.any (reqMine r.n) then (s, .again 8) else s.convDone r.cnum prec v)
  else if s.unacked.any (fun u => reqMine r.n u && u.data.isNone) then (s, .again 8) else
  match v.mesh.members.mapM fun c => (s.convShard r v c).map fun bs => (c, bs) with
  | .error e => (s.deviceError e.1 r.cnum e.2 (shardBytes v.r v.mesh)).convFault r prec v
  | .ok l =>
    let t := s.monitor r.cnum v.r.layout (shardBytes v.r v.mesh) false
    match (t.dropSent (reqMine r.n)).convWrite r v l with
    | .error _ => t.convFault r prec v
    | .ok u => (u.mapReq r.n fun q => { q with phase := 2 }, .again 8)

/-- A conversion begins at its home: one to the current state is complete; another marks the records and reads the shards (R279, R340). -/
def State.convBegin (s : State) (r : Req) (prec : Nat) (v : Conv) : State × CopOut :=
  if v.aim = v.r.st then s.convDone r.cnum prec v else
  let v := { v with free := s.freeN }
  let t : State := { s with freeN := s.freeN + v.mesh.count * v.span }
  let t := (t.markConv r.cnum prec v.mesh true false).mapReq r.n fun q => { q with phase := 1, free := v.free }
  let need := (v.mesh.members.flatMap fun c => (v.sources c).map (·.1)).eraseDups
  (t.askShards r.cnum 0 r.tile r.core (fun i => .req r.n i) v need, .again 8)

/-- The members' copies of the record have been asked for: FAULT where a member is lost or refuses the binding, SHAPE where a copy differs
(R341, R459). -/
def State.convCompare (s : State) (r : Req) (x : Ctx) (prec : Nat) (v : Conv) : State × CopOut :=
  let far := (s.farMembers x v.mesh).map (·.p)
  if s.convCut r v then (s, .done stFault 0) else
  if far.any (fun p => !r.copies.any fun y => y.1 == p) then (s, .running) else
  if r.copies.any (fun y => y.2.isNone) then (s, .done stFault 0) else
  if r.copies.any (fun y => !sameRec (y.2.getD 0) (x.recAt prec)) then (s, .done stShape 0) else
  s.convBegin r prec v

/-- A conversion in its turn at this package: its cases without effect, then to its home, or, at its home, to the members for their copies
(R340, R341). -/
def State.convTurn (s : State) (r : Req) (x : Ctx) (prec : Nat) : State × CopOut :=
  let y := Rec.ofBits (x.recAt prec)
  if y.valid = false then (s, .done stInvalid 0) else
  match x.convFor r with
  | none => (s, .done stBusy 0)
  | some v =>
    if r.noted ≠ some (x.meshImage y) then (s, .done stBusy 0) else
    if s.convOk x r v = false then (s, .done stInvalid 0) else
    match x.memberPkg v.mesh [0, 0, 0] with
    | none => (s, .done stFault 0)
    | some e =>
      if e.p ≠ s.self then
        if s.lostPkgs.contains e.p ∨ r.mode = 4 then (s, .done stFault 0) else
        ((s.mapReq r.n fun q => { q with phase := 3 }).tell e.p (.copRequest s.self e.rcref x.cref r.n r.fn7 r.ga r.gb []), .running)
      else if s.farMembers x v.mesh = [] then s.convBegin r prec v else
      ((s.farMembers x v.mesh).foldl (fun t m => t.tell m.p (.copyAsk t.self m.rcref x.cref r.n prec))
        (s.mapReq r.n fun q => { q with phase := 4 }), .running)

/-- place.conv at this package: it notes the mesh entry as it comes, and waits for its turn on the tensor (R340 to R342). -/
def copPlaceConv : CopFn := fun r s =>
  let prec := r.gb.toNat % 4096
  match s.ctx? r.cnum with
  | none => (s, .done stFault 0)
  | some x =>
    if r.phase = 0 then
      let r := { r with noted := some (r.noted.getD (x.meshImage (Rec.ofBits (x.recAt prec)))) }
      let s := s.mapReq r.n fun q => { q with noted := r.noted }
      if s.tensorHeld r.cnum prec r.n then (s, .again 8) else s.convTurn r x prec
    else match x.convFor r with
      | none => ((s.dropSent (reqMine r.n)).mapCtx r.cnum fun y => y.setConv prec false, .done stFault 0)
      | some v => if r.phase = 4 then s.convCompare r x prec v else s.convStep r prec v

/-- An operation (code 0x2E) or a job (code 0x2F) of another package at the home of a tensor: in its turn it is told to begin, with the record
as it stands here; a job counts as a conversion (R342). -/
def copTensor : CopFn := fun r s =>
  let prec := r.gb.toNat % 4096
  match r.origin with
  | none => (s, .running)
  | some (src, id) =>
    if (if r.fn7 = 0x2E then s.tensorBusy r.cnum prec r.n else s.tensorHeld r.cnum prec r.n) then (s, .again 8) else
    let img := ((s.ctx? r.cnum).map fun x => x.recAt prec).getD 0
    let t := match if r.fn7 = 0x2E then none else (s.ctx? r.cnum).bind fun x => x.meshAt (Rec.ofBits img).mesh with
      | none => s
      | some m => s.markConv r.cnum prec m true false
    (t.tell src (.tensorGo id (some img)), .running)

/-- The operation or job of another package has ended (R342). -/
def State.tensorEnds (s : State) (r : Req) : State :=
  let prec := r.gb.toNat % 4096
  let t : State := { s with reqs := s.reqs.filter fun q => q.n ≠ r.n }
  if r.fn7 ≠ 0x2F ∨ r.phase = 0 then t else
  match (t.ctx? r.cnum).bind fun x => x.meshAt (Rec.ofBits (x.recAt prec)).mesh with
  | none => t.mapCtx r.cnum fun x => x.setConv prec false
  | some m => (t.markConv r.cnum prec m false false).settleRace r.cnum prec

/-! ### Re-shard plans (R345, R346) -/

/-- The intersection of two boxes: low corner and extents; none where it is empty. -/
def meet (a b : List (Nat × Nat)) : Option (List Nat × List Nat) :=
  let l := (a.zip b).map fun p => (max p.1.1 p.2.1, min (p.1.1 + p.1.2) (p.2.1 + p.2.2))
  if l.all (fun p => decide (p.1 < p.2)) then some (l.map (·.1), l.map fun p => p.2 - p.1) else none

/-- The transfers of a plan, in list order. -/
def planOf (a : Rec) (ma : Mesh) (b : Rec) (mb : Mesh) : List Xfer :=
  let boxes := ((ma.members.map fun c => ma.box a.dims a.st c)).eraseDups
  (List.range mb.count).flatMap fun q =>
    boxes.filterMap fun bs =>
      match meet (mb.box b.dims b.st (mb.coords q)) bs with
      | none => none
      | some (lo, ext) =>
        let h := (List.range ma.count).filter fun p => ma.box a.dims a.st (ma.coords p) == bs
        some { q := q, p := entry h (q % h.length), lo := lo, ext := ext }

/-- The packages of a mesh as a context maps them. -/
def Ctx.meshPkgs (x : Ctx) (m : Mesh) : List (BitVec 12) := m.members.filterMap fun c => (x.memberPkg m c).map (·.p)

/-! ### Progress records (R348) -/

/-- The bytes of a transfer. -/
def Job.bytes (j : Job) (t : Xfer) : Nat := t.ext.foldl (· * ·) 1 * j.width

/-- NEXT: every transfer below it is complete. -/
def Job.nextX (j : Job) : Nat := ((List.range j.plan.length).find? fun i => !j.done.contains i).getD j.plan.length

/-- The progress record. -/
def Job.record (j : Job) : List Byte :=
  let sum (l : List Xfer) : Nat := l.foldl (fun n t => n + j.bytes t) 0
  leBytes 64 (j.n % 16 + j.st % 8 * 2 ^ 4 + j.fclass % 256 * 2 ^ 8 + j.plan.length % 2 ^ 32 * 2 ^ 32 + j.nextX % 2 ^ 32 * 2 ^ 64 +
    j.fxfer % 2 ^ 32 * 2 ^ 96 + j.sver % 2 ^ 16 * 2 ^ 128 + j.dver % 2 ^ 16 * 2 ^ 144 + j.srec % 2 ^ 12 * 2 ^ 160 +
    j.drec % 2 ^ 12 * 2 ^ 172 + sum j.plan % 2 ^ 64 * 2 ^ 192 + sum (j.plan.take j.nextX) % 2 ^ 64 * 2 ^ 256 +
    j.faddr % 2 ^ 64 * 2 ^ 320)

/-- A context's job. -/
def State.job? (s : State) (c n : Nat) : Option Job := (s.ctx? c).bind fun x => x.jobs.find? fun j => j.n == n

/-- The progress record written. -/
def State.writeJob (s : State) (c : Nat) (j : Job) : Access State :=
  match s.gwrite c j.prog j.record with
  | .error e => .error e
  | .ok t => .ok (t.mapJob c j.n fun k => { k with wnext := j.nextX, wtime := s.now })

/-! ### Running a job (R281, R342, R347, R349) -/

/-- Whether a packet belongs to one transfer of a job. -/
def xferMine (c n x : Nat) (u : Sent) : Bool := match u.own with
  | .xfer d k y _ => d == c && k == n && y == x
  | _ => false

/-- A change made for every job of every context. -/
def State.eachJob (s : State) (f : Ctx → Job → State → State) : State :=
  s.ctxs.foldl (fun t x => x.jobs.foldl (fun u j => f x j u) t) s

/-- A job stops on a fault (R349, R440). -/
def State.jobFails (s : State) (c : Nat) (j : Job) (cls : TrapClass) (x addr : Nat) : State :=
  let k : Job := { j with st := 3, fclass := classNum cls, fxfer := x, faddr := addr }
  let t := (s.deviceError cls c (addr % 2 ^ 44) 1).jobEnds c j 3
  let t := t.mapJob c j.n fun i => { i with fclass := k.fclass, fxfer := x, faddr := addr }
  (match t.writeJob c k with
   | .error _ => t
   | .ok u => u).jobReply c j stFault

/-- A transfer is complete; with the last one the job is DONE (R347). -/
def State.xferDone (s : State) (c : Nat) (j : Job) (x : Nat) : State :=
  let k : Job := { j with done := x :: j.done }
  let t := (s.dropSent (xferMine c j.n x)).mapJob c j.n fun i => { i with done := x :: i.done }
  if k.nextX < j.plan.length then
    (if k.wnext + 64 ≤ k.nextX then t.after 0 .progressRecordWrite (.num2 c j.n) else t)
  else
    match (t.jobEnds c k 4).writeJob c { k with st := 4 } with
    | .error (cls, a) => t.jobFails c k cls (2 ^ 32 - 1) a
    | .ok u => u.jobReply c j 0

/-- The bytes of rows, read here or taken from what has come; the source's pod address goes with a fault. -/
def State.rowBytes (s : State) (mine : Sent → Bool) (c : Nat) (e : Option PkgMap) : List (Nat × Nat × Nat) → Access (List (Nat × List Byte))
  | [] => .ok []
  | (sa, da, n) :: l =>
    let row : Access (List Byte) := match e with
      | none => .error (.placeUnmapped, sa)
      | some p => if p.p = s.self then (s.gread c sa n).map (·.2) else .ok ((List.range n).map fun i => s.remoteByte mine p.p (sa + i))
    match row with
    | .error x => .error x
    | .ok bs => (s.rowBytes mine c e l).map fun r => (da, bs) :: r

/-- Rows written in this package. -/
def State.putRows (s : State) (c : Nat) : List (Nat × List Byte) → Access State
  | [] => .ok s
  | (a, bs) :: l => match s.gwrite c a bs with
    | .error e => .error e
    | .ok t => t.putRows c l

/-- Rows counted as reads by the monitors of this package. -/
def State.watchRows (s : State) (c : Nat) (e : PkgMap) (l : List (Nat × Nat × Nat)) : State :=
  if e.p = s.self then l.foldl (fun t r => t.monitor c r.1 r.2.2 false) s else s

/-- The numbers of a row's packets: reads below 2^63, writes above. -/
def rowPart (row : Nat) (write : Bool) : Nat := row * 2 ^ 31 + if write then 2 ^ 63 else 0

/-- A job asks the other packages that are homes of its tensors for its turn (R342). -/
def State.askHomes (s : State) (c : Nat) (j : Job) : State :=
  match s.ctx? c with
  | none => s
  | some x => [j.srec, j.drec].eraseDups.foldl (fun t i =>
      match x.homePkg i with
      | none => t
      | some e =>
        if e.p = t.self then t else
        let u : State := { t with reqN := t.reqN + 1 }
        (u.mapJob c j.n fun k => { k with asks := (i, e, t.reqN, false) :: k.asks }).tell e.p
          (.tensorAsk u.self e.rcref x.cref t.reqN i true)) s

/-- A job's turn: here, then at every other home (R342); a lost home stops it (R440). -/
def State.jobTurn (s : State) (c : Nat) (j : Job) : State × Bool :=
  if j.began then (s, true) else
  if (match j.req with
    | none => false
    | some n => s.tensorHeld c j.srec n || s.tensorHeld c j.drec n) then (s, false) else
  let far := (s.ctx? c).map fun x => [j.srec, j.drec].any fun i => (x.homePkg i).any fun e => e.p ≠ s.self
  if far = some true ∧ j.asks = [] then (s.askHomes c j, false) else (s, j.asks.all fun a => a.2.2.2)

/-- One transfer tried: it waits for its job's turn, for its context to run and for bytes of another package (R281, R342). -/
def State.tryXfer (s : State) (c : Nat) (j : Job) (x : Nat) : State :=
  let later (n : Nat) (t : State) : State := t.after n .trestleTransferComplete (.xfer c j.n x none false)
  if s.runnable c = false then later 64 s else
  let (s, turn) := s.jobTurn c j
  if turn = false then later 64 s else
  match s.ctx? c with
  | none => s
  | some y =>
    match y.planRec j.srec, y.planRec j.drec, j.plan[x]? with
    | some (a, ma), some (b, mb), some t =>
      let s := if j.began then s else (s.jobConv c j true).mapJob c j.n fun k => { k with began := true }
      let j := { j with began := true }
      let (_, se, sp) := y.memberAt ma t.p
      let (_, de, dp) := y.memberAt mb t.q
      match se, de with
      | none, _ => s.jobFails c j .placeUnmapped x sp
      | _, none => s.jobFails c j .placeUnmapped x dp
      | some se, some de =>
        let rows := xferRows a ma b mb t
        let mine := xferMine c j.n x
        let own (i : Nat) : Own := .xfer c j.n x i
        let ask := ((List.range rows.length).zip rows).foldl (fun u (i, sa, _, n) =>
          askBlocks u c 0 0 .load own se sa (n / 256 + 1) n (rowPart i false)) s
        let s := if se.p = s.self then s else ask
        if s.unacked.any (fun u => mine u && u.data.isNone && !u.write) then later 8 s else
        match s.rowBytes mine c (some se) rows with
        | .error (cls, va) => s.jobFails c j cls x (sp + va)
        | .ok l =>
          let s := s.watchRows c se rows
          if de.p = s.self then
            match s.putRows c l with
            | .error (cls, va) => s.jobFails c j cls x (dp + va)
            | .ok u => u.xferDone c j x
          else
            let u := s.dropSent fun v => mine v && !v.write
            ((List.range l.length).zip l).foldl (fun u (i, da, bs) =>
              tellBlocks u c 0 0 .load own [] de da (bs.length / 256 + 1) bs (rowPart i true)) u
    | _, _, _ => s.jobFails c j .placeUnmapped x 0

/-- R347, R349: a transfer is tried, is answered with a fault, or has been acknowledged. -/
def execTrestleTransferComplete (s : State) : Host.Outcome State Fault Refusal :=
  match s.arg with
  | .xfer c n x err acked =>
    match s.job? c n with
    | none => .next s
    | some j =>
      if j.st ≠ 2 ∨ j.done.contains x = true then .next s else
      match err with
      | some (cls, a) => .next (s.jobFails c j cls x a)
      | none => .next (if acked then s.xferDone c j x else s.tryXfer c j x)
  | _ => .next s

/-- R348: while the job runs, at every 64 transfers and every microsecond. -/
def execProgressRecordWrite (s : State) : Host.Outcome State Fault Refusal :=
  match s.arg with
  | .num2 c n =>
    match s.job? c n with
    | none => .next s
    | some j =>
      if j.st ≠ 2 ∨ (j.nextX < j.wnext + 64 ∧ s.now < j.wtime + 3000) then .next s else
      match s.writeJob c j with
      | .error (cls, a) => .next (s.jobFails c j cls (2 ^ 32 - 1) a)
      | .ok t => .next (t.after 3000 .progressRecordWrite (.num2 c n))
  | _ => .next s

/-! ### Trestle's functions (R280, R281) -/

/-- rs.plan. -/
def copRsPlan : CopFn := fun r s =>
  let (sr, dr, prog) := planFields r.block
  match s.ctx? r.cnum with
  | none => (s, .done stState 0)
  | some x =>
    match x.planRec sr, x.planRec dr with
    | some (a, ma), some (b, mb) =>
      if a.format ≠ b.format ∨ a.dims ≠ b.dims then (s, .done stShape 0) else
      let pa := x.meshPkgs ma
      let pb := x.meshPkgs mb
      if (pa ++ pb).contains s.self = false ∨ (pa.any pb.contains = true ∧ a.layout < b.layout + shardBytes b mb ∧
          b.layout < a.layout + shardBytes a ma) then (s, .done stInvalid 0) else
      match (List.range 16).find? fun n => x.jobs.all fun j => j.n != n with
      | none => (s, .done stNospace 0)
      | some n =>
        let j : Job := { n := n, st := 1, srec := sr, drec := dr, prog := prog, plan := planOf a ma b mb, width := a.width
                         sver := a.version, dver := b.version }
        match s.writeJob r.cnum j with
        | .error e => copFault s r.cnum e
        | .ok t => (t.mapCtx r.cnum fun y => { y with jobs := j :: y.jobs }, .done 0 (n + min j.plan.length 65535 * 256))
    | _, _ => (s, .done stInvalid 0)

/-- Both records still are those of rs.plan (R349). -/
def Ctx.jobFits (x : Ctx) (j : Job) : Bool :=
  let ok (i v : Nat) : Bool := (Rec.ofBits (x.recAt i)).valid && (Rec.ofBits (x.recAt i)).version == v
  ok j.srec j.sver && ok j.drec j.dver

/-- A job becomes RUNNING: its transfers from a number up are tried. -/
def State.runJob (s : State) (r : Req) (j : Job) : State × CopOut :=
  let k : Job := { j with st := 2, req := some r.n, began := false, fclass := 0, fxfer := 2 ^ 32 - 1, faddr := 0 }
  match (s.mapJob r.cnum j.n fun _ => k).writeJob r.cnum k with
  | .error (cls, a) => ((s.mapJob r.cnum j.n fun _ => k).jobFails r.cnum k cls (2 ^ 32 - 1) a, .running)
  | .ok t =>
    let t := t.after 3000 .progressRecordWrite (.num2 r.cnum j.n)
    (((List.range j.plan.length).filter fun x => !j.done.contains x).foldl (fun u x =>
      u.after copDelay .trestleTransferComplete (.xfer r.cnum j.n x none false)) (t.mapReq r.n fun q => { q with phase := 1 }), .running)

/-- rs.start and rs.resume; a resumed job takes NEXT from its progress record (R349). -/
def copRsRun : CopFn := fun r s =>
  match s.ctx? r.cnum, s.job? r.cnum r.gb.toNat with
  | some x, some j =>
    if j.st ≠ (if r.fn7 = 0x31 then 1 else 3) then (s, .done stState 0) else
    if x.jobFits j = false then (s, .done stInvalid 0) else
    if r.fn7 = 0x31 then s.runJob r j else
    match s.greadNat r.cnum (j.prog + 8) 4 with
    | .error e => copFault s r.cnum e
    | .ok (t, n) =>
      if j.plan.length < n then (t, .done stInvalid 0) else
      let skipped := (List.range n).filter fun i => !j.done.contains i
      let k : Job := { j with done := List.range n }
      if n = j.plan.length then
        let u := t.freeRows r.cnum j skipped
        match (u.mapJob r.cnum j.n fun _ => { k with st := 4 }).writeJob r.cnum { k with st := 4 } with
        | .error e => copFault s r.cnum e
        | .ok v => (v, .done 0 0)
      else (t.freeRows r.cnum j skipped).runJob r k
  | _, _ => (s, .done stNotfound 0)

/-- rs.status: transfers done are all that are complete (R281). -/
def copRsStatus : CopFn := fun r s =>
  match s.job? r.cnum r.gb.toNat with
  | none => (s, .done stNotfound 0)
  | some j => (s, .done 0 (j.st + j.done.length % 65536 * 256))

/-- rs.abort: an outstanding reply gets ABORTED; bytes not yet transferred are undefined. -/
def copRsAbort : CopFn := fun r s =>
  match s.job? r.cnum r.gb.toNat with
  | none => (s, .done stNotfound 0)
  | some j =>
    (s.abortJob r.cnum j, .done 0 0)

end Sys2Proof.Machine
end

