-- ==== Sys2Proof/Machine/CopReply.lean ====
section
/-! DEFINITION. The cop engines at work: which function a request names, its completion point, its reply and its barriers (R184, R266 to
R270, R274, R283, R408). -/

namespace Sys2Proof.Machine

/-- The engine of a function (R270). -/
def copEngine (fn7 : Nat) : Nat :=
  if fn7 < 0x20 then 0 else if fn7 < 0x30 then 1 else if fn7 < 0x40 then 2 else if fn7 < 0x50 then 3
  else if fn7 / 16 = 6 ∧ fn7 < 0x68 then 5 else 4

/-- The function that a request names. -/
def copFn : Nat → CopFn
  | 0x06 => copCstat
  | 0x20 => copPtabSet
  | 0x21 => copPtabGet
  | 0x22 => copPlaceConv
  | 0x23 => copMeshSet
  | 0x2E => copTensor
  | 0x2F => copTensor
  | 0x30 => copRsPlan
  | 0x31 => copRsRun
  | 0x32 => copRsRun
  | 0x33 => copRsStatus
  | 0x34 => copRsAbort
  | 0x40 => copFuture
  | 0x41 => copFuture
  | 0x42 => copFuture
  | 0x43 => copFuture
  | 0x44 => copFuture
  | 0x50 => copCtxCreate
  | 0x51 => copCtxGrant
  | 0x52 => copCtxRevoke
  | 0x53 => copCtxDestroy
  | 0x54 => copCtxBudget
  | 0x55 => copCtxKey
  | 0x56 => copCtxScrub
  | 0x57 => copCtxReceipt
  | 0x60 => copNodeLaunch
  | 0x61 => copNodeStatus
  | 0x68 => copLogArm
  | 0x69 => copLogRead
  | 0x6A => copTimeRead
  | _ => copCollective

/-- COP.FAIL of a reply (R267, R408). -/
def copFail (r : Req) : Trap :=
  match r.raise with
  | some t => t
  | none => copTrap r .copFail 0 0 r.status

/-- What a barrier of a request gets at the completion point: ERR first where the STATUS is not OK (R268, R274). -/
def State.copErr (s : State) (r : Req) (k : Option Nat) : State :=
  if r.ecode = 0 then s else s.engineErr k r.ecode (copFail r)

/-- The barriers of a request that satisfy a condition: one arrival at the completion barrier whatever the STATUS, and the source credit (R268,
R275). -/
def State.copArrive (s : State) (r : Req) (p : Nat → Bool) : State :=
  let d := r.dbar.filter p
  let b := r.sbar.filter p
  let t := (s.copErr r d).engineBar d Bar.arrive
  let t := if r.ecode = 0 then t.engineBar b fun x => x.credit r.sourceBytes 0 else t.copErr r b
  t.mapReq r.n fun q => { q with dbar := q.dbar.filter fun k => !p k, sbar := q.sbar.filter fun k => !p k }

/-- A request is gone. -/
def State.dropReq (s : State) (n : Nat) : State := { s with reqs := s.reqs.filter fun r => r.n ≠ n }

/-- Whether a hold waits for request n. -/
def Hold.forReq (n : Nat) : Hold → Bool
  | .reply m => m == n
  | .cop m _ => m == n
  | .op _ _ => false
  | .packet _ _ _ => false

/-- The reply at the stream, with its tile in focus and its core's turn (R144, R267, R283, R408). -/
def State.copLand (s : State) (r : Req) : State :=
  let c := s.core
  let waits := (c.hold.map (Hold.forReq r.n)).getD false
  let owed := c.pend.any fun p => p.1 == r.gd && p.2.forReq r.n
  let c := { c with hold := c.hold.filter fun h => !h.forReq r.n, pend := c.pend.filter fun p => !p.2.forReq r.n }
  let fails := r.raise.isSome ∨ (r.mode = 0 ∧ r.status ≠ 0)
  if r.mode = 1 then
    if waits = false then s
    else if r.raise.isSome then (s.setCore c).takeTrap (some r.core) { copFail r with precise := true }
    else (s.setCore ((c.wg r.gd r.word).retire s.now 0)).tryComplete
  else if fails then
    if r.precise ∧ waits = true then (s.setCore c).takeTrap (some r.core) { copFail r with precise := true, pc := some r.pc }
    else (s.setCore { c with late := c.late ++ [copFail r]
                             dead := if r.mode = 2 ∧ owed = true then (r.gd, copFail r) :: c.dead else c.dead }).tryComplete
  else (s.setCore (if owed then c.wg r.gd r.word else c)).tryComplete

/-- The slot of a saved task. -/
def State.savedSlot (s : State) (r : Req) : Option Nat :=
  ((((s.ctx? r.cnum).map (·.saved)).getD []).find? fun i => i.tile.task.id == r.tid).map (·.slot)

/-- A function has passed its completion point: its barriers, then its reply. A stopped task's reply waits. A saved task's is held with what it
does to barriers in the task's own scratch; barriers in quad and die scratch get theirs at once (R269, R323). A killed task's reply is
discarded, and the function's arrival is not (R269). The destination of a participant that receives MEMBERLOST is undefined by then (R274). -/
def State.copDeliver (s : State) (n : Nat) : State :=
  match s.reqs.find? fun r => r.n == n with
  | none => s
  | some r =>
    let elsewhere (k : Nat) : Bool := !inScratch r.tile k
    if r.mode = 3 then s.dropReq n else
    if r.mode = 4 then (match r.origin with
      | none => s.dropReq n
      | some (p, id) => (s.tell p (.copAnswer id r.status r.word 0 (r.raise.map fun t => (t.cls, t.addr)))).dropReq n) else
    match s.taskTile r.tid with
    | some t =>
      let s := (if r.status = stLost then s.freeDst r else s).copArrive r fun _ => true
      if t.halted then s.after 64 .copReply (.num n)
      else (s.dropReq n).onCore t.ptile r.core (fun u => u.copLand r) |>.getD (s.dropReq n)
    | none =>
      match s.savedSlot r with
      | some k => (s.copArrive r elsewhere).after 0 .heldEvent (.held r.cnum k (.reply n))
      | none => (s.copArrive r elsewhere).dropReq n

/-- What a function came to. -/
def State.copSettle (s : State) (n : Nat) : CopOut → State
  | .done st data => (s.mapReq n fun r => { r with phase := 9, status := st, word := replyWord st data }).copDeliver n
  | .word w => (s.mapReq n fun r => { r with phase := 9, status := 0, word := w }).copDeliver n
  | .trap t => (s.mapReq n fun r => { r with phase := 9, raise := some t }).copDeliver n
  | .again k => s.after k .copReply (.num n)
  | .running => s.mapReq n fun r => if r.phase = 0 then { r with phase := 1 } else r

/-- An earlier request of the same stream at the same engine has not begun (R184, R270). -/
def State.copBehind (s : State) (r : Req) : Bool :=
  s.reqs.any fun q => q.tid == r.tid && q.core == r.core && q.mode != 3 && q.mode != 4 && decide (q.n < r.n) && q.phase == 0 &&
    copEngine q.fn7 == copEngine r.fn7

/-- The die of a request's tile. -/
def Req.die (r : Req) : Nat := pdie r.tile.toNat

/-- The engine has as many requests as it accepts: 32 collectives a die, 64 at the PCE, 256 at each of the future engine, the context engine
and the launcher (R270). -/
def State.copFull (s : State) (r : Req) : Bool :=
  let under := s.reqs.filter fun q => q.phase != 0 && q.phase != 9 && copEngine q.fn7 == copEngine r.fn7
  match copEngine r.fn7 with
  | 0 => decide (32 ≤ (under.filter fun q => q.die == r.die).length)
  | 1 => decide (64 ≤ under.length)
  | 2 => false
  | _ => decide (256 ≤ under.length)

/-- R268: the engine takes the request up, goes on with it, or delivers its reply. -/
def execCopReply (s : State) : Host.Outcome State Fault Refusal :=
  match s.arg with
  | .num n =>
    (match s.reqs.find? fun r => r.n == n with
     | none => .next s
     | some r =>
       if r.phase = 9 then .next (s.copDeliver n)
       else if r.phase = 0 ∧ r.mode < 3 ∧ (s.copBehind r || s.copFull r) = true then .next (s.after 1 .copReply (.num n))
       else if r.phase ≠ 0 ∧ (r.fn7 ≠ 0x22 ∨ r.phase = 3) then .next s
       else .next ((copFn r.fn7 r s).1.copSettle n (copFn r.fn7 r s).2))
  | _ => .next s

end Sys2Proof.Machine
end

