-- ==== Sys2Proof/Machine/Fabric.lean ====
section
/-! DEFINITION. The fabric: packets and control messages that arrive, order tables, integrity blocks, links and lost packages (R100, R121
to R125, R202 to R207, R383 to R386, R426, R428, R432 to R435, R459, R460). -/

namespace Sys2Proof.Machine

/-! ### Acknowledgements sent (R121) -/

/-- The class that an acknowledgement's status names; the status is the class number + 1 (log 5). -/
def statusClass (x : Byte) : TrapClass := (trapClasses[x.toNat - 1]?).getD .xlateNone

/-- The status of a refusal. -/
def refusal (c : TrapClass) : Nat := classNum c + 1

/-- The status that asks for the packet again: the order table is full (R124). -/
def againStatus : Nat := 255

/-- What goes back to a packet's source: type, status, a word and bytes. -/
def State.answer (s : State) (p : Packet) (type : BitVec 4) (status : Nat) (x : Word) (bs : List Byte) : State :=
  s.emit p.src (.pkt { p with
      type := type, vlane := 42, src := s.self, dst := p.src, ogrp := 0, path := 0, len := BitVec.ofNat 9 bs.length, ctx := p.sctx
      sctx := p.ctx, rop := 0, operand := x, compare := 0, status := BitVec.ofNat 8 status, counts := [], data := bs, runs := []
      pce := false, spare := 0 })

/-- An acknowledgement. -/
def State.ack (s : State) (p : Packet) (status : Nat) : State := s.answer p 3 status 0 []

/-- The target context of a packet: its reference is live and its package map names the source and the source's context (R459). -/
def State.bound (s : State) (src : BitVec 12) (ctx sctx : BitVec 20) : Option Ctx :=
  s.ctxs.find? fun c => c.cref == ctx && !c.destroyed && c.pmap.any fun e => e.p == src && e.rcref == sctx

/-- A packet that the ingress does not apply (R426). -/
def State.malformed (s : State) (p : Packet) : Bool :=
  let part := (s.ctxs.find? fun c => c.cref == p.ctx).map (·.part)
  decide (8 ≤ p.type.toNat) || decide (44 ≤ p.vlane.toNat) || decide (256 < p.len.toNat) || p.spare != 0 ||
  (decide (p.vlane.toNat < 42) && (part.map fun n => n != p.vlane.toNat % 21).getD false)

/-! ### The order table (R124, R125) -/

/-- Whether an entry is the one that a packet names. -/
def OrderEntry.names (e : OrderEntry) (p : Packet) : Bool := e.src == p.src && e.tile == p.stile && e.core == p.score && e.group == p.ogrp

/-- A packet's entry. -/
def State.order? (s : State) (p : Packet) : Option OrderEntry := s.orders.find? fun e => e.names p

/-- A packet's entry, new where there is none. -/
def State.orderOf (s : State) (p : Packet) : OrderEntry :=
  (s.order? p).getD { src := p.src, tile := p.stile, core := p.score, group := p.ogrp, applied := [0, 0, 0, 0], broken := false, flags := [] }

/-- An entry stored; one with nothing in it is freed. -/
def State.putOrder (s : State) (p : Packet) (e : OrderEntry) : State :=
  let l := s.orders.filter fun x => !x.names p
  { s with orders := if e.applied.all (· == 0) && !e.broken && e.flags.isEmpty then l else e :: l }

/-- A flag applied: an ordered flag writes its word, a count-only flag nothing. -/
def State.applyFlag (s : State) (f : Packet) : State :=
  if f.type = 5 then s.ack f 0 else
  match s.bound f.src f.ctx f.sctx with
  | none => s.ack f (refusal .xlateNone)
  | some c => match s.gwrite c.cnum f.addr.toNat f.data with
    | .error (cls, _) => s.ack f (refusal cls)
    | .ok t => (t.plainRuns c.cnum [(f.addr.toNat, f.data.length)]).ack f 0

/-- The flags of an entry whose turn has come: a broken entry's next flag is discarded and the entry cleared; another is applied once the
applied counts have reached the carried ones. -/
def runFlags (p : Packet) : Nat → State → State
  | 0, s => s
  | n + 1, s =>
    let e := s.orderOf p
    match e.flags with
    | [] => s
    | f :: fs =>
      if e.broken then
        runFlags p n ((s.putOrder p { e with applied := [0, 0, 0, 0], broken := false, flags := fs }).ack f (refusal .ordBroken))
      else if (e.applied.zip f.counts).all (fun x => decide (x.2 ≤ x.1)) then
        runFlags p n ((s.putOrder p { e with applied := (e.applied.zip f.counts).map fun x => x.1 - x.2, flags := fs }).applyFlag f)
      else s

/-- A counted packet applied or refused, and the flags that it frees. -/
def State.count (s : State) (p : Packet) (ok : Bool) : State :=
  if p.ogrp = 0 then s else
  let e := s.orderOf p
  let e := if ok then { e with applied := bump e.applied p.path.toNat } else { e with broken := true }
  runFlags p e.flags.length (s.putOrder p e)

/-- The order table has 8,192 entries; a counted packet without one is refused when it is full. -/
def State.tableFull (s : State) (p : Packet) : Bool := p.ogrp != 0 && (s.order? p).isNone && decide (8192 ≤ s.orders.length)

/-! ### Arrivals at the ingress -/

/-- Whether the link by which a packet arrives is in service: what a failed or disabled direction brings is not applied (R386, R432). What this
package's own switch answers arrives by none. -/
def State.linkOpen (s : State) (p : Packet) : Bool :=
  match lastLink p.src s.self p.path.toNat with
  | none => true
  | some n => s.links.any fun l => l.n == n && l.enabled && !l.failRx

/-- A malformed packet (R426): not applied, LINK.FAIL with cause 4 for the link that it came by; a write, read request, flag or atomic is
acknowledged negatively. -/
def State.rejectPacket (s : State) (p : Packet) : State :=
  let back := p.type = 0 ∨ p.type = 1 ∨ p.type = 4 ∨ p.type = 5 ∨ p.type = 6
  let s := if back then s.ack p (refusal .xferCtl) else s
  let s := if (p.type = 0 ∨ p.type = 6) ∧ s.tableFull p = false then s.count p false else s
  s.notify { cls := .linkFail, addr := (lastLink p.src s.self p.path.toNat).getD 0 + 4 * 2 ^ 8 } 0

/-- A packet of one type for this package, taken up by f where its link is in service and it is well-formed. -/
def arrival (type : BitVec 4) (f : Packet → State → State) (s : State) : Host.Outcome State Fault Refusal :=
  match s.arg with
  | .packet p =>
    if p.dst ≠ s.self ∨ p.type ≠ type ∨ s.linkOpen p = false then .next s
    else if s.malformed p then .next (s.rejectPacket p) else .next (f p s)
  | _ => .next s

/-- R426. -/
def execMalformedPacket (s : State) : Host.Outcome State Fault Refusal :=
  match s.arg with
  | .packet p => .next (if p.dst = s.self ∧ s.linkOpen p = true ∧ s.malformed p = true then s.rejectPacket p else s)
  | _ => .next s

/-- An access for a packet that translates and then meets poison is counted (R364): its class and address. -/
def State.struckRun (s : State) (c : Nat) (rs : List (Nat × Nat)) (e : TrapClass × Nat) (r w : Bool) : State :=
  match rs.find? fun x => x.1 == e.2 with
  | none => s
  | some x => s.struckAt e.1 c x.1 x.2 r w

/-- A write or atomic packet for bytes at given runs: refused for a full table, refused by its binding, or performed, acknowledged and
counted. -/
def State.perform (s : State) (p : Packet) (rs : List (Nat × Nat)) (f : Ctx → Access (State × Word)) : State :=
  if s.tableFull p then s.ack p againStatus else
  match s.bound p.src p.ctx p.sctx with
  | none => (s.ack p (refusal .xlateNone)).count p false
  | some c => match f c with
    | .error e => ((((s.struckRun c.cnum rs e (p.type == 6) true).deviceError e.1 c.cnum e.2)).ack p (refusal e.1)).count p false
    | .ok (t, x) => (t.answer p 3 0 x []).count p true

/-- R121: a write packet is applied and acknowledged, and may free ordered flags. -/
def execWrite (s : State) : Host.Outcome State Fault Refusal :=
  arrival 0 (fun p t =>
    let rs := packetSpans p p.data.length
    t.perform p rs fun c => (t.gwriteRuns c.cnum rs p.data).map fun u => (if p.pce then u else u.plainRuns c.cnum rs, 0)) s

/-- R202, R205: a read request is served; LEN names the bytes asked for (DESIGN CHOICE, log 5). -/
def execReadRequest (s : State) : Host.Outcome State Fault Refusal :=
  arrival 1 (fun p t =>
    let rs := packetSpans p p.len.toNat
    match t.bound p.src p.ctx p.sctx with
    | none => t.ack p (refusal .xlateNone)
    | some c => match t.greadRuns c.cnum rs with
      | .error e => ((t.struckRun c.cnum rs e true false).deviceError e.1 c.cnum e.2).ack p (refusal e.1)
      | .ok (u, bs) => u.answer p 2 0 0 bs) s

/-- The line of an rvat added element by element (R102). -/
def State.addLine (s : State) (c va : Nat) (f : Fmt) : List Byte → Nat → Access State
  | _, 0 => .ok s
  | bs, n + 1 =>
    let w := f.width / 8
    match s.gatomic c va w with
    | .error e => .error e
    | .ok (t, k) => ((t.racTouch k).atomicAdd f k (leNat (bs.take w))).addLine c (va + w) f (bs.drop w) n

/-- R100, R206, R207: an atomic packet is performed in the remote atomic cache and replied. -/
def execAtomic (s : State) : Host.Outcome State Fault Refusal :=
  arrival 6 (fun p t =>
    if p.rop.toNat < 8 then
      t.perform p [(p.addr.toNat, 4)] fun c => t.atomicWord c.cnum p.addr.toNat p.rop.toNat p.operand p.compare
    else
      let f : Fmt := if p.rop = 8 then .fp32 else .bf16
      let w := f.width / 8
      t.perform p ((List.range (128 / w)).map fun i => (p.addr.toNat + i * w, w)) fun c =>
        (t.addLine c.cnum p.addr.toNat f p.data (128 / w)).map fun u => (u, 0)) s

/-- A flag joins its entry's queue; one without an entry is refused when the table is full (R124). -/
def State.takeFlag (p : Packet) (s : State) : State :=
  if s.tableFull p then s.ack p againStatus else
  let e := s.orderOf p
  runFlags p (e.flags.length + 1) (s.putOrder p { e with flags := e.flags ++ [p] })

/-- R124: an ordered flag waits for the counts that it carries. -/
def execOrderedFlag (s : State) : Host.Outcome State Fault Refusal := arrival 4 State.takeFlag s
/-- R124: a count-only flag only reconciles the counts. -/
def execCountOnlyFlag (s : State) : Host.Outcome State Fault Refusal := arrival 5 State.takeFlag s

/-! ### What comes back to the source -/

/-- The packet that an answer is about: of its target, or of this package's own switch. -/
def State.sent? (s : State) (p : Packet) : Option Sent :=
  s.unacked.find? fun u => u.pkt.id == p.id && (u.pkt.dst == p.src || p.src == s.self) && u.data.isNone

/-- A packet awaits nothing any more. -/
def State.settled (s : State) (u : Sent) : State := { s with unacked := s.unacked.filter fun v => v.pkt.id ≠ u.pkt.id }

/-- The pod address that a packet went to, as its context names it. -/
def State.podOf (s : State) (u : Sent) : Nat :=
  let l := (s.ctxs.find? fun c => c.cref == u.pkt.sctx).bind fun c =>
    (c.pmap.find? fun e => e.p == u.pkt.dst && e.rcref == u.pkt.ctx).map (·.l)
  u.pkt.addr.toNat + l.getD 0 * 2 ^ 44

/-- The access kind of a packet. -/
def Sent.access (u : Sent) : Nat := if u.pkt.type = 1 then 1 else if u.pkt.type = 6 then 4 else 2

/-- The word of an ld.acq has come: it takes and fills its tokens, writes gd and retires (R205). -/
def State.acqLand (s : State) (id : Nat) (x : Word) : State :=
  match s.core.hold with
  | some (.packet n gd k) =>
    if n ≠ id then s else
    let t := s.setCore { s.core with hold := none }
    let t := match tokens t k t.token with
      | .ok u => u
      | .error _ => t
    (t.putG gd x).retirePriv k.stall
  | _ => s

/-- A broken remote write breaks the release under way that covers it (R428): of the writing stream every one but the exempt, of another stream
an earlier st.rel, which alone can be covered before it has been acknowledged (R427; log 14). -/
def CoreSt.breakRel (c : CoreSt) (own : Bool) (u : Sent) (t : Trap) : CoreSt :=
  let exempt := own && (c.relExempt.map fun x => u.pkt.dst == x.1 && u.pkt.ogrp.toNat == x.2).getD false
  match c.relMark with
  | none => c
  | some m =>
    if (own || (u.own == .rel && decide (u.pkt.id < m))) = true ∧ exempt = false ∧ c.relBad.isNone then
      { c with relBad := some (ordBroken t true) }
    else c

/-- A broken remote write, with the source's tile in focus and its core's turn: the releases under way and the future functions that wait
for it are broken, and a write of an st.rel waits for a report point where no release reports it (R204, R428). -/
def State.breakWrite (s : State) (u : Sent) (t : Trap) : State :=
  let cut (c : CoreId) : CoreSt := (s.tile.core c).breakRel (c == u.core) u t
  let hit := [CoreId.load, .compute, .store].any fun c => (cut c).relBad.isSome && (s.tile.core c).relBad.isNone
  let s := s.setTile (((s.tile.setCore .load (cut .load)).setCore .compute (cut .compute)).setCore .store (cut .store))
  let c := s.tile.core u.core
  let s := s.setTile (s.tile.setCore u.core (if t.op.isNone ∧ hit = false then { c with late := c.late ++ [t] } else c))
  let s : State := { s with reqs := s.reqs.map fun r =>
    if r.tid = u.tid ∧ r.core = u.core ∧ (r.fn7 = 0x41 ∨ r.fn7 = 0x43) ∧ r.phase = 0 ∧ u.pkt.id < r.mark ∧ r.raise.isNone then
      { r with raise := some t } else r }
  s.tryComplete

/-- The trap of a refused packet of no BTE operation: BAR.ERROR with ECODE 3 where its link failed (R431, R432). -/
def Sent.trap (u : Sent) (cls : TrapClass) (pod : Nat) : Trap :=
  if cls = .linkFail then { cls := .barError, precise := false, async := true, access := u.access, addr := pod, ecode := 3 }
  else { cls := cls, precise := false, async := true, access := u.access, addr := pod }

/-- A flag lost with its block: its counts go back to the source's own (R432). -/
def State.restoreCounts (s : State) (u : Sent) : State :=
  let x := s.core.sentTo u.pkt.dst u.pkt.ogrp.toNat
  let counts := (x.counts.zip u.pkt.counts).map fun y => y.1 + y.2
  s.setCore (s.core.putSent { x with counts := counts, since := min x.since u.elem })

/-- A counted data packet that has not been applied is counted no more, where no flag has carried its count yet (R124). -/
def State.uncount (s : State) (u : Sent) : State :=
  let x := s.core.sentTo u.pkt.dst u.pkt.ogrp.toNat
  if (u.pkt.type = 0 ∨ u.pkt.type = 6) ∧ u.pkt.ogrp ≠ 0 ∧ x.since ≤ u.pkt.id then
    s.setCore (s.core.putSent { x with counts := x.counts.modify u.pkt.path.toNat (· - 1) })
  else s

/-- A flag discarded for a broken write of its group (R125, R428): ORD.BROKEN names the broken operation where it has not been reported, else
it waits by itself for a report point. -/
def State.flagBroken (s : State) (u : Sent) (t : Trap) : State :=
  let mine (o : Op) : Bool := o.core == u.core && o.broken && !o.reported && (o.remote.map (·.p)) == some u.pkt.dst && (match o.kind with
    | .wr _ g => g == u.pkt.ogrp.toNat
    | .rvat _ g => g == u.pkt.ogrp.toNat
    | _ => false)
  match (s.tile.ops.find? mine).bind (·.fault) with
  | some x => s.breakOwn x
  | none => s.breakWrite u t

/-- A packet of a task refused, with its tile in focus and its core's turn; the task may be stopped. -/
def State.refusedHere (s : State) (u : Sent) (cls : TrapClass) (pod : Nat) : State :=
  let s := s.uncount u
  match u.own with
  | .op q _ =>
    (match s.tile.op? u.core q with
     | none => s
     | some o =>
       if o.fault.isSome then s else
       let ecode := if cls = .linkFail then 3 else 5
       let t := (s.spoilPlace o).faultOp o cls u.access pod u.elem ecode
       if u.write then (t.mapOp o fun p => { p with broken := true }).breakWrite u (o.trap s.tile.task.id cls u.access pod u.elem ecode) else t)
  | .rel =>
    let t := if cls = .linkFail ∧ u.pkt.type = 4 then s.restoreCounts u else s
    if cls = .ordBroken ∧ u.pkt.type = 4 then t.flagBroken u (u.trap cls pod) else t.breakWrite u (u.trap cls pod)
  | .counts => (if cls = .linkFail then s.restoreCounts u else s).tryComplete
  | .acq =>
    (match s.core.hold with
     | some (.packet n _ _) =>
       if n ≠ u.pkt.id then s else
       let t := s.setCore { s.core with hold := none }
       t.takeTrap (some u.core) { u.trap cls pod with precise := true, async := false }
     | _ => s)
  | .req _ _ => s
  | .xfer _ _ _ _ => s

/-- A negative acknowledgement (R121, R194, R204, R341, R428, R440). -/
def State.refusedPacket (s : State) (u : Sent) (cls : TrapClass) : State :=
  let pod := s.podOf u
  match u.own with
  | .req n _ => s.mapReq n fun r => { r with raise := r.raise.or (some (u.trap cls pod)) }
  | .xfer c j x _ => s.after 0 .trestleTransferComplete (.xfer c j x (some (cls, pod)) false)
  | _ => (match s.taskTile u.tid with
    | none => s
    | some t => (s.onCore t.ptile u.core fun v => v.refusedHere u cls pod).getD s)

/-- A positive acknowledgement: a part of an operation is done, a rat has its reply, a transfer its last byte (R202, R206, R338, R347). -/
def State.appliedPacket (s : State) (u : Sent) (x : Word) : State :=
  let here (f : State → State) : State := match s.taskTile u.tid with
    | none => s
    | some t => (s.onCore t.ptile u.core f).getD s
  match u.own with
  | .op q i =>
    (match s.taskTile u.tid with
     | none => s
     | some t => s.onOpSent t.ptile u.core q fun v o => match o.kind with
       | .rat _ _ _ _ _ gd => v.ratReply o gd x
       | .stPlace _ => v.stPlaceAck o i
       | _ => v.partDone o i)
  | .xfer c j n _ =>
    if s.unacked.any (fun v => xferMine c j n v && v.write) then s else s.after 0 .trestleTransferComplete (.xfer c j n none true)
  | .rel => here State.tryComplete
  | .acq => s
  | .counts => here State.tryComplete
  | .req _ _ => s

/-- R121: an acknowledgement reaches the source; one that finds the order table full waits to be sent again (R124). -/
def execAcknowledgement (s : State) : Host.Outcome State Fault Refusal :=
  arrival 3 (fun p t => match t.sent? p with
    | none => t
    | some u =>
      if p.status.toNat = againStatus then
        ({ t with unacked := t.unacked.map fun v => if v = u then { v with again := true } else v } : State).after 3000 .refusedPacketResend
          (.packet u.pkt)
      else if p.status = 0 then (t.settled u).appliedPacket u p.operand
      else (t.settled u).refusedPacket u (statusClass p.status)) s

/-- R124: 1 µs after the refusal the packet is sent again. -/
def execRefusedPacketResend (s : State) : Host.Outcome State Fault Refusal :=
  match s.arg with
  | .packet p =>
    (match s.unacked.find? fun u => u.pkt.id == p.id && u.pkt.dst == p.dst && u.again with
     | none => .next s
     | some u => .next ((s.settled u).dispatch u))
  | _ => .next s

/-- An answer kept with its packet until its operation, request or transfer takes it up. -/
def State.keep (s : State) (u : Sent) (bs : List Byte) : State := { s with unacked := { u with data := some bs } :: s.unacked }

/-- The bytes of an answered read of an operation: kept, and taken up unless the task is stopped, as what follows them may be (R87). -/
def State.dataHere (s : State) (o : Op) : State :=
  if s.tile.halted then s else
  match o.kind with
  | .ldPlace _ => s.after 0 .engineCredit (.credit s.tile.ptile o.core o.seq o.total)
  | _ => landParts o.core o.seq o.parts.length s

/-- R202, R205: read data returns. -/
def execReadData (s : State) : Host.Outcome State Fault Refusal :=
  arrival 2 (fun p s => match s.sent? p with
    | none => s
    | some u =>
      let t := s.settled u
      match u.own with
      | .op q _ => (match t.taskTile u.tid with
        | none => t
        | some x => t.onOpSent x.ptile u.core q fun v o => (v.keep u p.data).dataHere o)
      | .acq => (match t.taskTile u.tid with
        | none => t
        | some x => (t.onCore x.ptile u.core fun v => v.acqLand u.pkt.id (BitVec.ofNat 32 (leNat p.data))).getD t)
      | .req _ _ => t.keep u p.data
      | .xfer _ _ _ _ => t.keep u p.data
      | .rel => t
      | .counts => t) s

/-! ### Cop functions of other packages (R104, R283, R340, R342, R459) -/

/-- A node of this package poisoned for another package (R309). -/
def State.poisonHere (s : State) (c va : Nat) : State :=
  let n := s.nodeRec c va
  let t := ((s.putNode { n with st := 5, ended := false, dead := true }).nodeEnded c va []).after 0 .nodeDecrement (.node c va none)
  (t.futureOf c va).1.futPoison c (t.futureOf c va).2 2

/-- A request of another package in the queue of this package's engines; fn7 as the function, or the order code of an operation or job. -/
def State.newFar (s : State) (src : BitVec 12) (n cnum fn7 : Nat) (ga gb : Word) : State :=
  let r : Req := { n := s.reqN, tid := 0, tile := 0, core := .load, cnum := cnum, fn7 := fn7, mode := 4, gd := 0, pc := 0, precise := false
                   ga := ga, gb := gb, block := [], dbar := none, sbar := none, ep := none, mark := 0, origin := some (src, n) }
  ({ s with reqs := s.reqs ++ [r], reqN := s.reqN + 1 } : State).after copDelay .copReply (.num r.n)

/-- A cop request of another package: a future operation is performed and answered; a conversion is queued at its home. -/
def State.copArrives (s : State) (src : BitVec 12) (ctx sctx : BitVec 20) (n fn7 : Nat) (ga gb : Word) (block : List Byte) : State :=
  let back (t : State) (st : Nat) (w : Word) (snap : Nat) (cls : Option (TrapClass × Nat)) : State :=
    if n = 0 then t else t.tell src (.copAnswer n st w snap cls)
  match s.bound src ctx sctx with
  | none => back s stFault 0 0 (if fn7 = 0x22 then none else some (.xlateNone, (futRef block).1 % 2 ^ 44))
  | some c =>
    if fn7 = 0x22 then s.newFar src n c.cnum fn7 ga gb
    else
      let (pod, rva) := futRef block
      match s.futApply c.cnum (pod % 2 ^ 44) fn7 gb rva none with
      | .error (cls, a) => back (s.deviceError cls c.cnum a 16 true) 0 0 0 (some (cls, a))
      | .ok (t, w, snap) => back t 0 w snap none

/-- The trap of a future operation that another package has refused; one lost with its link is a failure with ECODE 3 (R283, R431). -/
def copRefused (r : Req) (x : TrapClass × Nat) : Trap :=
  let pod := (futRef r.block).1
  let acc := if r.fn7 = 0x44 then 1 else 4
  let a := if x.2 = pod % 2 ^ 44 then pod else x.2
  if x.1 = .linkFail then { copTrap r .barError acc a 0 with ecode := 3 } else copTrap r x.1 acc a 0

/-- The answer to a cop request (R283, R284, R442). -/
def State.copAnswered (s : State) (n st : Nat) (w : Word) (snap : Nat) (cls : Option (TrapClass × Nat)) : State :=
  match s.reqs.find? fun r => r.n == n with
  | none => s
  | some r =>
    if r.mode = 3 then
      let addr := r.ga.toNat + r.gb.toNat * 2 ^ 32
      let t := s.dropReq n
      match cls with
      | none => t
      | some (k, a) => t.notify { cls := k, access := 4, addr := a, node := some addr } r.cnum
    else if r.phase = 9 then s else
    let done (t : State) (st : Nat) : State :=
      (t.mapReq n fun q => { q with phase := 9, status := st, word := if st = 0 then w else replyWord st 0, raise := cls.map (copRefused r) }).after
        0 .copReply (.num n)
    if r.fn7 = 0x44 ∧ r.gb ≠ 0 ∧ cls.isNone then
      if s.taskSaved r then s.after 64 .control (.ctl (.copAnswer n st w snap cls)) else
      match s.putScratch r r.gb.toNat (leBytes 8 snap) with
      | some t => done t st
      | none => done s stFault
    else done s st

/-- An operation in focus that has asked a home for its turn hears the answer (R342); a refusal of a stopped one is forgotten, and it asks
again. -/
def State.opGranted (s : State) (o : Op) (img : Option (BitVec 512)) : State :=
  if s.tile.halted = false then s.placeGo o img else
  let own := (o.kind.tensor.bind fun i => (s.ctx? s.tile.task.cnum).map fun x => x.recAt i).getD 0
  if (img.map (sameRec own)) = some true then s.mapOp o fun p => { p with granted := true }
  else (s.endAsk s.tile.task.cnum o.ask).mapOp o fun p => { p with ask := none }

/-- The answer of a home to what has asked for its turn: an operation of a task here, resident or saved, or a job (R342). -/
def State.tensorAnswer (s : State) (id : Nat) (img : Option (BitVec 512)) : State :=
  let asks (o : Op) : Bool := (o.ask.map (·.2)) == some id && !o.granted
  match s.tiles.find? fun t => t.resident && t.ops.any asks with
  | some t => (match t.ops.find? asks with
    | none => s
    | some o => s.onOpSent t.ptile o.core o.seq fun u p => u.opGranted p img)
  | none =>
    let s := s.eachJob fun x j => match j.asks.find? fun a => a.2.2.1 == id with
      | none => fun t => t
      | some _ => fun t =>
        if img.isNone then t.jobFails x.cnum j .xlateNone (2 ^ 32 - 1) 0
        else t.mapJob x.cnum j.n fun k => { k with asks := k.asks.map fun b => if b.2.2.1 = id then (b.1, b.2.1, b.2.2.1, true) else b }
    let fits (x : Ctx) (o : Op) : Bool := ((o.kind.tensor.map x.recAt).bind fun y => img.map (sameRec y)) == some true
    let heard (x : Ctx) (o : Op) : Op :=
      if (asks o) = false then o else if fits x o then { o with granted := true } else { o with ask := none }
    let s := s.ctxs.foldl (fun t x => x.saved.foldl (fun u i => (i.tile.ops.filter fun o => (asks o) && !fits x o).foldl (fun v o =>
      v.endAsk x.cnum o.ask) u) t) s
    { s with ctxs := s.ctxs.map fun x =>
        { x with saved := x.saved.map fun i => { i with tile := { i.tile with ops := i.tile.ops.map (heard x) } } } }

/-! ### Control (R51, R104, R272, R340 to R342, R384, R386, R435, R459, R460) -/

/-- A link changed. -/
def State.mapLink (s : State) (n : Nat) (f : Link → Link) : State := { s with links := s.links.map fun l => if l.n = n then f l else l }

/-- The package at the other end of a link, and the link's number there (R382). -/
def farEnd (self : BitVec 12) (n : Nat) : Option (BitVec 12 × Nat) :=
  (peerOf self n).bind fun p => ((List.range 47).find? fun k => peerOf p k == some self &&
    (if n < 31 then decide (k < 31) else decide (31 ≤ k ∧ (16 * (p.toNat % 32) + (k - 31)) % 4 = (16 * (self.toNat % 32) + (n - 31)) % 4))).map
      fun k => (p, k)

/-- The far end of a link has failed the oldest block that is not acknowledged: it is sent again, and the fourth failure fails the direction
(R386, R432). -/
def State.blockFailed (s : State) (n : Nat) : State :=
  match s.links.find? fun l => l.n == n with
  | none => s
  | some l =>
    match l.blocks with
    | [] => s
    | b :: _ =>
      if 3 ≤ l.failed then s.after 0 .linkFail (.num2 n 1) else
      let s := s.mapLink n fun k => { k with failed := k.failed + 1 }
      match b.wire with
      | .pkt p => { s with outbox := s.outbox ++ [p] }
      | .ctl d m => { s with ctlOut := s.ctlOut ++ [(d, m)] }

/-- A message about a tensor that its home or a member sends, for the context that it is bound to. -/
def State.boundDo (s : State) (src : BitVec 12) (ctx sctx : BitVec 20) (f : Ctx → State) : State :=
  match s.bound src ctx sctx with
  | none => s
  | some c => f c

/-- The bytes of a shard here are undefined: at once, and when a conversion or job under way ends (R339, R344). -/
def State.spoilt (s : State) (c prec : Nat) : State :=
  if ((s.ctx? c).map fun x => (Rec.ofBits (x.recAt prec)).conv) = some true then s.spoilShard c prec else s.freeShard c prec

/-- A member's copy of a record rewritten by its home (R340, R341). -/
def State.recordHere (s : State) (c prec : Nat) (img : BitVec 512) (bad : Bool) : State :=
  let t := s.mapCtx c fun y =>
    let x := y.recAt prec
    y.putRec prec (putField (putField (putField x 44 9 (bitsAt img 44 9)) 16 16 (bitsAt img 16 16)) 54 1 (bitsAt img 54 1))
  let t := if bad then { t.freeShard c prec with spoiled := t.spoiled.filter (· ≠ (c, prec)) } else t
  if bitsAt img 54 1 = 0 then t.settleRace c prec else t

/-- The collective of another package's participants is refused there: FAULT (R459). -/
def State.collEnds (s : State) (k : EpKey) : State :=
  (s.epOpen k).foldl (fun t r => t.endReq r.n stFault) { s with parts := s.parts.filter fun x => x.2.1 ≠ k }

/-- R384: a control packet is received. -/
def execControl (s : State) : Host.Outcome State Fault Refusal :=
  match s.arg with
  | .ctl m =>
    .next (match m with
     | .blockAck n => s.mapLink n Link.acked
     | .blockFail n => s.blockFailed n
     | .linkState p n up => ({ s with farDown := (if up then [] else [(p, n)]) ++ s.farDown.filter (· ≠ (p, n)) } : State).flushWaiting
     | .hbarArrive src ctx sctx k => s.boundDo src ctx sctx fun c =>
         let h := (src, { k with cnum := c.cnum })
         if s.hbars.contains h then s else { s with hbars := h :: s.hbars }
     | .memberLost src ctx sctx k isOpen => s.boundDo src ctx sctx fun c =>
         let k := { k with cnum := c.cnum }
         if isOpen ∨ (s.epOpen k).isEmpty = false then s.breakEp k else s
     | .collParts src ctx sctx k l =>
       (match s.bound src ctx sctx with
        | none => s.tell src (.collRefused s.self sctx ctx k)
        | some c =>
          let k := { k with cnum := c.cnum }
          if s.gone.contains k then s else
          ({ s with parts := (src, k, l) :: s.parts.filter fun x => !(x.1 == src && x.2.1 == k) } : State).after 0 .collectiveEpisode (.ep k))
     | .collRefused _ ctx _ k => if ((s.ctx? k.cnum).map (·.cref)) = some ctx then s.collEnds k else s
     | .copRequest src ctx sctx n fn7 ga gb b => s.copArrives src ctx sctx n fn7 ga gb b
     | .copAnswer n st w snap cls => s.copAnswered n st w snap cls
     | .decrement src ctx sctx node poison =>
       (match s.bound src ctx sctx with
        | none => s.tell src (.refused sctx node)
        | some c => if poison then s.poisonHere c.cnum node else s.after 0 .nodeDecrement (.node c.cnum node none))
     | .refused ctx node =>
       (match s.ctxs.find? fun c => c.cref == ctx with
        | none => s
        | some c => s.notify { cls := .nodeReject, node := some node, addr := 11 } c.cnum)
     | .record src ctx sctx prec img bad => s.boundDo src ctx sctx fun c => s.recordHere c.cnum prec img bad
     | .spoilt src ctx sctx prec => s.boundDo src ctx sctx fun c => s.spoilt c.cnum prec
     | .tensorAsk src ctx sctx id prec job =>
       (match s.bound src ctx sctx with
        | none => s.tell src (.tensorGo id none)
        | some c => s.newFar src id c.cnum (if job then 0x2F else 0x2E) 0 (BitVec.ofNat 32 prec))
     | .tensorGo id img => s.tensorAnswer id img
     | .tensorEnd src ctx sctx id => s.boundDo src ctx sctx fun c =>
         (s.reqs.filter fun r => r.origin == some (src, id) && r.cnum == c.cnum && (r.fn7 == 0x2E || r.fn7 == 0x2F)).foldl State.tensorEnds s
     | .copyAsk src ctx sctx id prec =>
       s.tell src (.copyIs s.self id ((s.bound src ctx sctx).map fun c => c.recAt prec))
     | .copyIs src id img => (s.mapReq id fun r => { r with copies := (src, img) :: r.copies }).after 0 .copReply (.num id))
  | _ => .next s

/-! ### Links (R382, R386, R432 to R434) -/

/-- Packets acknowledged negatively end to end, with a class. -/
def State.nackAll (s : State) (l : List Sent) (cls : TrapClass) : State := l.foldl (fun t u => t.nack u.pkt (BitVec.ofNat 8 (refusal cls))) s

/-- LINK.FAIL (R432). -/
def State.linkAlarm (s : State) (n cause : Nat) : State := s.notify { cls := .linkFail, addr := n + cause * 2 ^ 8 } 0

/-- The step that takes up a packet of a TYPE. -/
def packetStep (p : Packet) : Instr :=
  match p.type.toNat with
  | 0 => .write
  | 1 => .readRequest
  | 2 => .readData
  | 3 => .acknowledgement
  | 4 => .orderedFlag
  | 5 => .countOnlyFlag
  | 6 => .atomic
  | _ => .malformedPacket

/-- R386: a block that verifies is acknowledged, and its packets are taken up; a failed one is sent again, and the fourth failure of a block
fails the direction that carries it (R432). -/
def execIntegrityBlock (s : State) : Host.Outcome State Fault Refusal :=
  match s.arg with
  | .block n ok ps =>
    (match s.links.find? fun l => l.n == n with
     | none => .next s
     | some l =>
       if l.enabled = false ∨ l.failRx = true then .next s else
       let back (t : State) (m : Nat → Ctl) : State := match farEnd s.self n with
         | some (p, k) => t.tell p (m k)
         | none => t
       .next (if ok then
           ps.foldl (fun t p => t.after 0 (packetStep p) (.packet p)) (back (s.mapLink n fun k => { k with tries := 0 }) Ctl.blockAck)
         else if 3 ≤ l.tries then back (s.mapLink n fun k => { k with tries := 0, failRx := true }) Ctl.blockFail
         else back (s.mapLink n fun k => { k with tries := k.tries + 1 }) Ctl.blockFail))
  | _ => .next s

/-- A control message lost with its block: a cop request or a decrement counts as refused, and any other is sent anew, which changes nothing
where it had arrived (R432; DESIGN CHOICE, log 34). -/
def State.ctlLost (s : State) (d : BitVec 12) (m : Ctl) : State :=
  match m with
  | .copRequest _ _ _ n fn7 _ _ b =>
    if fn7 = 0x22 then s.copAnswered n stFault 0 0 none else s.copAnswered n 0 0 0 (some (.linkFail, (futRef b).1 % 2 ^ 44))
  | .decrement _ _ sctx node _ => (match s.ctxs.find? fun c => c.cref == sctx with
    | none => s
    | some c => s.notify { cls := .nodeReject, node := some node, addr := 11 } c.cnum)
  | .blockAck _ => s
  | .blockFail _ => s
  | .linkState _ _ _ => s
  | _ => s.tell d m

/-- R432: cause 1 fails the send direction, cause 2 both; what unacknowledged blocks carried is lost. -/
def execLinkFail (s : State) : Host.Outcome State Fault Refusal :=
  match s.arg with
  | .num2 n cause =>
    (match s.links.find? fun l => l.n == n with
     | none => .next s
     | some l =>
       if l.enabled = false ∨ (cause ≠ 1 ∧ cause ≠ 2) ∨ (l.failTx = true ∧ (cause = 1 ∨ l.failRx = true)) then .next s else
       let t := (s.mapLink n fun k => { k with failTx := true, failRx := if cause = 2 then true else k.failRx, blocks := [], olds := [] }).linkAlarm n
         cause
       .next (l.blocks.foldl (fun u b => match b.wire with
         | .ctl d m => u.ctlLost d m
         | .pkt p => u.nackAll (u.unacked.filter fun v => v.pkt.id == p.id && p.src == s.self && !(p.type == 2 || p.type == 3) && !v.waits &&
             !v.again && v.data.isNone) .linkFail) t))
  | _ => .next s

/-- R433: a direction whose next block would begin at counter 2^48, with no NEXT key. -/
def execLinkKeyexh (s : State) : Host.Outcome State Fault Refusal :=
  match s.arg with
  | .num n =>
    (match s.links.find? fun l => l.n == n with
     | none => .next s
     | some l =>
       if l.counter < 2 ^ 48 ∨ l.next.isSome ∨ l.keyexh = true then .next s
       else .next ((s.mapLink n fun k => { k with keyexh := true }).notify { cls := .linkKeyexh, addr := n } 0))
  | _ => .next s

/-- What waits for an answer of a lost package ends: a conversion with FAULT, a future operation with PLACE.UNMAPPED, an operation or job that
has asked it for its turn with PLACE.UNMAPPED; what the lost package had asked of this one is over (R434, R439, R440). -/
def State.endLost (s : State) (p : BitVec 12) : State :=
  let target (r : Req) : Option (BitVec 12) :=
    if r.fn7 = 0x22 then (s.ctx? r.cnum).bind fun x => (x.homePkg (r.gb.toNat % 4096)).map (·.p)
    else if r.mode = 3 then none
    else (s.podTarget r.cnum (futRef r.block).1).map fun x => x.1.p
  let waits (r : Req) : Bool := (r.fn7 == 0x22 && r.phase == 3) || (decide (0x40 ≤ r.fn7 ∧ r.fn7 ≤ 0x44) && r.phase == 1)
  let t := (s.reqs.filter fun r => waits r && target r == some p).foldl (fun t r =>
    if r.fn7 = 0x22 then t.endReq r.n stFault
    else t.copAnswered r.n 0 0 0 (some (.placeUnmapped, (futRef r.block).1 % 2 ^ 44))) s
  let t := (t.reqs.filter fun r => r.fn7 == 0x22 && r.phase == 4).foldl (fun u r => u.after 0 .copReply (.num r.n)) t
  let t := (t.reqs.filter fun r => (r.origin.map (·.1)) == some p && (r.fn7 == 0x2E || r.fn7 == 0x2F)).foldl State.tensorEnds t
  let t := t.tiles.foldl (fun u i => (i.ops.filter fun o => (o.ask.map (·.1.p)) == some p && !o.granted && o.fault.isNone).foldl (fun v o =>
    v.after 0 .engineFault (.fault i.ptile o.core o.seq .placeUnmapped 0 0 0)) u) t
  t.eachJob fun x j => if j.st = 2 ∧ j.asks.any (fun a => a.2.1.p == p && !a.2.2.2) = true then
      fun u => u.jobFails x.cnum j .placeUnmapped (2 ^ 32 - 1) 0
    else fun u => u

/-- CONV cleared in the copies of the tensors homed in a lost package (R439). -/
def Ctx.homeLost (x : Ctx) (p : BitVec 12) : Ctx :=
  { x with ptab := x.ptab.map fun y => if (x.homePkg y.1).map (·.p) = some p then (y.1, putField y.2 54 1 0) else y }

/-- Races with conversions that have ended (R344). -/
def State.settleRaces (s : State) : State :=
  s.spoiled.foldl (fun t x => if ((t.ctx? x.1).map fun c => (Rec.ofBits (c.recAt x.2)).conv) = some true then t else t.settleRace x.1 x.2) s

/-- R434: a package is declared lost. -/
def execPackageLost (s : State) : Host.Outcome State Fault Refusal :=
  match s.arg with
  | .pkg p =>
    if p = s.self ∨ s.lostPkgs.contains p = true then .next s else
    let t : State := { s with lostPkgs := p :: s.lostPkgs }
    let t := match s.links.find? fun l => peerOf s.self l.n == some p with
      | some l => t.linkAlarm l.n 3
      | none => t
    let eps := ((s.reqs.filter fun r => r.phase != 9).filterMap (·.ep)).eraseDups.filter fun k =>
      k.scope == 4 && ((s.ctx? k.cnum).map fun x => x.pmap.any fun e => e.p == p).getD false
    let t := eps.foldl State.breakEp t
    let t := ({ t with ctxs := t.ctxs.map fun x => x.homeLost p } : State).settleRaces
    let t := t.nackAll (t.unacked.filter fun u => u.pkt.dst == p && u.data.isNone) .placeUnmapped
    .next (({ t with outWait := t.outWait.filter fun w => match w with
      | .pkt q => q.dst ≠ p
      | .ctl d _ => d ≠ p } : State).endLost p)
  | _ => .next s

end Sys2Proof.Machine
end

