-- ==== Sys2Proof/Machine/HandleOps.lean ====
section
/-! DEFINITION. Handle instructions (R182, R183, R86, R89). -/

namespace Sys2Proof.Machine

/-- R183: checks of R163 for 32 bytes, TAG.CHECK for FMT 11 to 15; a locked handle waits. -/
def execHld (h : HReg) (a : GReg) (s : State) : Host.Outcome State Fault Refusal :=
  common s [a] [] (do
    let k ← scalarAt s a (s.g a) 32 1
    let x := BitVec.ofNat 256 (s.readNat k 32)
    check (Handle.fmt x ≤ 10) { cls := .tagCheck }
    awaitUnlocked s h
    .ok (s.putH h x).retire)

/-- R183: LOCK as it reads. -/
def execHst (h : HReg) (a : GReg) (s : State) : Host.Outcome State Fault Refusal :=
  common s [a] [] (do
    regError s [.h h]
    let k ← scalarAt s a (s.g a) 32 2
    .ok (s.storeNat k 32 (s.h h).toNat).retire)

/-- R182, R183: TAG.CHECK for FMT 11 to 15; a locked handle waits. -/
def execHset (h : HReg) (b : GReg) (f : BitVec 5) (s : State) : Host.Outcome State Fault Refusal :=
  common s [b] [] (do
    regError s [.h h]
    check (f ≠ 3 ∨ (s.g b).toNat % 16 ≤ 10) { cls := .tagCheck }
    awaitUnlocked s h
    let (lo, n) := hField f.toNat
    .ok (s.putH h (putField (s.h h) lo n (s.g b).toNat)).retire)

/-- R182, R183. -/
def execHget (d : GReg) (h : HReg) (f : BitVec 5) (s : State) : Host.Outcome State Fault Refusal :=
  let (lo, n) := hField f.toNat
  common s [] [d] (do
    regError s [.h h]
    .ok (s.putG d (BitVec.ofNat 32 ((s.h h).toNat / 2 ^ lo % 2 ^ n))).retire)

/-- R183: every field but LOCK. -/
def execHmov (h k : HReg) (s : State) : Host.Outcome State Fault Refusal :=
  common s [] [] (do
    regError s [.h k]
    awaitUnlocked s h
    .ok (s.putH h (s.h k)).retire)

end Sys2Proof.Machine
end

