-- ==== Sys2Proof/Machine/Power.lean ====
section
/-! DEFINITION. Power, temperature, soft errors, power-up and the boot ROM (R19 to R22, R368, R374, R388, R389, R444, R445, R448). -/

namespace Sys2Proof.Machine

/-! ### Power and temperature (R19, R21), in mW, degrees Celsius and core cycles -/

/-- One millisecond in core cycles. -/
def millisecond : Nat := 3000000

/-- The power controller with another state. -/
def State.setPower (s : State) (p : Power) : State := { s with power := p }

/-- R19: a sample of every 10 µs; the running window holds 100 of them. -/
def execPowerSample (s : State) : Host.Outcome State Fault Refusal :=
  match s.arg with
  | .num mw =>
    let w := (mw :: s.power.window).take 100
    .next (s.setPower { s.power with window := w, slow := decide (s.power.limit * w.length < w.sum) })
  | _ => .next s

/-- R19: the firmware core sets the limit, 3,000 W at most; one that the temperature has lowered stays lowered. -/
def execPowerLimitSet (s : State) : Host.Outcome State Fault Refusal :=
  match s.arg with
  | .num mw =>
    let p := s.power
    let x := min 3000000 mw
    .next (s.setPower { p with set := x, limit := if p.limit = p.set ∧ p.hot = false then x else min p.limit x })
  | _ => .next s

/-- R21: the sensors of the dies. At 115 power goes within 1 ms; from 105 on the limit falls until every die reads below 100. -/
def execJunctionSample (s : State) : Host.Outcome State Fault Refusal :=
  match s.arg with
  | .temps l =>
    let p := s.power
    let cold := l.all (· < 100)
    let hot := l.any (105 ≤ ·) || (p.hot && !cold)
    let fatal := l.any (115 ≤ ·) && !p.fatal
    let q : Power := { p with
      temps := l, hot := hot, fatal := p.fatal || fatal
      cool := if cold then some (p.cool.getD s.now) else none }
    let s := s.setPower q
    let s := if (hot || decide (q.limit < q.set)) && !s.due.any fun d => d.ev == .limitStep then
        s.after (if hot && !p.hot then 0 else millisecond) .limitStep .none
      else s
    .next (if fatal then s.after millisecond .powerLoss .none else s)
  | _ => .next s

/-- R21: the limit falls by 10 % while a die is hot, and rises by 10 % of the set limit once all have read below 100 for 1 ms. -/
def execLimitStep (s : State) : Host.Outcome State Fault Refusal :=
  let p := s.power
  let calm := match p.cool with
    | some c => decide (c + millisecond ≤ s.now)
    | none => false
  let x := if p.hot then p.limit * 9 / 10 else if calm then min p.set (p.limit + p.set / 10) else p.limit
  let t := s.setPower { p with limit := x }
  .next (if p.hot ∨ x < p.set then t.after millisecond .limitStep .none else t)

/-! ### Soft errors (R444) -/

/-- The register that a soft error strikes: kind 0 g, 1 h, 2 v, 3 p; g0 and p0 are constants. -/
def struck (kind r : Nat) : Option Reg :=
  match kind with
  | 0 => if r % 32 = 0 then none else some (.g (BitVec.ofNat 5 r))
  | 1 => some (.h (BitVec.ofNat 4 r))
  | 2 => some (.v (r % 56))
  | 3 => if r % 8 = 0 then none else some (.p (BitVec.ofNat 3 r))
  | _ => none

/-- The eight slots of a token queue from slot i on with an uncorrectable error: a filled one raises MEM.ERROR where it is read, and the
owner that it names is no operation. -/
def Queue.strike (q : Queue) (i n : Nat) : Queue :=
  { q with slots := q.slots.mapIdx fun j x =>
      if i ≤ j ∧ j < i + 8 then (match x with
        | .filled _ _ => .poisoned (.mma n) { cls := .memError }
        | .pending o => .pending o
        | .poisoned o t => .poisoned o t)
      else x }

/-- A soft error in a token queue of a tile (R444). -/
def Tile.strike (t : Tile) (c : CoreId) (r : Nat) : Tile :=
  let o := nbr c (r % 2 == 1)
  { t with q := t.q.set c o ((t.q.get c o).strike (r / 2) t.nextId), nextId := t.nextId + 1 }

/-- R444: a word or burst of memory, the translation of a page, a register or a word of a token queue is poisoned. -/
def execSoftError (s : State) : Host.Outcome State Fault Refusal :=
  match s.arg with
  | .num2 c p => .next (if s.badPages.contains (c, p) then s else { s with badPages := (c, p) :: s.badPages })
  | .num k =>
    let u := k - k % errSize k
    .next (if s.poison.contains u then s else { s with poison := u :: s.poison })
  | .badReg pt c kind r =>
    if kind = 4 then .next (s.mapTile pt (·.strike c r)) else
    (match struck kind r with
     | none => .next s
     | some x => .next (s.mapTile pt fun t => t.setCore c { t.core c with bad := x :: (t.core c).bad.filter (· ≠ x) }))
  | _ => .next s

/-! ### Power-down and power-up (R22, R388) -/

/-- Steps that come from outside the package: they are to come whatever becomes of its state. -/
def fromOutside : Instr → Bool
  | .write | .readRequest | .readData | .acknowledgement | .orderedFlag | .countOnlyFlag | .atomic | .control | .malformedPacket
  | .integrityBlock | .linkFail | .packageLost | .softError | .powerSample | .junctionSample | .powerUp | .bootgo | .hostWrite | .hostRead
  | .registerWrite | .functionEnable | .heldLineInvalidate => true
  | _ => false

/-- The package with all its state lost: what it has sent and what is still to reach it stands, the fuses do, and so do the memories of
the host (keys from 2^60 on). -/
def State.blank (s : State) : State :=
  { State.reset with
    now := s.now, freeN := s.freeN, pktN := s.pktN, due := s.due.filter fun d => fromOutside d.ev
    mem := s.mem.filter fun c => decide (2 ^ 60 ≤ c.1)
    stuck := s.stuck, outbox := s.outbox, ctlOut := s.ctlOut, msix := s.msix, hostIn := s.hostIn
    boot := { Boot.up with life := s.boot.life, minSvn := s.boot.minSvn, keyHash := s.boot.keyHash, secret := s.boot.secret
                           fuseBad := s.boot.fuseBad } }

/-- The package without power. -/
def State.off (s : State) : State := { s.blank with power := { Power.up with on := false, dies := false } }

/-- Steps of the base die's host port, which go on while the compute dies have no power (R390). -/
def hostStep : Instr → Bool
  | .powerUp | .powerLoss | .bootgo | .hostWrite | .hostRead | .registerWrite | .functionEnable | .heldLineInvalidate
  | .qdesc | .load | .unload | .aperture | .settick | .transit | .mailboxResume | .rkey | .linktab | .linkkey | .lifecycle | .apsize
  | .reservedOpcode => true
  | _ => false

/-- Whether a step finds nothing to act on: power is off, or it is off in the compute dies, and the step is not one that power still
reaches. -/
def State.dark (s : State) (ev : Instr) : Bool := (!s.power.on && decide (ev ≠ .powerUp)) || (!s.power.dies && !hostStep ev)

/-- R390: every memory and key slot is wiped, and the compute dies have no power; the host port and the firmware core stay (log 63). -/
def State.diesOff (s : State) : State :=
  { s.blank with power := { s.power with dies := false }, fns := s.fns, boot := { s.boot with keyed := false } }

/-- R22. -/
def execPowerLoss (s : State) : Host.Outcome State Fault Refusal := .next s.off

/-- R388: the boot ROM runs and waits with READY = 0 and the boot window open. -/
def execPowerUp (s : State) : Host.Outcome State Fault Refusal :=
  .next (if s.power.on ∧ s.power.dies then s else s.blank)

/-! ### The boot ROM (R388, R448) -/

/-- The size of the boot window. -/
def windowBytes : Nat := 2 ^ 24

/-- The memory key of the boot window's first byte: die scratch of CD0 (log 30). -/
def windowKey : Nat := dieKey 0

/-- A number in the image, little-endian. -/
def State.imageNat (s : State) (o n : Nat) : Nat := leNat (Mem.readRange s.mem (windowKey + o) n)

/-- Bytes of the image. -/
def State.imageBytes (s : State) (o n : Nat) : List Byte := Mem.readRange s.mem (windowKey + o) n

/-- Whether the decode table and the firmware lie within bytes 1,857 to SIZE − 1,281, apart, and the firmware is no longer than
256 KiB. -/
def layoutOk (size dtOff dtLen fwOff fwLen : Nat) : Bool :=
  decide (1857 ≤ dtOff ∧ dtOff + dtLen ≤ size - 1280 ∧ 1857 ≤ fwOff ∧ fwOff + fwLen ≤ size - 1280 ∧ fwLen ≤ 262144 ∧
    (dtOff + dtLen ≤ fwOff ∨ fwOff + fwLen ≤ dtOff))

/-- The code of the first check that fails, in the order of R448; 0 where none does. -/
def State.bootCheck (s : State) : Nat :=
  let size := s.imageNat 4 4
  let dtOff := s.imageNat 16 4
  let dtLen := s.imageNat 20 4
  let key := s.imageBytes 64 1793
  if s.imageNat 0 4 ≠ 1 ∨ windowBytes < size ∨ size < 3137 then 1
  else if layoutOk size dtOff dtLen (s.imageNat 24 4) (s.imageNat 28 4) = false then 2
  else if BitVec.ofNat 256 (leNat (Config.shake256 key 32)) ≠ s.boot.keyHash then 3
  else if s.imageNat 8 4 < s.boot.minSvn then 4
  else if (s.imageNat 12 1).testBit s.boot.life = false then 5
  else if Config.falconVerify key (Config.shake256 (s.imageBytes 0 (size - 1280)) 64) (s.imageBytes (size - 1280) 1280) = false then 6
  else if Config.decodeTableOk (s.imageBytes dtOff dtLen) = false then 7
  else if s.stuck.isEmpty = false then 8
  else if s.boot.fuseBad = true then 9
  else 0

/-- A boot attempt that fails: a retryable failure is LOCKOUT where it is the sixteenth. The read-back of the wipe, and the fuses' own check,
come after the wipe (R388, R448). -/
def State.bootFails (s : State) (code : Nat) : State :=
  let n := s.boot.tries + 1
  let s : State := if 8 ≤ code then { s.blank with due := s.due, power := s.power, fns := s.fns, boot := s.boot } else s
  { s with boot := { s.boot with tries := n, err := if code ≤ 7 ∧ 16 ≤ n then 10 else code } }

/-- The OPCODE of a mailbox command. -/
def opcodeOf (c : BitVec 512) : Nat := (fld 0 16 c).toNat

/-- The step of a mailbox command (R381). -/
def mailStep (c : BitVec 512) : Instr :=
  match opcodeOf c with
  | 1 => .qdesc
  | 2 => .load
  | 3 => .unload
  | 4 => .aperture
  | 5 => .settick
  | 6 => .transit
  | 7 => .mailboxResume
  | 8 => .rkey
  | 9 => .linktab
  | 10 => .linkkey
  | 11 => .lifecycle
  | 12 => .apsize
  | _ => .reservedOpcode

/-- The firmware core takes up the commands whose doorbells have rung, in increasing function number, each once (R380). -/
def State.answerBells (s : State) : State :=
  let s : State := { s with due := s.due.filter fun d => match d.arg with
    | .mail _ _ => false
    | _ => true }
  ((List.range 97).filterMap fun n => s.fns.find? fun f => f.n == n && f.bell == 1).foldl (fun t f => t.after 0 (mailStep f.cmd) (.mail f.n f.cmd)) s

/-- A boot attempt that succeeds: every memory is wiped, the firmware runs, and slices begin. -/
def State.bootEnds (s : State) : State :=
  let (id, s) := s.freeVal 128
  let table := s.imageBytes (s.imageNat 16 4) (s.imageNat 20 4)
  let firmware := s.imageBytes (s.imageNat 24 4) (s.imageNat 28 4)
  let t : State := { s.blank with
    due := s.due, power := s.power, fns := s.fns, tickAt := s.now
    boot := { s.boot with ready := true, err := 0, vendor := s.imageBytes 64 1793, table := table, firmware := firmware
                          bootId := BitVec.ofNat 128 id, rseq := 0, keyed := decide (s.boot.life ≠ 0) } }
  (t.after (t.tickT * 3000) .sliceTick .none).answerBells

/-- R388: a write of 1 to BOOTGO; it is ignored once READY is 1, and after a failure that admits no further image. -/
def execBootgo (s : State) : Host.Outcome State Fault Refusal :=
  let s := match s.arg with
    | .image l => if s.boot.ready then s else s.writeBytes windowKey (l.take windowBytes)
    | _ => s
  if s.boot.ready = true ∨ 8 ≤ s.boot.err then .next s
  else if s.bootCheck = 0 then .next s.bootEnds
  else .next (s.bootFails s.bootCheck)

end Sys2Proof.Machine
end

