-- ==== Sys2Proof/Machine/Host.lean ====
section
/-! DEFINITION. The host: function registers, apertures, CXL.mem, the firmware mailbox and its commands (R27, R299, R314, R324, R325, R368,
R371, R373, R376 to R381, R386, R389, R390). -/

namespace Sys2Proof.Machine

/-! ### Functions (R353, R376, R377) -/

/-- The context that a function acts as: the keystone for the PF, the bound context for a VF. -/
def State.fnCtx (s : State) (fn : Nat) : Option Ctx :=
  if fn = 0 then s.ctx? 0 else s.ctxs.find? fun x => x.cnum != 0 && !x.destroyed && x.vf == fn

/-- R377: a function is enabled or disabled; APBASE is 0 whenever it is enabled. -/
def execFunctionEnable (s : State) : Host.Outcome State Fault Refusal :=
  match s.arg with
  | .fn n on =>
    if 96 < n then .next s else
    let f := s.func n
    .next (s.putFunc { f with on := on, apbase := if on then 0 else f.apbase })
  | _ => .next s

/-! ### Accesses (R376, R377, R379, R444) -/

/-- The physical address of a CXL.mem offset (R376). -/
def hdmAddr (h : Nat) : Nat := 2 ^ 39 * (h / (48 * 2 ^ 30)) + h % (48 * 2 ^ 30)

/-- The size of the CXL.mem range. -/
def hdmSize : Nat := 768 * 2 ^ 30

/-- The pages of a CXL.mem access: physical address and bytes of each, at most k. -/
def hdmPieces : Nat → Nat → Nat → List (Nat × Nat)
  | 0, _, _ => []
  | k + 1, h, n =>
    if n = 0 then [] else
    let m := min n (65536 - h % 65536)
    (hdmAddr h, m) :: hdmPieces k (h + m) (n - m)

/-- Whether a page is granted to a context other than the keystone. -/
def State.hdmGranted (s : State) (pa : Nat) : Bool := s.pageGiven 0 (pa / 65536) 1

/-- A CXL.mem write, page by page: nothing on a granted page. -/
def State.hdmWrite (s : State) : List (Nat × Nat) → List Byte → State
  | [], _ => s
  | p :: ps, bs =>
    let t := if s.hdmGranted p.1 then s else (((s.monitor 0 p.1 p.2 true).yields p.1 p.2).store p.1 (bs.take p.2)).plain p.1 p.2
    t.hdmWrite ps (bs.drop p.2)

/-- The bytes of a host read completed; CXL poison comes without bytes. -/
def State.toHost (s : State) (fn : Nat) (bs : List Byte) (poison : Bool) : State := { s with hostIn := s.hostIn ++ [(fn, bs, poison)] }

/-- Whether n bytes at an offset lie in a function's aperture. -/
def Func.reaches (f : Func) (o n : Nat) : Bool := f.on && decide (o + n ≤ 2 ^ f.aplog)

/-- R379: a host write; one that faults in an aperture is dropped. -/
def execHostWrite (s : State) : Host.Outcome State Fault Refusal :=
  match s.arg with
  | .hostW fn ap a bs =>
    let f := s.func fn
    if ap then
      (match s.fnCtx fn with
       | none => .next s
       | some x =>
         if f.reaches a bs.length = false then .next s else
         match s.gwrite x.cnum (f.apbase + a) bs with
         | .error _ => .next s
         | .ok t => .next (t.plainRuns x.cnum [(f.apbase + a, bs.length)]))
    else if 2 ^ 60 ≤ a then .next (s.writeBytes a bs)
    else if f.on = false ∨ hdmSize < a + bs.length then .next s
    else .next (s.hdmWrite (hdmPieces (bs.length / 65536 + 2) a bs.length) bs)
  | _ => .next s

/-- R379: a host read; one that faults in an aperture reads 0xFF, and poison or a granted page reads as CXL poison. -/
def execHostRead (s : State) : Host.Outcome State Fault Refusal :=
  match s.arg with
  | .hostR fn ap a n =>
    let f := s.func fn
    if ap then
      if f.reaches a n = false then .next s else
      (match s.fnCtx fn with
       | none => .next (s.toHost fn (List.replicate n 0xFF) false)
       | some x => match s.gread x.cnum (f.apbase + a) n with
         | .error (.memError, a) => .next ((s.struckAt .memError x.cnum a n true false).toHost fn [] true)
         | .error _ => .next (s.toHost fn (List.replicate n 0xFF) false)
         | .ok (t, bs) => .next (t.toHost fn bs false))
    else if f.on = false ∨ hdmSize < a + n then .next s
    else
      let l := hdmPieces (n / 65536 + 2) a n
      let t := (l.filter fun p => !s.hdmGranted p.1).foldl (fun u p => (u.monitor 0 p.1 p.2 false).yields p.1 p.2) s
      if l.any fun p => s.hdmGranted p.1 || s.poisoned p.1 p.2 then .next (t.toHost fn [] true)
      else .next (t.toHost fn (l.flatMap fun p => Mem.readRange s.mem p.1 p.2) false)
  | _ => .next s

/-! ### Function registers (R377, R380) -/

/-- STATUS: lifecycle state, READY, boot error code. -/
def State.statusReg (s : State) : Word :=
  BitVec.ofNat 32 (s.boot.life % 4 + (if s.boot.ready then 4 else 0) + s.boot.err % 256 * 256)

/-- Whether an offset lies in the boot window, which is open while READY is 0. -/
def State.inWindow (s : State) (fn off : Nat) : Bool := fn == 0 && !s.boot.ready && decide (windowBytes ≤ off ∧ off < 2 * windowBytes)

/-- What a word of BAR0 reads as. -/
def State.readReg (s : State) (fn off : Nat) : Word :=
  if off < 0x40 then (fld (8 * off) 32 (s.func fn).cmd)
  else if off < 0x80 then fld (8 * (off - 0x40)) 32 (s.func fn).rsp
  else if off = 0x80 then (s.func fn).bell
  else if off = 0x100 then s.statusReg
  else if s.inWindow fn off then BitVec.ofNat 32 (s.readNat (windowKey + (off - windowBytes)) 4)
  else 0

/-- A word of CMD written. While DOORBELL is 1 the outcome of the command is undefined: it ends with a free response (log 31). -/
def State.writeCmd (s : State) (fn off : Nat) (x : Word) : State :=
  let f : Func := { s.func fn with cmd := putField (s.func fn).cmd (8 * off) 32 x.toNat }
  if f.bell = 1#32 then
    let (r, t) := s.freeVal 512
    (t.putFunc { f with bell := 0, rsp := BitVec.ofNat 512 r }).answerBells.interrupt fn 0
  else s.putFunc f

/-- R377, R380: a word written to BAR0. -/
def execRegisterWrite (s : State) : Host.Outcome State Fault Refusal :=
  match s.arg with
  | .reg fn off x =>
    let f := s.func fn
    if f.on = false ∨ off % 4 ≠ 0 then .next s
    else if off < 0x40 then .next (s.writeCmd fn off x)
    else if off = 0x80 then
      let t := s.putFunc { f with bell := x }
      .next (if s.boot.ready then t.answerBells else t)
    else if off = 0x104 ∧ fn = 0 then .next (if x = 1 ∧ s.boot.ready = false then s.after 0 .bootgo (.image []) else s)
    else if s.inWindow fn off then .next (s.writeNat (windowKey + (off - windowBytes)) 4 x.toNat)
    else .next s
  | _ => .next s

/-! ### The mailbox (R380, R381) -/

/-- n bytes of a command from byte o on. -/
def cmdNat (c : BitVec 512) (o n : Nat) : Nat := (fld (8 * o) (8 * n) c).toNat

/-- Every bit of a command beyond OPCODE, CREF and the arguments in use is zero. -/
def cmdClear (used : List (Nat × Nat)) (c : BitVec 512) : Bool :=
  used.foldl (fun x f => putField x (8 * f.1) (8 * f.2) 0) (putField c 0 36 0) == 0

/-- The response of a command: RSP, DOORBELL 0 and MSI-X vector 0; a function that is not bound raises no interrupt (R353). -/
def State.respond (s : State) (fn st : Nat) (data : List Byte) : State :=
  let t := s.putFunc { s.func fn with rsp := BitVec.ofNat 512 (st + 256 * leNat data), bell := 0 }
  if (s.fnCtx fn).isSome then t.interrupt fn 0 else t

/-- The context that a command's CREF names for a caller: itself or a descendant. -/
def State.mailTarget (s : State) (caller : Ctx) (cref : Nat) : Option Ctx :=
  if cref = 0 then some caller else
  (s.byCref cref).filter fun x => x.cnum != 0 && !x.destroyed && (s.lineage x.cnum).any fun y => y.cnum == caller.cnum

/-- What a command does: function, caller, named context, command; STATUS and RSP bytes from 1 on. -/
abbrev MailFn := Nat → Ctx → Ctx → BitVec 512 → State → State × Nat × List Byte

/-- The command with an OPCODE, PF-only or not, with its arguments' bytes. -/
def mailbox (op : Nat) (pf : Bool) (used : List (Nat × Nat)) (f : MailFn) (s : State) : Host.Outcome State Fault Refusal :=
  match s.arg with
  | .mail fn c =>
    if s.boot.ready = false ∨ opcodeOf c ≠ op then .next s else
    (match s.fnCtx fn with
     | none => .next (s.respond fn stDenied [])
     | some x =>
       if pf = true ∧ fn ≠ 0 then .next (s.respond fn stDenied [])
       else if cmdClear used c = false then .next (s.respond fn stInvalid [])
       else match s.mailTarget x (fld 16 20 c).toNat with
         | none => .next (s.respond fn stDenied [])
         | some y => .next ((f fn x y c s).1.respond fn (f fn x y c s).2.1 (f fn x y c s).2.2))
  | _ => .next s

/-- R381: a reserved OPCODE. -/
def execReservedOpcode (s : State) : Host.Outcome State Fault Refusal :=
  match s.arg with
  | .mail fn c =>
    if s.boot.ready = false ∨ mailStep c ≠ .reservedOpcode then .next s
    else .next (s.respond fn (if (s.fnCtx fn).isSome then stInvalid else stDenied) [])
  | _ => .next s

/-! ### Queues, time and apertures (R299, R304, R314, R377) -/

/-- R299: a write that enables the queue makes it due at once with its counts from zero; in BLANK no queue is enabled (R389). -/
def mailQdesc : MailFn := fun _ _ x c s =>
  let n := cmdNat c 8 2
  let d : BitVec 256 := fld 128 256 c
  if 4096 ≤ n then (s, stInvalid, []) else
  if x.cnum ≠ 0 ∧ x.queues.contains n = false then (s, stDenied, []) else
  if s.boot.life = 0 ∧ fld 0 1 d = 1#1 then (s, stState, []) else
  match s.queues.find? fun q => q.n == n && q.enabled with
  | some q => (s.putQueue { q with desc := d }, 0, [])
  | none =>
    let q : QSt := { n := n, desc := d, rd := 0, wr := 0, ival := 64, due := s.now / 3 }
    ((if q.enabled then (s.putQueue q).after 0 .queuePoll (.num n) else s.putQueue q), 0, [])

/-- R299. -/
def execQdesc (s : State) : Host.Outcome State Fault Refusal := mailbox 1 false [(8, 2), (16, 32)] mailQdesc s

/-- R381: APBASE of the caller's own function. -/
def mailAperture : MailFn := fun fn _ _ c s =>
  let f := s.func fn
  if cmdNat c 8 8 % 2 ^ f.aplog ≠ 0 then (s, stInvalid, []) else (s.putFunc { f with apbase := cmdNat c 8 8 }, 0, [])

/-- R381. -/
def execAperture (s : State) : Host.Outcome State Fault Refusal := mailbox 4 false [(8, 8)] mailAperture s

/-- R314: the slice length from the next tick on. -/
def mailSettick : MailFn := fun _ _ _ c s =>
  let t := cmdNat c 8 4
  if t < 50 ∨ 100000 < t then (s, stInvalid, []) else ({ s with tickNew := t }, 0, [])

/-- R314. -/
def execSettick (s : State) : Host.Outcome State Fault Refusal := mailbox 5 true [(8, 4)] mailSettick s

/-- R377: the BAR2 size of a VF that is disabled. -/
def mailApsize : MailFn := fun _ _ _ c s =>
  let n := cmdNat c 8 1
  let k := cmdNat c 9 1
  if n = 0 ∨ 96 < n ∨ k < 16 ∨ 38 < k then (s, stInvalid, []) else
  if (s.func n).on then (s, stState, []) else (s.putFunc { s.func n with aplog := k }, 0, [])

/-- R381. -/
def execApsize (s : State) : Host.Outcome State Fault Refusal := mailbox 12 true [(8, 1), (9, 1)] mailApsize s

/-! ### Code objects (R369, R371, R373) -/

/-- A header that is well formed, its reserved fields zero (R369). -/
def headerOk (h : List Byte) : Bool :=
  let np := blockNat h 2 2
  let size := blockNat h 8 4
  let nd := blockNat h 12 2
  decide (blockNat h 0 2 = 1 ∧ 1 ≤ np ∧ np ≤ 64 ∧ size % 4 = 0 ∧ 65536 * (np - 1) < size ∧ size ≤ 65536 * np ∧ nd ≤ 32) &&
  (List.range nd).all (fun i => decide (65536 * (1 + np) ≤ blockNat h (64 + 8 * i) 4)) &&
  blockZero h 7 8 && blockZero h 14 64 && blockZero h (64 + 8 * nd) 320 && blockZero h 320 2048

/-- The next generation of an identifier: 1 to 255, then 1 again. -/
def nextGen (l : List (Nat × Nat)) (ident : Nat) : Nat := ((l.find? fun e => e.1 == ident).map (·.2)).getD 0 % 255 + 1

/-- R371: LOAD. -/
def mailLoad : MailFn := fun _ _ x c s =>
  let va := cmdNat c 8 8
  if va % 65536 ≠ 0 then (s, stInvalid, []) else
  match s.gread x.cnum va 4096 with
  | .error e => (s.deviceError e.1 x.cnum e.2 4096, stFault, [])
  | .ok (t, h) =>
    if headerOk h = false then (t, stInvalid, []) else
    let i := blockNat h 4 3
    if t.codes.any fun o => o.cnum == x.cnum && o.ident == i && o.unload.isNone && !o.quarantined then (t, stBusy, []) else
    if 4096 ≤ t.codes.length then (t, stNospace, []) else
    let g := nextGen x.cgens i
    let o : Code := { cnum := x.cnum, ident := i, gen := g, slot := t.codeN, size := blockNat h 8 4, checked := [], image := va
                      hash := (List.range 64).map fun k => (h.drop (2048 + 32 * k)).take 32 }
    (({ t with codes := t.codes ++ [o], codeN := t.codeN + 1 } : State).mapCtx x.cnum fun y => { y with
       cgens := (i, g) :: y.cgens.filter fun e => e.1 ≠ i }, 0, leBytes 2 g ++ List.replicate 5 0 ++ (Config.shake256 h 32).take 32)

/-- R371. -/
def execLoad (s : State) : Host.Outcome State Fault Refusal := mailbox 2 false [(8, 8)] mailLoad s

/-- R371, R373: UNLOAD. -/
def mailUnload : MailFn := fun _ _ x c s =>
  let i := cmdNat c 8 4
  let g := cmdNat c 12 1
  if 2 ^ 24 ≤ i then (s, stInvalid, []) else
  if (s.codes.any fun o => o.cnum == x.cnum && o.ident == i && o.gen == g && o.unload.isNone) = false then (s, stNotfound, []) else
  let u := s.epoch + 1
  ((({ s with epoch := u } : State).mapCode x.cnum i g fun o => { o with unload := some u }).after 0 .codeGenerationFree (.page x.cnum i g 0),
    0, [])

/-- R371. -/
def execUnload (s : State) : Host.Outcome State Fault Refusal := mailbox 3 false [(8, 4), (12, 1)] mailUnload s

/-! ### Migration (R324, R325) -/

/-- R324: a paused context is in transit from now on. -/
def mailTransit : MailFn := fun _ _ x _ s =>
  if (s.lineage x.cnum).any (·.paused) then ((s.mapCtx x.cnum fun y => { y with transit := true }).fixTimes, 0, []) else (s, stState, [])

/-- R381. -/
def execTransit (s : State) : Host.Outcome State Fault Refusal := mailbox 6 false [] mailTransit s

/-- A directory entry that is VALID and whose slot is one of the area's (R320). -/
def entryOk (slots e : Nat) : Bool := decide (e / 2 ^ 80 = 1 ∧ e / 2 ^ 72 % 256 < slots)

/-- The 16-byte slots of a scratch image that show LIVE with [15:7] clear: what another package has saved says no more of which slots are
barriers (R92; log 32). -/
def liveSlots (b : List Byte) : List Nat :=
  ((List.range (b.length / 16)).map (16 * ·)).filter fun o => let w := leNat ((b.drop o).take 2); w.testBit 2 && w / 2 ^ 7 == 0

/-- The image of a directory entry, taken from a save area that another package has written; requests are numbered from n on. -/
def State.migrated (s : State) (x : Ctx) (gen n e : Nat) : Access (State × Image) := do
  let slot := e / 2 ^ 72 % 256
  let (s, nb) ← s.gread x.cnum (e % 2 ^ 64) 64
  let img : NodeImg := BitVec.ofNat 512 (leNat nb)
  let node : NodeRec := { NodeRec.fresh x.cnum (e % 2 ^ 64) with st := 2, img := img }
  let node := (s.node? x.cnum node.addr).getD node
  let (s, b) ← s.gread x.parent (x.slotAt slot) (163840 + nodeLimit node.img)
  let task := s.newTask node (e / 2 ^ 64 % 256) (numAt b 4 34 % 256)
  let t := tileOf task 0 (fun l => x.pmap.find? fun m => m.l == l) (b.take 32768) s.now
  .ok (({ s with taskN := s.taskN + 1 } : State).putNode { node with st := 2, left := node.left + 1 },
    { slot := slot, gen := gen, valid := true, tile := t.mapCores (·.renumber n), bars := liveSlots (b.drop 163840), errs := [], disp := none, writes := [] })

/-- The images of directory entries. -/
def State.migratedAll (s : State) (x : Ctx) (gen n : Nat) : List Nat → Access (State × List Image)
  | [] => .ok (s, [])
  | e :: es => do
    let (s, i) ← s.migrated x gen n e
    let (s, l) ← s.migratedAll x gen n es
    .ok (s, i :: l)

/-- A context's save area taken in: its images, its hold queue and the requests of held replies. An area under the context's own GEN is this
package's own work. -/
def State.takeArea (s : State) (x : Ctx) (gen : Nat) (es : List Nat) : Access (State × List Image × List (Nat × HeldEv)) :=
  if gen = x.gen then
    .ok (s, (x.saved.filter fun i => es.any fun e => e / 2 ^ 72 % 256 == i.slot).map fun i => { i with valid := true }, x.held)
  else do
    let (s, q) ← s.gread x.parent (x.save + 8192) 57344
    let (s, l) ← s.migratedAll x gen s.reqN es
    let ev := heldEntries q
    .ok ({ s with reqs := s.reqs ++ ev.filterMap (heldReq s.reqN x.cnum l), reqN := s.reqN + 2 ^ 32 }, l, ev.filterMap (heldOf s.reqN))

/-- R325: the context comes back at the next tick, its guest time that of the header. A reserved bit of the header or of an entry that is not
zero loses the context (R405). -/
def mailResume : MailFn := fun _ _ x _ s =>
  let got : Access (State × List Byte × List Nat) := do
    let (s, h) ← s.gread x.parent x.save 4096
    let (s, d) ← s.gread x.parent (x.save + 4096) 4096
    .ok (s, h, (List.range 256).map fun i => blockNat d (16 * i) 16)
  match got with
  | .error e => (s.deviceError e.1 x.parent e.2 4096, stFault, [])
  | .ok (t, h, d) =>
    let es := d.filter fun e => e / 2 ^ 80 % 2 == 1
    let gen := numAt h 8 0
    if leNat (h.drop 26) ≠ 0 then (t.lostCtx x.cnum x.save, stInvalid, [])
    else if es.any (fun e => 2 ^ 81 ≤ e) then (t.lostCtx x.cnum (x.save + 4096), stInvalid, [])
    else if gen = 0 ∨ es.length ≠ numAt h 2 12 ∨ es.any (fun e => !entryOk x.slots e) = true ∨
        (es.map fun e => e / 2 ^ 72 % 256).eraseDups.length ≠ es.length then (t, stInvalid, [])
    else match t.takeArea x gen es with
      | .error e => (t.deviceError e.1 x.cnum e.2, stFault, [])
      | .ok (u, l, q) =>
        ((u.mapCtx x.cnum fun y => { y with
          saved := l, held := q, gen := gen, gstop := some (BitVec.ofNat 64 (numAt h 8 1))
          born := BitVec.ofNat 64 (s.now / 3) - BitVec.ofNat 64 (numAt h 8 1) - BitVec.ofNat 64 (numAt h 8 2)
          transit := false, paused := true, pauseReq := false, resumeReq := true, out := true }), 0, [])

/-- R325. -/
def execMailboxResume (s : State) : Host.Outcome State Fault Refusal := mailbox 7 false [] mailResume s

/-! ### Receipt keys (R368, R389) -/

/-- R381: the public key at offset 0, its certificate at offset 2,048. -/
def mailRkey : MailFn := fun _ _ x c s =>
  let a := cmdNat c 8 8
  if s.boot.keyed = false then (s, stState, []) else
  if a % 4096 ≠ 0 then (s, stInvalid, []) else
  match s.gwriteParts x.cnum a [(0, fit 1793 s.receiptKey), (2048, fit 2048 (Config.certificate s.boot.secret s.boot.life))] with
  | .error e => (s.deviceError e.1 x.cnum e.2, stFault, [])
  | .ok t => (t, 0, [])

/-- R381. -/
def execRkey (s : State) : Host.Outcome State Fault Refusal := mailbox 8 false [(8, 8)] mailRkey s

/-! ### Links (R382, R386, R432 to R434) -/

/-- A link that has never been enabled. -/
def Link.fresh (n : Nat) : Link where
  n := n
  enabled := false
  failTx := false
  failRx := false
  keyexh := false
  counter := 0
  cur := none
  next := none
  olds := []
  tries := 0
  failed := 0
  blocks := []
  low := false

/-- A link as the fabric manager's table has it: a failed send direction that is enabled again starts without a key, at counter 0. -/
def Link.table (l : Link) (on : Bool) : Link :=
  if on = false then { l with enabled := false }
  else if l.failTx then { Link.fresh l.n with enabled := true }
  else { l with enabled := true, failRx := false, tries := 0, failed := 0 }

/-- R381: own position, and the links enabled; a lost package that a link reaches again is lost no more (R434). -/
def mailLinktab : MailFn := fun _ _ _ c s =>
  let me := cmdNat c 8 2
  let mask := cmdNat c 12 6
  if 4096 ≤ me ∨ 2 ^ 47 ≤ mask then (s, stInvalid, []) else
  let self : BitVec 12 := BitVec.ofNat 12 me
  let links := (List.range 47).map fun n => ((s.links.find? fun l => l.n == n).getD (.fresh n)).table (mask.testBit n)
  (({ s with self := self, links := links
             lostPkgs := s.lostPkgs.filter fun p => !links.any fun l => l.enabled && peerOf self l.n == some p } : State).flushWaiting, 0, [])

/-- R381. -/
def execLinktab (s : State) : Host.Outcome State Fault Refusal := mailbox 9 true [(8, 2), (12, 6)] mailLinktab s

/-- R386: the NEXT key of a send direction, which leaves KEYEXH (R433). -/
def mailLinkkey : MailFn := fun _ _ _ c s =>
  let n := cmdNat c 8 1
  if 47 ≤ n then (s, stInvalid, []) else
  let l := (s.links.find? fun l => l.n == n).getD (.fresh n)
  let k : BitVec 256 × BitVec 48 := (fld 128 256 c, fld 80 48 c)
  (({ s with links := { l with next := some k, keyexh := false } :: s.links.filter fun m => m.n ≠ n } : State).flushWaiting, 0, [])

/-- R381. -/
def execLinkkey (s : State) : Host.Outcome State Fault Refusal := mailbox 10 true [(8, 1), (10, 6), (16, 32)] mailLinkkey s

/-! ### Lifecycle (R389, R390) -/

/-- A transition that moves forward. -/
def forward (a b : Nat) : Bool := (a == 0 && b == 1) || (a == 1 && b == 2) || (b == 3 && decide (a < 3))

/-- DEVID (R366). -/
def State.devid (s : State) : List Byte := Config.shake256 s.receiptKey 32

/-- Whether a transition is authorised: the vendor's signature in host memory over DEVID and the target state (log 33). -/
def State.authorised (s : State) (target a : Nat) : Bool :=
  (s.boot.life == 1 && target == 2) ||
  Config.falconVerify s.boot.vendor (s.devid ++ leBytes 1 target) (Mem.readRange s.mem (hostKey a) 1280)

/-- R390: the target state is burned, with a new secret for PROVISIONED and RMA; every memory is wiped, and power goes from the compute
dies. -/
def mailLifecycle : MailFn := fun _ _ _ c s =>
  let b := cmdNat c 8 1
  if forward s.boot.life b = false then (s, stState, []) else
  if s.authorised b (cmdNat c 16 8) = false then (s, stDenied, []) else
  let (x, t) := s.freeVal 256
  let t := t.diesOff
  ({ t with boot := { t.boot with life := b, secret := if b = 2 then s.boot.secret else x } }, 0, [])

/-- R390. -/
def execLifecycle (s : State) : Host.Outcome State Fault Refusal := mailbox 11 true [(8, 1), (16, 8)] mailLifecycle s

/-! ### The firmware core's maps (R14, R27, R28) -/

/-- R27: an entry of the keystone's tile map or package map, written whether or not a task of the keystone is resident (DESIGN CHOICE, log 85). A
tile map that would break R28, the entries granted on counted, is not written; a tile that enters the map is scrubbed (R23). -/
def execKeystoneMapWrite (s : State) : Host.Outcome State Fault Refusal :=
  match s.arg with
  | .map pkg i v =>
    if s.boot.ready = false then .next s else
    if pkg then
      if 4096 ≤ i then .next s else
      .next (s.mapCtx 0 fun x => { x with pmap := x.pmap.filter (fun e => e.l ≠ i) ++
        (if v.getLsbD 12 then [{ l := i, p := fld 0 12 v, rcref := 0 }] else []) })
    else
      match s.ctx? 0 with
      | none => .next s
      | some k =>
        let new : List TileMap := if v.getLsbD 8 then [{ l := i, p := fld 0 8 v }] else []
        let m := k.tmap.filter (fun e => e.l ≠ i) ++ new
        if 256 ≤ i ∨ mapRule ({ k with tmap := m } : Ctx).tileMap = false then .next s
        else
          let t := s.mapCtx 0 fun x => { x with tmap := m }
          let fresh := new.filter fun e => !k.tmap.any fun f => f.p == e.p
          .next ((fresh.foldl (fun u e => u.scrubTile e.p (some 0)) t).after 0 .distributorPlace .none)
  | _ => .next s

end Sys2Proof.Machine
end

