-- ==== Sys2Proof/Machine/ScalarFp.lean ====
section
/-! DEFINITION. Scalar floating point (R241 to R243). -/

namespace Sys2Proof.Machine

/-- A scalar FP instruction: its result, and the LFSR state after it, in gd after lat cycles. -/
def scalarFp (k : Tok) (d : GReg) (rs : List GReg) (lat : Nat) (f : Tile → Nat × Word) (s : State) : Host.Outcome State Fault Refusal :=
  priv s k s.token (.ok ()) rs [] [d] fun t =>
    let (x, l) := f t.tile
    .ok ((t.setTile { t.tile with lfsrc := l }).result lat (.g d (BitVec.ofNat 32 x)))

/-- The FP32 value of a register. -/
def State.f (s : State) (r : GReg) : FpNum := fpVal .fp32 (s.g r).toNat

/-- A result rounded by RMODE with its draw. -/
def rounded (x : Bool → FpNum) (t : Tile) : Nat × Word := roundDraw .fp32 t.rmode t.lfsrc (x (t.rmode = .rd))

/-- R241. -/
def execFadd (k : Tok) (d a b : GReg) (s : State) : Host.Outcome State Fault Refusal :=
  scalarFp k d [a, b] 4 (rounded fun rd => FpNum.add rd (s.f a) (s.f b)) s
/-- R241. -/
def execFsub (k : Tok) (d a b : GReg) (s : State) : Host.Outcome State Fault Refusal :=
  scalarFp k d [a, b] 4 (rounded fun rd => FpNum.add rd (s.f a) (s.f b).negate) s
/-- R241. -/
def execFmul (k : Tok) (d a b : GReg) (s : State) : Host.Outcome State Fault Refusal :=
  scalarFp k d [a, b] 4 (rounded fun _ => (s.f a).mul (s.f b)) s
/-- R241: one rounding. -/
def execFfma (k : Tok) (d a b : GReg) (s : State) : Host.Outcome State Fault Refusal :=
  scalarFp k d [a, b, d] 4 (rounded fun rd => FpNum.add rd ((s.f a).mul (s.f b)) (s.f d)) s
/-- R241, R221. -/
def execFmin (k : Tok) (d a b : GReg) (s : State) : Host.Outcome State Fault Refusal :=
  scalarFp k d [a, b] 4 (fun t => (pickFp false .fp32 (s.g a).toNat (s.g b).toNat, t.lfsrc)) s
/-- R241, R221. -/
def execFmax (k : Tok) (d a b : GReg) (s : State) : Host.Outcome State Fault Refusal :=
  scalarFp k d [a, b] 4 (fun t => (pickFp true .fp32 (s.g a).toNat (s.g b).toNat, t.lfsrc)) s
/-- R242. -/
def execFcmp (k : Tok) (d a b : GReg) (s : State) : Host.Outcome State Fault Refusal :=
  scalarFp k d [a, b] 4 (fun t =>
    (match (s.f a).cmp (s.f b) with
      | none => 8
      | some c => if c < 0 then 1 else if c = 0 then 2 else 4, t.lfsrc)) s
/-- R241: correctly rounded. -/
def execFdiv (k : Tok) (d a b : GReg) (s : State) : Host.Outcome State Fault Refusal :=
  scalarFp k d [a, b] 12 (rounded fun _ => (s.f a).div (s.f b)) s
/-- R241. -/
def execFsqrt (k : Tok) (d a : GReg) (s : State) : Host.Outcome State Fault Refusal :=
  scalarFp k d [a] 12 (rounded fun _ => (s.f a).sqrt) s

/-- Rounding to UINT32, then saturation; NaN gives 0 (R243). -/
def uintRound (md : Rm) (r : Nat) : FpNum → Nat
  | .nan => 0
  | .inf neg => if neg then 0 else 2 ^ 32 - 1
  | .fin neg m e => if neg then 0 else min (roundUnits md neg r m e 0) (2 ^ 32 - 1)

/-- A conversion that takes one draw under SR. -/
def withDraw (f : Rm → Nat → Nat) (t : Tile) : Nat × Word :=
  let (r, l) := drawIf (t.rmode = .sr) t.lfsrc
  (f t.rmode r, l)

/-- R243. -/
def execFcvtWS (k : Tok) (d a : GReg) (s : State) : Host.Outcome State Fault Refusal :=
  scalarFp k d [a] 4 (withDraw fun m r => intRound .int32 m r (s.f a)) s
/-- R243. -/
def execFcvtWuS (k : Tok) (d a : GReg) (s : State) : Host.Outcome State Fault Refusal :=
  scalarFp k d [a] 4 (withDraw fun m r => uintRound m r (s.f a)) s
/-- R243. -/
def execFcvtSW (k : Tok) (d a : GReg) (s : State) : Host.Outcome State Fault Refusal :=
  scalarFp k d [a] 4 (withDraw fun m r => fpRound .fp32 m r (elemVal .int32 (s.g a).toNat)) s
/-- R243. -/
def execFcvtSWu (k : Tok) (d a : GReg) (s : State) : Host.Outcome State Fault Refusal :=
  scalarFp k d [a] 4 (withDraw fun m r => fpRound .fp32 m r (.fin false (s.g a).toNat 0)) s
/-- R243. -/
def execFcvtBfS (k : Tok) (d a : GReg) (s : State) : Host.Outcome State Fault Refusal :=
  scalarFp k d [a] 4 (withDraw fun m r => fpRound .bf16 m r (s.f a)) s
/-- R243: exact. -/
def execFcvtSBf (k : Tok) (d a : GReg) (s : State) : Host.Outcome State Fault Refusal :=
  scalarFp k d [a] 4 (fun t => (fpRound .fp32 .rne 0 (fpVal .bf16 ((s.g a).toNat % 2 ^ 16)), t.lfsrc)) s
/-- R243. -/
def execFcvtHS (k : Tok) (d a : GReg) (s : State) : Host.Outcome State Fault Refusal :=
  scalarFp k d [a] 4 (withDraw fun m r => fpRound .fp16 m r (s.f a)) s
/-- R243: exact. -/
def execFcvtSH (k : Tok) (d a : GReg) (s : State) : Host.Outcome State Fault Refusal :=
  scalarFp k d [a] 4 (fun t => (fpRound .fp32 .rne 0 (fpVal .fp16 ((s.g a).toNat % 2 ^ 16)), t.lfsrc)) s

end Sys2Proof.Machine
end

