-- ==== Sys2Proof/Machine/Tokens.lean ====
section
/-! DEFINITION. The token instructions (R49, R50). -/

namespace Sys2Proof.Machine

/-- qput of a token to a neighbour (R50): the slot fills at retirement, which is this cycle, or once the port pushes that the put releases
have landed (R46, R211). -/
def qput (s : State) (b : Bool) (tk : Byte) : Act State :=
  match (s.tile.q.get s.sel (nbr s.sel b)).put s.now (.filled tk s.landBy) with
  | .ok q => .ok (s.setTile { s.tile with q := s.tile.q.set s.sel (nbr s.sel b) q }).retire
  | .error h => .error h

/-- qtake of a class from a neighbour (R50). -/
def qtake (s : State) (d : GReg) (b : Bool) (cl : BitVec 3) : Act State :=
  match (s.tile.q.get (nbr s.sel b) s.sel).take s.now cl with
  | .ok (tk, q) => .ok ((s.setTile { s.tile with q := s.tile.q.set (nbr s.sel b) s.sel q }).putG d (tk.zeroExtend 32)).retire
  | .error h => .error h

/-- R50. -/
def execQput (n : BitVec 1) (c : BitVec 3) (t : BitVec 5) (s : State) : Host.Outcome State Fault Refusal :=
  common s [] [] (qput s (n == 1) (c ++ t))
/-- R50: ga[31:8] ignored. -/
def execQputReg (a : GReg) (n : BitVec 1) (s : State) : Host.Outcome State Fault Refusal :=
  common s [a] [] (qput s (n == 1) (fld 0 8 (s.g a)))
/-- R50. -/
def execQtake (d : GReg) (n : BitVec 1) (c : BitVec 3) (s : State) : Host.Outcome State Fault Refusal :=
  common s [] [d] (qtake s d (n == 1) c)
/-- R50: ga[31:3] ignored. -/
def execQtakeReg (d a : GReg) (n : BitVec 1) (s : State) : Host.Outcome State Fault Refusal :=
  common s [a] [d] (qtake s d (n == 1) (fld 0 3 (s.g a)))

/-- What qpeek returns (R50, R44): a poisoned head raises its fault, a head that does not show as filled gives all ones. -/
def peek (q : Queue) (now : Nat) : Act Word :=
  match q.slots with
  | .poisoned _ t :: _ => .error (.trap t)
  | .filled tk a :: _ => .ok (if a < now then tk.zeroExtend 32 else 0xFFFFFFFF)
  | _ => .ok 0xFFFFFFFF

/-- R50. -/
def execQpeek (d : GReg) (n : BitVec 1) (s : State) : Host.Outcome State Fault Refusal :=
  common s [] [d] (do
    let x ← peek (s.tile.q.get (nbr s.sel (n == 1)) s.sel) s.now
    .ok (s.putG d x).retire)

/-- R50: the filled run of the incoming queue in [4:0], the free slots of the outgoing queue in [12:8]. -/
def execQcount (d : GReg) (n : BitVec 1) (s : State) : Host.Outcome State Fault Refusal :=
  let i := s.tile.q.get (nbr s.sel (n == 1)) s.sel
  let o := s.tile.q.get s.sel (nbr s.sel (n == 1))
  common s [] [d] (.ok (s.putG d (BitVec.ofNat 32 (i.run s.now + o.free s.now * 256))).retire)

end Sys2Proof.Machine
end

