-- ==== Sys2Proof/Machine/Traps.lean ====
section
/-! DEFINITION. The capture of a stop, trap records, reflection, the QMC's runs, its state window and the dispositions (R55, R361 to R363,
R404, R410 to R422). -/

namespace Sys2Proof.Machine

/-! ### The record (R416) -/

/-- The number of a core in a record; 3 for none. -/
def coreField : Option CoreId → Nat
  | some c => coreNum c
  | none => 3

/-- A stream's park reason (R55). -/
def CoreSt.parkReason (c : CoreSt) : Nat :=
  if c.fin then 1 else match c.wait with
    | .take => 2
    | .reserve => 3
    | .hbarTile => 4
    | .bar _ tile => if tile then 5 else 0
    | .run => 0
    | .barGone => 0
    | .other => 0

/-- The instruction word at an address of a task's code, 0 where there is none. -/
def State.instrAt (s : State) (t : Task) (a : Nat) : Nat :=
  match s.codeOf t with
  | none => 0
  | some c => if a % 4 ≠ 0 ∨ a < codeBase ∨ codeBase + c.size ≤ a then 0 else s.readNat (codeKey c.slot + (a - codeBase)) 4

/-- The faulted operations of a task that have not been reported, but for the one a trap names. -/
def Tile.otherFaults (t : Tile) (x : Trap) : Nat :=
  (t.ops.filter fun o => o.fault.isSome && !o.reported && (match x.op with
    | some r => !(r.tid == t.task.id && r.core == o.core && r.seq == o.seq)
    | none => true)).length

/-- What a record says of the trap alone. -/
def Trap.fields (t : Trap) (core : Option CoreId) : Nat :=
  let r := t.op.getD { tid := 0, core := .load, seq := 0, opc := 0, felem := 0, done := 0 }
  classNum t.cls + t.opclass % 256 * 2 ^ 8 + coreField core * 2 ^ 16 + t.precise.toNat * 2 ^ 18 + t.async.toNat * 2 ^ 19 +
  t.access % 8 * 2 ^ 20 + t.addr % 2 ^ 64 * 2 ^ 128 + r.seq.toNat * 2 ^ 224 + r.opc % 16 * 2 ^ 240 + t.engine % 8 * 2 ^ 244 +
  r.felem % 2 ^ 32 * 2 ^ 256 + r.done % 2 ^ 32 * 2 ^ 288 + t.fn7 % 128 * 2 ^ 392 + t.status % 256 * 2 ^ 400 + t.ecode % 8 * 2 ^ 408

/-- What it says of the stopped task. -/
def State.stopFields (s : State) (t : Tile) (x : Trap) (core : Option CoreId) : Nat :=
  let pc := match core with
    | none => 0
    | some c => (x.pc.getD (t.core c).pc).toNat
  let park (c : CoreSt) : Nat := if x.cls = .deadlock then c.parkReason else 0
  pc * 2 ^ 64 + (if core.isSome then s.instrAt t.task pc * 2 ^ 96 else 0) + t.task.ltile % 256 * 2 ^ 192 + t.task.node % 2 ^ 64 * 2 ^ 320 +
  t.task.inst % 256 * 2 ^ 384 + park t.lc * 2 ^ 416 + park t.cc * 2 ^ 420 + park t.sc * 2 ^ 424 + min (t.otherFaults x) 255 * 2 ^ 428 +
  t.lc.pc.toNat * 2 ^ 512 + t.cc.pc.toNat * 2 ^ 544 + t.sc.pc.toNat * 2 ^ 576 + leNat t.q.images * 2 ^ 768

/-- What every record says of the faulting context. -/
def State.ctxFields (s : State) (c : Nat) : Nat :=
  (s.crefOf c).toNat * 2 ^ 32 + (((s.ctx? c).map (·.depth)).getD 0) % 16 * 2 ^ 52 + (s.guestTime c).toNat * 2 ^ 448

/-- A record but for the fields that depend on its handler. -/
def State.record (s : State) (m : Mail) : BitVec 2048 :=
  let stop := match m.tid.bind s.taskTile with
    | some t => s.stopFields t m.trap m.core
    | none => m.trap.node.getD 0 % 2 ^ 64 * 2 ^ 320
  BitVec.ofNat 2048 (m.trap.fields m.core + s.ctxFields m.fctx + stop)

/-! ### The capture (R411 to R413) -/

/-- The stopped task in focus is captured: results landed; its record goes to the mailboxes. -/
def State.capture (s : State) : State :=
  match s.tile.stop with
  | none => s
  | some x =>
    let s := s.landEverything
    let t := { s.tile with stop := some { x with captured := true } }
    (s.setTile t).post x.trap t.task.cnum (some (t.task.id, t.ptile)) x.core

/-- R413: once every instruction that has issued is past. -/
def execStopCapture (s : State) : Host.Outcome State Fault Refusal :=
  match s.arg with
  | .tile pt =>
    (match s.findTile pt with
     | none => .next s
     | some t => match t.stop with
       | none => .next s
       | some x =>
         if x.captured ∨ t.resident = false then .next s
         else if [t.lc, t.cc, t.sc].any (fun c => match c.hold with
             | some (.packet _ _ _) => true
             | _ => false) then .next (s.after 8 .stopCapture (.tile pt))
         else .next (s.onFocus pt State.capture))
  | _ => .next s

/-- R54, R55: the tumbler has reached its bound. -/
def execDeadlock (s : State) : Host.Outcome State Fault Refusal :=
  match s.arg with
  | .tile pt => .next (s.onFocus pt fun t =>
      if t.tile.resident = true ∧ t.tile.tumbler = 4096 then t.takeTrap none { cls := .deadlock, precise := false } else t)
  | _ => .next s

/-! ### Reflection (R361 to R363, R404) -/

/-- The handler table of a context's control page: CLAIM, HENTRY, HSTACK; none where the page cannot be read, or the context claims nothing by it
(R363, R417). -/
def State.handlerTable (s : State) (c : Nat) : State × Option (Nat × Word × Word) :=
  match s.gread c 0 64 with
  | .error e => (s.deviceError e.1 c 0 64, none)
  | .ok (t, bs) =>
    let x := leNat bs
    let entry := x / 2 ^ 64 % 2 ^ 32
    let stack := x / 2 ^ 96 % 2 ^ 32
    if x / 2 ^ 128 ≠ 0 ∨ 0xE0000000 ≤ entry ∨ 0xE0000000 ≤ stack then (t, none)
    else (t, some (x % 2 ^ 64, BitVec.ofNat 32 entry, BitVec.ofNat 32 stack))

/-- The first context that claims a class, from one up the tree, with its HENTRY and HSTACK; the keystone claims every class. -/
def State.claimant (s : State) (cls : TrapClass) : Nat → Nat → State × Nat × Option (Word × Word)
  | 0, _ => (s, 0, none)
  | n + 1, c =>
    if c = 0 then ((s.handlerTable 0).1, 0, (s.handlerTable 0).2.map (·.2)) else
    match s.ctx? c with
    | none => ((s.handlerTable 0).1, 0, (s.handlerTable 0).2.map (·.2))
    | some x =>
      if x.destroyed then s.claimant cls n x.parent else
      match s.handlerTable c with
      | (t, some (claim, e)) => if claim.testBit (classNum cls) then (t, c, some e) else t.claimant cls n x.parent
      | (t, none) => t.claimant cls n x.parent

/-- The parent of a context. -/
def State.parentOf (s : State) (c : Nat) : Nat := ((s.ctx? c).map (·.parent)).getD 0

/-- Where the search for a record's handler starts. -/
def State.searchFrom (s : State) (m : Mail) : Nat :=
  match m.passed with
  | some c => s.parentOf c
  | none => if m.trap.cls = .queueError ∨ m.trap.cls = .nodeReject then m.fctx else s.parentOf m.fctx

/-- The quad whose QMC handles a record: the faulting tile's, or the lowest in which the faulting context holds a tile. -/
def State.quadFor (s : State) (m : Mail) : Option Nat :=
  match m.tile with
  | some pt => some (pquad pt.toNat)
  | none => (((s.ctx? m.fctx).map fun x => x.tileMap.map fun e => pquad e.p.toNat).getD []).foldl (fun a q => match a with
    | none => some q
    | some b => some (min b q)) none

/-- The slots of a quad's mailbox that a record may take, in order of preference (R415); DEADLOCK, which no core reports, takes the load core's
pair (R452, R453). -/
def slotsFor (m : Mail) : List Nat :=
  (match m.tid, m.tile with
   | some _, some pt => let k := 3 * (pt.toNat % 4) + coreNum (m.core.getD .load); [2 * k, 2 * k + 1]
   | _, _ => []) ++ (List.range 8).map (24 + ·)

/-- The fields of a record that its handler decides (R362, R416). -/
def State.handled (s : State) (r : BitVec 2048) (m : Mail) (h : Nat) : BitVec 2048 :=
  match m.tile with
  | none => putField r 216 1 (if h = 0 then 1 else 0)
  | some pt =>
    let l := ((s.ctx? h).bind fun x => (x.tileMap.find? fun e => e.p == pt).map (·.l)).getD 0
    let r := putField r 200 8 l
    if h = 0 then putField (putField r 208 8 pt.toNat) 216 1 1 else putField (putField r 208 8 0) 216 1 0

/-- A record changed. -/
def State.mapMail (s : State) (n : Nat) (f : Mail → Mail) : State := { s with mail := s.mail.map fun m => if m.n = n then f m else m }

/-- One record delivered, where a slot is free: it goes behind the records that have arrived. -/
def State.deliver (s : State) (n : Nat) : State :=
  match s.mail.find? fun m => m.n == n with
  | none => s
  | some m =>
    let r := if m.record = 0 then s.record m else m.record
    let s := s.mapMail n fun x => { x with record := r }
    if ((s.ctx? m.fctx).map (·.destroyed)).getD true then { s with mail := s.mail.filter fun x => x.n ≠ n } else
    let (s, f) : State × Nat × Option (Word × Word) := match m.found with
      | some f => (s, f)
      | none => s.claimant m.trap.cls treeDepth (s.searchFrom m)
    let s := s.mapMail n fun x => { x with found := some f }
    match s.quadFor m with
    | none =>
      let t := s.mapMail n fun x => { x with hctx := some 0, record := s.handled r m 0 }
      (match s.fnOf m.fctx with
       | none => t
       | some f => t.interrupt f 1)
    | some q =>
      match (slotsFor m).find? fun k => s.mail.all fun x => !(x.quad == some q && x.slot == some k) with
      | none => s
      | some k =>
        let m : Mail := { m with quad := some q, slot := some k, hctx := some f.1, found := some f, record := s.handled r m f.1 }
        { s with mail := s.mail.filter (fun x => x.n ≠ n) ++ [m] }

/-- Runs that may start: a quad with a record pending and none in progress. -/
def State.signal (s : State) : State :=
  (((s.mail.filterMap (·.quad)).eraseDups).filter fun q => !s.mail.any fun m => m.quad == some q && m.running.isSome).foldl
    (fun t q => t.after 0 .handlerRun (.quad (BitVec.ofNat 6 q))) s

/-- R361, R404, R413: records that wait are delivered in the order raised. -/
def execTrapDelivery (s : State) : Host.Outcome State Fault Refusal :=
  .next ((((s.mail.filter fun m => m.hctx.isNone).map (·.n)).foldl State.deliver s).signal)

/-! ### Dispositions (R414, R419 to R421) -/

/-- The record of the run under way in a quad. -/
def State.running (s : State) (q : Nat) : Option Mail := s.mail.find? fun m => m.quad == some q && m.running.isSome

/-- A record is disposed: its slot is free. -/
def State.freeMail (s : State) (n : Nat) : State :=
  ({ s with mail := s.mail.filter fun m => m.n ≠ n } : State).after 0 .trapDelivery .none

/-- The image of a saved task. -/
def State.mapImage (s : State) (c tid : Nat) (f : Image → Image) : State :=
  s.mapCtx c fun x => { x with saved := x.saved.map fun i => if i.tile.task.id = tid then f i else i }

/-- A disposition takes effect, after what was written through the state window where the task goes on: at once on a stopped task, at its restore
on a saved one; a notification is only freed. -/
def State.disposed (s : State) (m : Mail) (code : Nat) (retry : Bool) : State :=
  let t := s.freeMail m.n
  match m.tid with
  | none => t
  | some tid =>
    match t.taskTile tid with
    | some x => (if code ≤ 1 then t.takeWrites x.ptile m.writes else t).dispose x.ptile code retry
    | none => t.mapImage m.fctx tid fun i => { i with disp := some (BitVec.ofNat 32 (code + if retry then 8 else 0)), writes := m.writes }

/-- PASS: the next claiming ancestor, or KILL where the keystone passes. -/
def State.pass (s : State) (m : Mail) : State :=
  if m.tid.isNone then s.freeMail m.n else
  match m.hctx with
  | none => s
  | some h =>
    if h = 0 then s.disposed m 2 false else
    (s.mapMail m.n fun x => { x with quad := none, slot := none, hctx := none, found := none, passed := some h, running := none }).after 0 .trapDelivery
      .none

/-- The handler of a run writes DISP (R419). -/
def State.endRun (s : State) (m : Mail) (code : Nat) (retry : Bool) : State := if code = 3 then s.pass m else s.disposed m code retry

/-- The handler of the run under way in a quad writes DISP. -/
def dispose (code : Nat) (retry : Bool) (s : State) : Host.Outcome State Fault Refusal :=
  match s.arg with
  | .quad q => (match s.running q.toNat with
    | none => .next s
    | some m => .next (s.endRun m code retry))
  | _ => .next s

/-- R419, CODE 0. -/
def execResume (s : State) : Host.Outcome State Fault Refusal := dispose 0 false s
/-- R420, CODE 0 with RETRY. -/
def execResumeRetry (s : State) : Host.Outcome State Fault Refusal := dispose 0 true s
/-- R419, CODE 1. -/
def execSkip (s : State) : Host.Outcome State Fault Refusal := dispose 1 false s
/-- R419, CODE 2. -/
def execKill (s : State) : Host.Outcome State Fault Refusal := dispose 2 false s
/-- R419, R421, CODE 3 to 7, or a fault of the handler's run. -/
def execPass (s : State) : Host.Outcome State Fault Refusal := dispose 3 false s

/-- A QMC's fetch of n bytes in a context's space: translated and counted (R362, R364). -/
def State.qmcFetch (s : State) (c va n : Nat) : Access State :=
  match s.xlate c va 3 with
  | .error e => .error (e, va)
  | .ok k => if s.poisoned k n then .error (.memError, va) else .ok ((s.monitor c va n false).yields k n)

/-- An access of a run has faulted: its trap is handled as PASS (R421). -/
def State.runFault (s : State) (m : Mail) (e : TrapClass × Nat) (n : Nat) : State := (s.deviceError e.1 (m.hctx.getD 0) e.2 n).pass m

/-- R417: the run for the record that arrived earliest starts at the handling context's HENTRY with sp = HSTACK and a0 = the slot; an entry that
cannot be fetched ends it as PASS (R421). -/
def execHandlerRun (s : State) : Host.Outcome State Fault Refusal :=
  match s.arg with
  | .quad q =>
    if (s.running q.toNat).isSome then .next s else
    (match s.mail.find? fun m => m.quad == some q.toNat with
     | none => .next s
     | some m =>
       match m.found.bind (·.2) with
       | none => .next (s.pass m)
       | some (entry, stack) =>
         match s.qmcFetch (m.hctx.getD 0) entry.toNat 2 with
         | .error e => .next (s.runFault m e 2)
         | .ok t => .next (t.mapMail m.n fun x => { x with running := some (entry, stack, BitVec.ofNat 32 (m.slot.getD 0)) }))
  | _ => .next s

/-! ### The QMC-local window (R417, R418) -/

/-- The stopped task of a record: its tile as it stands, or its saved image. -/
def State.stopped (s : State) (m : Mail) : Option (Tile ⊕ Image) :=
  m.tid.bind fun tid => match s.taskTile tid with
    | some t => some (.inl t)
    | none => ((((s.ctx? m.fctx).map (·.saved)).getD []).find? fun i => i.tile.task.id == tid).map .inr

/-- The n bytes of a stopped task's image from offset o on; of a saved task those in the save area, or free values where they cannot be read
(log 51); of a notification zeros (R418). -/
def State.windowBytes (s : State) (m : Mail) (o n : Nat) : State × List Byte :=
  let seen (l : List Byte) : List Byte := l.mapIdx fun i b => written m.writes (o + i) b
  match s.stopped m with
  | none => (s, List.replicate n 0)
  | some (.inl t) => (s, seen ((List.range n).map fun i => partsByte (s.imageParts t.frozen) (o + i)))
  | some (.inr i) => match s.ctx? m.fctx with
    | none => (s, List.replicate n 0)
    | some x => match s.gread x.parent (x.slotAt i.slot + o) n with
      | .ok (t, l) => (t, seen l)
      | .error _ => ((s.freeVal (8 * n)).2, seen (leBytes n (s.freeVal (8 * n)).1))

/-- The slots of a quad's mailbox with a record, as a mask (R417). -/
def State.pendingSlots (s : State) (q : Nat) : Nat :=
  (List.range 32).foldl (fun x k => if s.mail.any fun m => m.quad == some q && m.slot == some k then x + 2 ^ k else x) 0

/-- The n bytes that the handler of a run reads at an address of the window. -/
def State.windowLoad (s : State) (q : Nat) (m : Mail) (a n : Nat) : State × List Byte :=
  let k := m.slot.getD 0
  let w := 0xE0000000 + 0x400000 * k
  let r := 0xF0000000 + 512 * k
  let word (b x : Nat) : List Byte := (List.range n).map fun i => if a + i < b + 4 then BitVec.ofNat 8 (x / 2 ^ (8 * (a + i - b))) else 0
  if w ≤ a ∧ a + n ≤ w + 0x228000 then s.windowBytes m (a - w) n
  else if r ≤ a ∧ a + n ≤ r + 256 then (s, (List.range n).map fun i => fld (8 * (a - r + i)) 8 m.record)
  else if 0xF0004000 ≤ a ∧ a < 0xF0004004 then (s, word 0xF0004000 (s.pendingSlots q))
  else if 0xF0004004 ≤ a ∧ a < 0xF0004008 then (s, word 0xF0004004 k)
  else (s, List.replicate n 0)

/-- What the handler of a run writes at an address of the window: DISP, or bytes of the image that may be written. -/
def State.windowStore (s : State) (m : Mail) (a : Nat) (bs : List Byte) : State :=
  let k := m.slot.getD 0
  let w := 0xE0000000 + 0x400000 * k
  let x := leNat bs
  if a = 0xF0000100 + 512 * k then s.endRun m (if 3 ≤ x % 8 then 3 else x % 8) (x % 16 == 8) else
  let t : Option Tile := (s.stopped m).map fun y => match y with
    | .inl t => t
    | .inr i => i.tile
  match t with
  | none => s
  | some t =>
    if a < w ∨ w + 0x228000 < a + bs.length then s else
    let new := (bs.mapIdx fun i b => (a - w + i, b)).filter fun p => t.writable p.1
    s.mapMail m.n fun y => { y with writes := y.writes ++ new }

/-- R362, R417, R418: an access of the run under way in a quad. Below 0xE000_0000 it is translated in the handling context's space; a fetch from
the window finds no code there and is a fault of the run (log 51). -/
def execStateWindow (s : State) : Host.Outcome State Fault Refusal :=
  match s.arg with
  | .qmc q k a n data =>
    (match s.running q.toNat with
     | none => .next s
     | some m =>
       let h := m.hctx.getD 0
       let loaded (t : State) (bs : List Byte) : State := { t with qmcIn := t.qmcIn ++ [(q.toNat, bs)] }
       if a.toNat < 0xE0000000 then
         (match k with
          | .load => (match s.gread h a.toNat n with
            | .error e => .next (s.runFault m e n)
            | .ok (t, bs) => .next (loaded t bs))
          | .store => (match s.gwrite h a.toNat data with
            | .error e => .next (s.runFault m e n)
            | .ok t => .next (t.plainRuns h [(a.toNat, data.length)]))
          | .fetch => (match s.qmcFetch h a.toNat n with
            | .error e => .next (s.runFault m e n)
            | .ok t => .next t))
       else
         (match k with
          | .load => .next (loaded (s.windowLoad q.toNat m a.toNat n).1 (s.windowLoad q.toNat m a.toNat n).2)
          | .store => .next (s.windowStore m a.toNat data)
          | .fetch => .next (s.pass m)))
  | _ => .next s

end Sys2Proof.Machine
end

