-- ==== Sys2Proof/Machine/VecMem.lean ====
section
/-! DEFINITION. Vector memory (R235 to R238), predicates (R239, R240), the allotment (R216) and port set-up (R218). -/

namespace Sys2Proof.Machine

/-- The effective address of vld and vst. -/
def vecAddr (s : State) (g : GReg) (o : BitVec 2) : Word := s.g g + BitVec.ofNat 32 (o.toNat * 256)

/-- The latency of a load from a key: 6 in tile scratch, else interlocked (R214). -/
def loadLat (n k : Nat) : Nat := if isTileKey k then n else 0

/-- The address of an access where it is accessible, for the latency that its level gives. -/
def levelLat (n : Nat) (x : Act Nat) : Nat :=
  match x with
  | .ok k => loadLat n k
  | .error _ => n

/-- R235: 256 bytes, and the tag given. -/
def execVld (k : Tok) (a : VCode) (g : GReg) (o : BitVec 2) (t : BitVec 4) (s : State) : Host.Outcome State Fault Refusal :=
  let at_ := vecAddr s g o
  priv s k (s.lateToken a (levelLat 6 (accessAt s g at_ 4 256 1))) (vregRange s [a]) [g] [] [] fun u => do
    let (p, w) ← pushKey u a
    let key ← accessAt u g at_ 4 256 1
    .ok (w.putV a p (loadLat 6 key) (w.readVec key) ((Fmt.ofCode t.toNat).getD .empty))

/-- R235: the tag alone; 11 to 15 raises TAG.CHECK. -/
def execVldTg (k : Tok) (a : VCode) (g : GReg) (o : BitVec 2) (s : State) : Host.Outcome State Fault Refusal :=
  priv s k s.token (vregRange s [a]) [g] [] [] fun u => do
    let key ← accessAt u g (vecAddr s g o) 4 4 1
    match Fmt.ofCode (u.readNat key 4 % 16) with
    | none => .error (.trap { cls := .tagCheck })
    | some t => .ok (u.result (loadLat 6 key) (.tag a.toNat t))

/-- R236: the 256 bytes of a vector, whatever its tag. -/
def execVst (k : Tok) (a : VCode) (g : GReg) (o : BitVec 2) (s : State) : Host.Outcome State Fault Refusal :=
  priv s k s.token (vregRange s [a]) [g] (vregs [a]) [] fun u => do
    let (x, w) ← popOne u a
    let key ← accessAt w g (vecAddr s g o) 4 256 2
    popsClean u [a]
    .ok (w.storeNat key 256 x.toNat)

/-- R236: the tag as a word. -/
def execVstTg (k : Tok) (a : VCode) (g : GReg) (o : BitVec 2) (s : State) : Host.Outcome State Fault Refusal :=
  priv s k s.token (vregRange s [a]) [g] (vregs [a]) [] fun u => do
    let (_, w) ← popOne u a
    let key ← accessAt w g (vecAddr s g o) 4 4 2
    popsClean u [a]
    .ok (w.storeNat key 4 (tag0 (s.tile.srcTags [a])).code)

/-- The keys of accesses of n bytes at a list of addresses, each with every check of its own before the next (R238). -/
def keysAt (s : State) (g : GReg) (n acc : Nat) : List Word → Act (List Nat)
  | [] => .ok []
  | a :: as => do
    let k ← placeAt s g a 1 n acc
    let ks ← keysAt s g n acc as
    .ok (k :: ks)

/-- Accesses of n bytes at keys wait for port pushes in their way (R213), and meet no uncorrectable error (R444). -/
def keysClean (s : State) (n acc : Nat) : List (Nat × Word) → Act Unit
  | [] => .ok ()
  | (k, a) :: ks => do
    pushed s k n
    cleanRead s k n a.toNat acc
    keysClean s n acc ks

/-- The keys of bytes written at a list of addresses: SCRATCH.RANGE of each, then STACK.LIMIT of each (R212, R237). -/
def bytesAt (s : State) (g : GReg) (as : List Word) : Act (List Nat) := do
  let ks ← keysAt s 0 1 2 as
  let _ ← keysAt s g 1 2 as
  .ok ks

/-- Bytes stored one by one. -/
def State.storeEach (s : State) : List (Nat × Nat) → State
  | [] => s
  | (k, x) :: r => (s.storeNat k 1 x).storeEach r

/-- R237: the first n bytes, any alignment; with n = 0 no address is checked and nothing is written. A port source is checked and popped
for n = 0 as well: R219 has every port source of an instruction pop, and R237's "nothing is checked" is read of the bytes written (DESIGN
CHOICE, log 82). -/
def execVstm (k : Tok) (a : VCode) (g h : GReg) (s : State) : Host.Outcome State Fault Refusal :=
  let n := min (s.g h).toNat 256
  priv s k s.token (vregRange s [a]) [g, h] (vregs [a]) [] fun u => do
    let (x, w) ← popOne u a
    let as := (List.range n).map fun j => s.g g + BitVec.ofNat 32 j
    let ks ← bytesAt w g as
    keysClean w 1 2 (ks.zip as)
    popsClean u [a]
    .ok (w.storeEach (ks.zip (unpack .uint8 x)))

/-- The tag that a gather gives its destination: INT32 where it is EMPTY, else its own; a port takes none. -/
def gatherLand (d : VCode) (x : BitVec 2048) : Land := .data d.toNat x

/-- R238: 64 words by lane indices, every address checked before any write. -/
def execVldx (k : Tok) (a : VCode) (g : GReg) (c : VCode) (s : State) : Host.Outcome State Fault Refusal :=
  let lane (x : BitVec 2048) : List Word := (lanes x).map fun i => s.g g + BitVec.ofNat 32 (4 * i)
  let idx (u : State) (x : BitVec 2048) : Act (List Nat) := do
    check ((s.g g).toNat % 4 = 0) { cls := .misalign, access := 1, addr := (s.g g).toNat }
    keysAt u g 4 1 (lane x)
  let lat (ks : List Nat) : Nat := if ks.all isTileKey then 8 else 0
  let n := match (do let (x, u) ← popOne s c; idx u x : Act (List Nat)) with
    | .ok ks => lat ks
    | .error _ => 8
  priv s k (s.lateToken a n) (vregRange s [a, c]) [g] (vregs [c]) [] fun u => do
    check (s.tile.srcTags [c] = [.int32]) { cls := .tagCheck }
    let (x, w) ← popOne u c
    let (p, w) ← pushKey w a
    let ks ← idx w x
    keysClean w 4 1 (ks.zip (lane x))
    popsClean u [c]
    let y := pack .int32 (ks.map fun key => w.readNat key 4)
    .ok (match p with
      | some key => w.push key (lat ks) y
      | none => w.result (lat ks) (gatherLand a y))

/-! ### Predicates (R239, R240) -/

/-- A predicate instruction. -/
def predicate (k : Tok) (d : PReg) (rs : List PReg) (f : Tile → BitVec 64) (s : State) : Host.Outcome State Fault Refusal :=
  priv s k s.token (.ok ()) [] (rs.map .p) [] fun t => .ok (t.result 1 (.p d (f t.tile)))

/-- R239. -/
def execPand (k : Tok) (d a b : PReg) (s : State) : Host.Outcome State Fault Refusal :=
  predicate k d [a, b] (fun t => t.rp a &&& t.rp b) s
/-- R239. -/
def execPor (k : Tok) (d a b : PReg) (s : State) : Host.Outcome State Fault Refusal :=
  predicate k d [a, b] (fun t => t.rp a ||| t.rp b) s
/-- R239. -/
def execPnot (k : Tok) (d a : PReg) (s : State) : Host.Outcome State Fault Refusal := predicate k d [a] (fun t => ~~~(t.rp a)) s
/-- R239. -/
def execPmov (k : Tok) (d a : PReg) (s : State) : Host.Outcome State Fault Refusal := predicate k d [a] (fun t => t.rp a) s

/-- The predicates from one on to p7. -/
def predsFrom (a : PReg) : List PReg := ((List.range 8).filter fun j => decide (a.toNat ≤ j)).map fun j => BitVec.ofNat 3 j

/-- R240: pa to p7 in their own lanes, the others 0. -/
def execPpack (k : Tok) (d : VCode) (a : PReg) (s : State) : Host.Outcome State Fault Refusal :=
  vector k d [] [] ((predsFrom a).map .p) (fun _ => true) (fun _ => 2)
    (fun t _ _ =>
      (pack .int32 ((List.range 64).map fun l =>
        let r : PReg := BitVec.ofNat 3 (l / 2)
        if l < 16 ∧ a.toNat ≤ l / 2 then (t.rp r).toNat / 2 ^ (l % 2 * 32) % 2 ^ 32 else 0), .int32, t.lfsrc)) s

/-- R240. -/
def execPunpack (k : Tok) (d : PReg) (v : VCode) (s : State) : Host.Outcome State Fault Refusal :=
  priv s k s.token (vregRange s [v]) [] (vregs [v]) [] fun u => do
    check (s.tile.srcTags [v] = [.int32]) { cls := .tagCheck }
    let (x, w) ← popOne u v
    popsClean u [v]
    .ok ((predsFrom d).foldl (fun t r => t.result 2 (.p r (BitVec.ofNat 64 (x.toNat / 2 ^ (64 * r.toNat))))) w)

/-! ### Allotment and ports (R216, R218) -/

/-- The registers from one allotment up to another zeroed, EMPTY; the write ends an uncorrectable error in them (R444). -/
def Tile.zeroV (t : Tile) (lo hi : Nat) : Tile :=
  (List.range (hi - lo)).foldl (fun t i =>
    { t with v := t.v.setIfInBounds (lo + i) 0, vtag := t.vtag.setIfInBounds (lo + i) .empty
             cc := { t.cc with bad := t.cc.bad.filter (· ≠ .v (lo + i)) } }) t

/-- R216: no change where n is at or below the allotment. -/
def execValloc (k : Tok) (n : BitVec 6) (s : State) : Host.Outcome State Fault Refusal :=
  priv s k s.token (.ok ()) [] [] [] fun t =>
    .ok (if t.tile.vallot < n then t.setTile { t.tile.zeroV t.tile.vallot.toNat n.toNat with vallot := n } else t)

/-- Whether a result in flight goes to a v register from n on. -/
def Land.above (n : Nat) (l : Land) : Bool :=
  match l.reg with
  | .v r => decide (n ≤ r)
  | _ => false

/-- R216, R135: the released registers are lost, with the writes in flight to them. -/
def execVshrink (k : Tok) (n : BitVec 6) (s : State) : Host.Outcome State Fault Refusal :=
  priv s k s.token (.ok ()) [] [] [] fun t =>
    if n < t.tile.vallot then
      let u := t.setTile { t.tile.zeroV n.toNat t.tile.vallot.toNat with vallot := n }
      .ok (u.setCore { u.core with flight := u.core.flight.filter fun f => !f.land.above n.toNat })
    else .ok t

/-- A port parameter set (R217), truncated to its width. -/
def Port.put (p : Port) (sel : Nat) (x : Word) : Port :=
  match sel with
  | 0 => { p with addr := x }
  | 1 => { p with fmt := (Fmt.ofCode (x.toNat % 16)).getD .empty }
  | 2 => { p with n0 := fld 0 16 x }
  | 3 => { p with n1 := fld 0 16 x }
  | 4 => { p with n2 := fld 0 16 x }
  | 5 => { p with s0 := x }
  | 6 => { p with s1 := x }
  | 7 => { p with s2 := x }
  | _ => { p with pos := BitVec.ofNat 32 (x.toNat % p.total) }

/-- R218: ADDR, the counts and the strides restart the port. -/
def execPcfg (k : Tok) (p : VCode) (a b : GReg) (s : State) : Host.Outcome State Fault Refusal :=
  priv s k s.token (.ok ()) [a, b] [] [] fun t => do
    let sel := (s.g a).toNat
    check (sel ≤ 8) { cls := .portCfg }
    check (sel ≠ 1 ∨ (s.g b).toNat % 16 < 11) { cls := .tagCheck }
    let q := (t.tile.port p).put sel (s.g b)
    .ok (t.setTile { t.tile with
      ports := t.tile.ports.setIfInBounds (p.toNat - 56) (if sel = 1 ∨ sel = 8 then q else { q with pos := 0 }) })

end Sys2Proof.Machine
end

