-- ==== Sys2Proof/Machine/Dispatch.lean ====
section
/-! DEFINITION. The meaning of each instruction and step, one arm each. -/

namespace Sys2Proof.Machine

def exec (i : Instr) (s : State) : Host.Outcome State Fault Refusal :=
  match i with
  | .add d a b => Sys2Proof.Machine.execAdd d a b s
  | .sub d a b => Sys2Proof.Machine.execSub d a b s
  | .and d a b => Sys2Proof.Machine.execAnd d a b s
  | .or d a b => Sys2Proof.Machine.execOr d a b s
  | .xor d a b => Sys2Proof.Machine.execXor d a b s
  | .sll d a b => Sys2Proof.Machine.execSll d a b s
  | .srl d a b => Sys2Proof.Machine.execSrl d a b s
  | .sra d a b => Sys2Proof.Machine.execSra d a b s
  | .slt d a b => Sys2Proof.Machine.execSlt d a b s
  | .sltu d a b => Sys2Proof.Machine.execSltu d a b s
  | .min d a b => Sys2Proof.Machine.execMin d a b s
  | .max d a b => Sys2Proof.Machine.execMax d a b s
  | .minu d a b => Sys2Proof.Machine.execMinu d a b s
  | .maxu d a b => Sys2Proof.Machine.execMaxu d a b s
  | .add1s d a b => Sys2Proof.Machine.execAdd1s d a b s
  | .add2s d a b => Sys2Proof.Machine.execAdd2s d a b s
  | .add3s d a b => Sys2Proof.Machine.execAdd3s d a b s
  | .mul d a b => Sys2Proof.Machine.execMul d a b s
  | .mulh d a b => Sys2Proof.Machine.execMulh d a b s
  | .mulhu d a b => Sys2Proof.Machine.execMulhu d a b s
  | .mulhsu d a b => Sys2Proof.Machine.execMulhsu d a b s
  | .div d a b => Sys2Proof.Machine.execDiv d a b s
  | .divu d a b => Sys2Proof.Machine.execDivu d a b s
  | .rem d a b => Sys2Proof.Machine.execRem d a b s
  | .remu d a b => Sys2Proof.Machine.execRemu d a b s
  | .addi d a im => Sys2Proof.Machine.execAddi d a im s
  | .andi d a im => Sys2Proof.Machine.execAndi d a im s
  | .ori d a im => Sys2Proof.Machine.execOri d a im s
  | .xori d a im => Sys2Proof.Machine.execXori d a im s
  | .slti d a im => Sys2Proof.Machine.execSlti d a im s
  | .sltiu d a im => Sys2Proof.Machine.execSltiu d a im s
  | .slli d a n => Sys2Proof.Machine.execSlli d a n s
  | .srli d a n => Sys2Proof.Machine.execSrli d a n s
  | .srai d a n => Sys2Proof.Machine.execSrai d a n s
  | .lui d im => Sys2Proof.Machine.execLui d im s
  | .auipc d im => Sys2Proof.Machine.execAuipc d im s
  | .lb d a im => Sys2Proof.Machine.execLb d a im s
  | .lbu d a im => Sys2Proof.Machine.execLbu d a im s
  | .lh d a im => Sys2Proof.Machine.execLh d a im s
  | .lhu d a im => Sys2Proof.Machine.execLhu d a im s
  | .lw d a im => Sys2Proof.Machine.execLw d a im s
  | .sb g a im => Sys2Proof.Machine.execSb g a im s
  | .sh g a im => Sys2Proof.Machine.execSh g a im s
  | .sw g a im => Sys2Proof.Machine.execSw g a im s
  | .lld d a im => Sys2Proof.Machine.execLld d a im s
  | .sul g a im => Sys2Proof.Machine.execSul g a im s
  | .amoAdd d a b => Sys2Proof.Machine.execAmoAdd d a b s
  | .amoMin d a b => Sys2Proof.Machine.execAmoMin d a b s
  | .amoMax d a b => Sys2Proof.Machine.execAmoMax d a b s
  | .amoAnd d a b => Sys2Proof.Machine.execAmoAnd d a b s
  | .amoOr d a b => Sys2Proof.Machine.execAmoOr d a b s
  | .amoXor d a b => Sys2Proof.Machine.execAmoXor d a b s
  | .amoSwap d a b => Sys2Proof.Machine.execAmoSwap d a b s
  | .amoCas d a b => Sys2Proof.Machine.execAmoCas d a b s
  | .beq a b k => Sys2Proof.Machine.execBeq a b k s
  | .bne a b k => Sys2Proof.Machine.execBne a b k s
  | .blt a b k => Sys2Proof.Machine.execBlt a b k s
  | .bge a b k => Sys2Proof.Machine.execBge a b k s
  | .bltu a b k => Sys2Proof.Machine.execBltu a b k s
  | .bgeu a b k => Sys2Proof.Machine.execBgeu a b k s
  | .jal d k => Sys2Proof.Machine.execJal d k s
  | .jalr d a im => Sys2Proof.Machine.execJalr d a im s
  | .loop a k => Sys2Proof.Machine.execLoop a k s
  | .loopi n k => Sys2Proof.Machine.execLoopi n k s
  | .lbrk a => Sys2Proof.Machine.execLbrk a s
  | .lbrkZ a => Sys2Proof.Machine.execLbrkZ a s
  | .qput n c t => Sys2Proof.Machine.execQput n c t s
  | .qputReg a n => Sys2Proof.Machine.execQputReg a n s
  | .qtake d n c => Sys2Proof.Machine.execQtake d n c s
  | .qtakeReg d a n => Sys2Proof.Machine.execQtakeReg d a n s
  | .qpeek d n => Sys2Proof.Machine.execQpeek d n s
  | .qcount d n => Sys2Proof.Machine.execQcount d n s
  | .barInit c a b => Sys2Proof.Machine.execBarInit c a b s
  | .barExpect c a b => Sys2Proof.Machine.execBarExpect c a b s
  | .barExpectClr c a b => Sys2Proof.Machine.execBarExpectClr c a b s
  | .barArrive a => Sys2Proof.Machine.execBarArrive a s
  | .barWait a b => Sys2Proof.Machine.execBarWait a b s
  | .barWaitchk c a b => Sys2Proof.Machine.execBarWaitchk c a b s
  | .barTest d a b => Sys2Proof.Machine.execBarTest d a b s
  | .barRetire a => Sys2Proof.Machine.execBarRetire a s
  | .fenceRel sc => Sys2Proof.Machine.execFenceRel sc s
  | .fenceAcq sc => Sys2Proof.Machine.execFenceAcq sc s
  | .fenceAr sc => Sys2Proof.Machine.execFenceAr sc s
  | .fenceAck => Sys2Proof.Machine.execFenceAck s
  | .hbar sc => Sys2Proof.Machine.execHbar sc s
  | .csrR d c => Sys2Proof.Machine.execCsrR d c s
  | .csrW d a c => Sys2Proof.Machine.execCsrW d a c s
  | .csrS d a c => Sys2Proof.Machine.execCsrS d a c s
  | .csrC d a c => Sys2Proof.Machine.execCsrC d a c s
  | .hld h a => Sys2Proof.Machine.execHld h a s
  | .hst h a => Sys2Proof.Machine.execHst h a s
  | .hset h b f => Sys2Proof.Machine.execHset h b f s
  | .hget d h f => Sys2Proof.Machine.execHget d h f s
  | .hmov h k => Sys2Proof.Machine.execHmov h k s
  | .nop => Sys2Proof.Machine.execNop s
  | .ecall => Sys2Proof.Machine.execEcall s
  | .ebreak => Sys2Proof.Machine.execEbreak s
  | .done => Sys2Proof.Machine.execDone s
  | .yield => Sys2Proof.Machine.execYield s
  | .allreduce d a b m => Sys2Proof.Machine.execAllreduce d a b m s
  | .allgather d a b m => Sys2Proof.Machine.execAllgather d a b m s
  | .reducescatter d a b m => Sys2Proof.Machine.execReducescatter d a b m s
  | .alltoall d a b m => Sys2Proof.Machine.execAlltoall d a b m s
  | .bcast d a b m => Sys2Proof.Machine.execBcast d a b m s
  | .cbar d a b m => Sys2Proof.Machine.execCbar d a b m s
  | .cstat d a b m => Sys2Proof.Machine.execCstat d a b m s
  | .ptabSet d a b m => Sys2Proof.Machine.execPtabSet d a b m s
  | .ptabGet d a b m => Sys2Proof.Machine.execPtabGet d a b m s
  | .placeConv d a b m => Sys2Proof.Machine.execPlaceConv d a b m s
  | .meshSet d a b m => Sys2Proof.Machine.execMeshSet d a b m s
  | .rsPlan d a b m => Sys2Proof.Machine.execRsPlan d a b m s
  | .rsStart d a b m => Sys2Proof.Machine.execRsStart d a b m s
  | .rsResume d a b m => Sys2Proof.Machine.execRsResume d a b m s
  | .rsStatus d a b m => Sys2Proof.Machine.execRsStatus d a b m s
  | .rsAbort d a b m => Sys2Proof.Machine.execRsAbort d a b m s
  | .futInit d a b m => Sys2Proof.Machine.execFutInit d a b m s
  | .futResolve d a b m => Sys2Proof.Machine.execFutResolve d a b m s
  | .futReg d a b m => Sys2Proof.Machine.execFutReg d a b m s
  | .futPoison d a b m => Sys2Proof.Machine.execFutPoison d a b m s
  | .futRead d a b m => Sys2Proof.Machine.execFutRead d a b m s
  | .ctxCreate d a b m => Sys2Proof.Machine.execCtxCreate d a b m s
  | .ctxGrant d a b m => Sys2Proof.Machine.execCtxGrant d a b m s
  | .ctxRevoke d a b m => Sys2Proof.Machine.execCtxRevoke d a b m s
  | .ctxDestroy d a b m => Sys2Proof.Machine.execCtxDestroy d a b m s
  | .ctxBudget d a b m => Sys2Proof.Machine.execCtxBudget d a b m s
  | .ctxKey d a b m => Sys2Proof.Machine.execCtxKey d a b m s
  | .ctxScrub d a b m => Sys2Proof.Machine.execCtxScrub d a b m s
  | .ctxReceipt d a b m => Sys2Proof.Machine.execCtxReceipt d a b m s
  | .nodeLaunch d a b m => Sys2Proof.Machine.execNodeLaunch d a b m s
  | .nodeStatus d a b m => Sys2Proof.Machine.execNodeStatus d a b m s
  | .logArm d a b m => Sys2Proof.Machine.execLogArm d a b m s
  | .logRead d a b m => Sys2Proof.Machine.execLogRead d a b m s
  | .timeRead d a b m => Sys2Proof.Machine.execTimeRead d a b m s
  | .dmaLd k a b c d => Sys2Proof.Machine.execDmaLd k a b c d s
  | .dmaSt k a b c d => Sys2Proof.Machine.execDmaSt k a b c d s
  | .dmaCp k a b c d => Sys2Proof.Machine.execDmaCp k a b c d s
  | .dmaCpMc k a b c d => Sys2Proof.Machine.execDmaCpMc k a b c d s
  | .dmaIx k a b c d => Sys2Proof.Machine.execDmaIx k a b c d s
  | .dmaSx k a b c d => Sys2Proof.Machine.execDmaSx k a b c d s
  | .dmaRd k a b c d => Sys2Proof.Machine.execDmaRd k a b c d s
  | .dmaWr k a b c d => Sys2Proof.Machine.execDmaWr k a b c d s
  | .stRel k a g c x => Sys2Proof.Machine.execStRel k a g c x s
  | .ldAcq k a g c x => Sys2Proof.Machine.execLdAcq k a g c x s
  | .ratAdd k a g c => Sys2Proof.Machine.execRatAdd k a g c s
  | .ratMin k a g c => Sys2Proof.Machine.execRatMin k a g c s
  | .ratMax k a g c => Sys2Proof.Machine.execRatMax k a g c s
  | .ratAnd k a g c => Sys2Proof.Machine.execRatAnd k a g c s
  | .ratOr k a g c => Sys2Proof.Machine.execRatOr k a g c s
  | .ratXor k a g c => Sys2Proof.Machine.execRatXor k a g c s
  | .ratSwap k a g c => Sys2Proof.Machine.execRatSwap k a g c s
  | .ratCas k a g c => Sys2Proof.Machine.execRatCas k a g c s
  | .rvat k a b c d => Sys2Proof.Machine.execRvat k a b c d s
  | .ldPlace k a c d => Sys2Proof.Machine.execLdPlace k a c d s
  | .stPlace k b c d => Sys2Proof.Machine.execStPlace k b c d s
  | .dmaProg k a => Sys2Proof.Machine.execDmaProg k a s
  | .dmaProgRec k a b c => Sys2Proof.Machine.execDmaProgRec k a b c s
  | .vadd k a b c => Sys2Proof.Machine.execVadd k a b c s
  | .vsub k a b c => Sys2Proof.Machine.execVsub k a b c s
  | .vmul k a b c => Sys2Proof.Machine.execVmul k a b c s
  | .vmin k a b c => Sys2Proof.Machine.execVmin k a b c s
  | .vmax k a b c => Sys2Proof.Machine.execVmax k a b c s
  | .vabs k a b => Sys2Proof.Machine.execVabs k a b s
  | .vneg k a b => Sys2Proof.Machine.execVneg k a b s
  | .vand k a b c => Sys2Proof.Machine.execVand k a b c s
  | .vor k a b c => Sys2Proof.Machine.execVor k a b c s
  | .vxor k a b c => Sys2Proof.Machine.execVxor k a b c s
  | .vnot k a b => Sys2Proof.Machine.execVnot k a b s
  | .vsll k a b c => Sys2Proof.Machine.execVsll k a b c s
  | .vsrl k a b c => Sys2Proof.Machine.execVsrl k a b c s
  | .vsra k a b c => Sys2Proof.Machine.execVsra k a b c s
  | .vclz k a b => Sys2Proof.Machine.execVclz k a b s
  | .vpopc k a b => Sys2Proof.Machine.execVpopc k a b s
  | .vcmpEq k d b c => Sys2Proof.Machine.execVcmpEq k d b c s
  | .vcmpNe k d b c => Sys2Proof.Machine.execVcmpNe k d b c s
  | .vcmpLt k d b c => Sys2Proof.Machine.execVcmpLt k d b c s
  | .vcmpLe k d b c => Sys2Proof.Machine.execVcmpLe k d b c s
  | .vcmpGt k d b c => Sys2Proof.Machine.execVcmpGt k d b c s
  | .vcmpGe k d b c => Sys2Proof.Machine.execVcmpGe k d b c s
  | .vredsum k a b => Sys2Proof.Machine.execVredsum k a b s
  | .vredmax k a b => Sys2Proof.Machine.execVredmax k a b s
  | .vredmin k a b => Sys2Proof.Machine.execVredmin k a b s
  | .vperm k a b c => Sys2Proof.Machine.execVperm k a b c s
  | .vbcast k a b g => Sys2Proof.Machine.execVbcast k a b g s
  | .vbcastG k a t g => Sys2Proof.Machine.execVbcastG k a t g s
  | .vslideDn k a b g => Sys2Proof.Machine.execVslideDn k a b g s
  | .vslideUp k a b g => Sys2Proof.Machine.execVslideUp k a b g s
  | .vzip k a b c => Sys2Proof.Machine.execVzip k a b c s
  | .vunzip k a b c => Sys2Proof.Machine.execVunzip k a b c s
  | .vcvt k a b t => Sys2Proof.Machine.execVcvt k a b t s
  | .vmov k a b => Sys2Proof.Machine.execVmov k a b s
  | .vrdacc k a g => Sys2Proof.Machine.execVrdacc k a g s
  | .vfma k a b c => Sys2Proof.Machine.execVfma k a b c s
  | .vfsh k a b c => Sys2Proof.Machine.execVfsh k a b c s
  | .vmac k a b c => Sys2Proof.Machine.execVmac k a b c s
  | .vsel k a b p => Sys2Proof.Machine.execVsel k a b p s
  | .vld k a g o t => Sys2Proof.Machine.execVld k a g o t s
  | .vldTg k a g o => Sys2Proof.Machine.execVldTg k a g o s
  | .vst k a g o => Sys2Proof.Machine.execVst k a g o s
  | .vstTg k a g o => Sys2Proof.Machine.execVstTg k a g o s
  | .vstm k a g h => Sys2Proof.Machine.execVstm k a g h s
  | .vldx k a g c => Sys2Proof.Machine.execVldx k a g c s
  | .mma k b c => Sys2Proof.Machine.execMma k b c s
  | .mmaGx k a b c => Sys2Proof.Machine.execMmaGx k a b c s
  | .rzero k => Sys2Proof.Machine.execRzero k s
  | .rnext k => Sys2Proof.Machine.execRnext k s
  | .epi k h g b => Sys2Proof.Machine.execEpi k h g b s
  | .mscaleRow k a => Sys2Proof.Machine.execMscaleRow k a s
  | .mscaleCol k a => Sys2Proof.Machine.execMscaleCol k a s
  | .fadd k d a b => Sys2Proof.Machine.execFadd k d a b s
  | .fsub k d a b => Sys2Proof.Machine.execFsub k d a b s
  | .fmul k d a b => Sys2Proof.Machine.execFmul k d a b s
  | .ffma k d a b => Sys2Proof.Machine.execFfma k d a b s
  | .fmin k d a b => Sys2Proof.Machine.execFmin k d a b s
  | .fmax k d a b => Sys2Proof.Machine.execFmax k d a b s
  | .fcmp k d a b => Sys2Proof.Machine.execFcmp k d a b s
  | .fdiv k d a b => Sys2Proof.Machine.execFdiv k d a b s
  | .fsqrt k d a => Sys2Proof.Machine.execFsqrt k d a s
  | .fcvtWS k d a => Sys2Proof.Machine.execFcvtWS k d a s
  | .fcvtWuS k d a => Sys2Proof.Machine.execFcvtWuS k d a s
  | .fcvtSW k d a => Sys2Proof.Machine.execFcvtSW k d a s
  | .fcvtSWu k d a => Sys2Proof.Machine.execFcvtSWu k d a s
  | .fcvtBfS k d a => Sys2Proof.Machine.execFcvtBfS k d a s
  | .fcvtSBf k d a => Sys2Proof.Machine.execFcvtSBf k d a s
  | .fcvtHS k d a => Sys2Proof.Machine.execFcvtHS k d a s
  | .fcvtSH k d a => Sys2Proof.Machine.execFcvtSH k d a s
  | .pand k d a b => Sys2Proof.Machine.execPand k d a b s
  | .por k d a b => Sys2Proof.Machine.execPor k d a b s
  | .pnot k d a => Sys2Proof.Machine.execPnot k d a s
  | .pmov k d a => Sys2Proof.Machine.execPmov k d a s
  | .ppack k d a => Sys2Proof.Machine.execPpack k d a s
  | .punpack k d v => Sys2Proof.Machine.execPunpack k d v s
  | .valloc k n => Sys2Proof.Machine.execValloc k n s
  | .vshrink k n => Sys2Proof.Machine.execVshrink k n s
  | .pcfg k p a b => Sys2Proof.Machine.execPcfg k p a b s
  | .time d => Sys2Proof.Machine.execTime d s
  | .reservedEncoding w => Sys2Proof.Machine.execReservedEncoding w s
  | .collectiveEpisode => Sys2Proof.Machine.execCollectiveEpisode s
  | .memberLost => Sys2Proof.Machine.execMemberLost s
  | .trestleTransferComplete => Sys2Proof.Machine.execTrestleTransferComplete s
  | .progressRecordWrite => Sys2Proof.Machine.execProgressRecordWrite s
  | .copReply => Sys2Proof.Machine.execCopReply s
  | .engineCredit => Sys2Proof.Machine.execEngineCredit s
  | .sourceCredit => Sys2Proof.Machine.execSourceCredit s
  | .dmaCompletion => Sys2Proof.Machine.execDmaCompletion s
  | .engineFault => Sys2Proof.Machine.execEngineFault s
  | .mmaCompletion => Sys2Proof.Machine.execMmaCompletion s
  | .epiCompletion => Sys2Proof.Machine.execEpiCompletion s
  | .fixedLatencyWrite => Sys2Proof.Machine.execFixedLatencyWrite s
  | .stopCapture => Sys2Proof.Machine.execStopCapture s
  | .trapDelivery => Sys2Proof.Machine.execTrapDelivery s
  | .handlerRun => Sys2Proof.Machine.execHandlerRun s
  | .stateWindow => Sys2Proof.Machine.execStateWindow s
  | .resume => Sys2Proof.Machine.execResume s
  | .resumeRetry => Sys2Proof.Machine.execResumeRetry s
  | .skip => Sys2Proof.Machine.execSkip s
  | .kill => Sys2Proof.Machine.execKill s
  | .pass => Sys2Proof.Machine.execPass s
  | .deadlock => Sys2Proof.Machine.execDeadlock s
  | .lockLost => Sys2Proof.Machine.execLockLost s
  | .leaseEnd => Sys2Proof.Machine.execLeaseEnd s
  | .packetNop => Sys2Proof.Machine.execPacketNop s
  | .node => Sys2Proof.Machine.execNode s
  | .graph => Sys2Proof.Machine.execGraph s
  | .packetCompletion => Sys2Proof.Machine.execPacketCompletion s
  | .queuePoll => Sys2Proof.Machine.execQueuePoll s
  | .heldLineInvalidate => Sys2Proof.Machine.execHeldLineInvalidate s
  | .nodeDecrement => Sys2Proof.Machine.execNodeDecrement s
  | .distributorPlace => Sys2Proof.Machine.execDistributorPlace s
  | .dieReport => Sys2Proof.Machine.execDieReport s
  | .taskCompletion => Sys2Proof.Machine.execTaskCompletion s
  | .sliceTick => Sys2Proof.Machine.execSliceTick s
  | .drainBound => Sys2Proof.Machine.execDrainBound s
  | .checkpoint => Sys2Proof.Machine.execCheckpoint s
  | .saveCommit => Sys2Proof.Machine.execSaveCommit s
  | .saveDeadline => Sys2Proof.Machine.execSaveDeadline s
  | .gracePeriodEnd => Sys2Proof.Machine.execGracePeriodEnd s
  | .restore => Sys2Proof.Machine.execRestore s
  | .heldEvent => Sys2Proof.Machine.execHeldEvent s
  | .codePageCheck => Sys2Proof.Machine.execCodePageCheck s
  | .codeGenerationFree => Sys2Proof.Machine.execCodeGenerationFree s
  | .write => Sys2Proof.Machine.execWrite s
  | .readRequest => Sys2Proof.Machine.execReadRequest s
  | .readData => Sys2Proof.Machine.execReadData s
  | .acknowledgement => Sys2Proof.Machine.execAcknowledgement s
  | .orderedFlag => Sys2Proof.Machine.execOrderedFlag s
  | .countOnlyFlag => Sys2Proof.Machine.execCountOnlyFlag s
  | .atomic => Sys2Proof.Machine.execAtomic s
  | .control => Sys2Proof.Machine.execControl s
  | .refusedPacketResend => Sys2Proof.Machine.execRefusedPacketResend s
  | .integrityBlock => Sys2Proof.Machine.execIntegrityBlock s
  | .linkFail => Sys2Proof.Machine.execLinkFail s
  | .linkKeyexh => Sys2Proof.Machine.execLinkKeyexh s
  | .packageLost => Sys2Proof.Machine.execPackageLost s
  | .softError => Sys2Proof.Machine.execSoftError s
  | .powerSample => Sys2Proof.Machine.execPowerSample s
  | .junctionSample => Sys2Proof.Machine.execJunctionSample s
  | .limitStep => Sys2Proof.Machine.execLimitStep s
  | .powerLoss => Sys2Proof.Machine.execPowerLoss s
  | .powerUp => Sys2Proof.Machine.execPowerUp s
  | .bootgo => Sys2Proof.Machine.execBootgo s
  | .qdesc => Sys2Proof.Machine.execQdesc s
  | .load => Sys2Proof.Machine.execLoad s
  | .unload => Sys2Proof.Machine.execUnload s
  | .aperture => Sys2Proof.Machine.execAperture s
  | .settick => Sys2Proof.Machine.execSettick s
  | .transit => Sys2Proof.Machine.execTransit s
  | .mailboxResume => Sys2Proof.Machine.execMailboxResume s
  | .rkey => Sys2Proof.Machine.execRkey s
  | .linktab => Sys2Proof.Machine.execLinktab s
  | .linkkey => Sys2Proof.Machine.execLinkkey s
  | .lifecycle => Sys2Proof.Machine.execLifecycle s
  | .apsize => Sys2Proof.Machine.execApsize s
  | .hostWrite => Sys2Proof.Machine.execHostWrite s
  | .hostRead => Sys2Proof.Machine.execHostRead s
  | .registerWrite => Sys2Proof.Machine.execRegisterWrite s
  | .malformedPacket => Sys2Proof.Machine.execMalformedPacket s
  | .reservedOpcode => Sys2Proof.Machine.execReservedOpcode s
  | .functionEnable => Sys2Proof.Machine.execFunctionEnable s
  | .keystoneMapWrite => Sys2Proof.Machine.execKeystoneMapWrite s
  | .powerLimitSet => Sys2Proof.Machine.execPowerLimitSet s
  | .codeStoreDrop => Sys2Proof.Machine.execCodeStoreDrop s

end Sys2Proof.Machine
end

