-- ==== Sys2Proof/Machine/Step.lean ====
section
/-! DEFINITION. One step of the machine: the event that is due, or the turn of one stream (log 1). -/

namespace Sys2Proof.Machine

/-- The turn of the stream in focus: it fetches, decodes and executes one instruction where it may issue. -/
def turnStep (s : State) : Host.Outcome State Fault Refusal :=
  if s.mayIssue then
    match s.fetch with
    | .fault t => .next (s.takeTrap (some s.sel) t).rotate
    | .page k => exec .codePageCheck { s with arg := .fetch s.tile.ptile s.sel k }
    | .word w => passTurn (exec (instrOf s.sel w) s)
  else .next s.rotate

/-- One step: an event whose cycle has come, else a turn. An event that finds the package without power is lost. -/
def step (s : State) : Host.Outcome State Fault Refusal :=
  match s.due with
  | [] => turnStep s
  | d :: ds =>
    if d.at_ ≤ s.now then
      if s.dark d.ev then .next { s with due := ds } else exec d.ev { s with due := ds, arg := d.arg }
    else turnStep s

/-- s with an instruction word where step fetches next: a resident task whose code section is that word. A word of more than 32 bits
is cut; every instruction of the table is one 32-bit word. -/
def State.withFetchWord (s : State) (_nbits w : Nat) : State :=
  s.placeWord (tableCore (BitVec.ofNat 32 w)) (BitVec.ofNat 32 w)

end Sys2Proof.Machine
end

