-- ==== Sys2Proof/Safety.lean ====
section
/-! DEFINITION. What counts as a safe run, and the conditions under which an instruction takes effect: the terms that claims use. -/

namespace Sys2Proof

open Machine

/-- The invariant of the machine's memory: its canonical form. -/
def Inv (s : State) : Prop := Mem.wf s.mem

/-- n steps from s all answer a next state that keeps the invariant. -/
def SafeFor : Nat → State → Prop
  | 0, s => Inv s
  | n + 1, s => Inv s ∧ ∃ t, step s = .next t ∧ SafeFor n t

/-! ### Results -/

/-- Wrap32 of the spec: a 32-bit word from an integer. -/
def wrap32 (n : Int) : Word := BitVec.ofInt 32 n

/-- The instruction completes: v is written to gd and the stream retires it. -/
def Gives (i : Instr) (s : State) (d : GReg) (v : Word) : Prop := exec i s = .next (s.putG d v).retire

/-- The instruction raises a trap of the executing stream, and does nothing else. -/
def Raises (i : Instr) (s : State) (t : Trap) : Prop := exec i s = .next (s.takeTrap (some s.sel) t)

/-- The instruction waits: nothing but the stream's wait state changes. -/
def Waits (i : Instr) (s : State) (w : Wait) : Prop := exec i s = .next (s.park w)

/-- The program goes on at a target. -/
def Jumps (i : Instr) (s : State) (target : Word) : Prop := exec i s = .next (s.jump target)

/-! ### Registers -/

/-- The g registers rs and other registers os can be read, and the g registers ws written, now: no interlock on a reply (R144, R206), no
reply that was a trap (R283), no early reader under CHECKSTALL (R134), no register with an uncorrectable error (R444). -/
structure Avail (s : State) (rs : List GReg) (os : List Reg) (ws : List GReg) : Prop where
  read : ∀ r ∈ rs, (∀ p ∈ s.core.pend, p.1 ≠ r) ∧ ∀ d ∈ s.core.dead, d.1 ≠ r
  write : ∀ r ∈ ws, ∀ p ∈ s.core.pend, p.1 ≠ r
  landed : s.core.checkstall = true → ∀ x ∈ rs.map Reg.g ++ os, s.core.early s.now x = false
  clean : ∀ x ∈ rs.map Reg.g ++ os, x ∉ s.core.bad

/-- What `Avail` says, of an instruction that may wait after its issue: its operands were read, and their registers checked, at its first
try (R134, R411); `State.opd` gives an operand as it was read. -/
structure AvailIssued (s : State) (rs ws : List GReg) : Prop where
  first : s.core.latch = [] → Avail s rs [] ws
  write : ∀ r ∈ ws, ∀ p ∈ s.core.pend, p.1 ≠ r

/-- The compute stream's port pushes have landed: a release waits for them (R211). -/
def Settled (s : State) : Prop := s.sel = .compute → s.tile.pushes = []

/-- No port push of the compute stream that is still to land touches n bytes at a key (R213). -/
def Clear (s : State) (k n : Nat) : Prop :=
  s.sel = .compute → s.tile.pushes.any (fun p => decide (p.key < k + n ∧ k < p.key + 256)) = false

/-- Nothing but the core with the turn differs. -/
def OnlyCore (s t : State) : Prop := t = s.setCore t.core

/-- Every byte of memory outside n bytes from key k, and outside the live barrier slots that these bytes touch (R96), reads as before. -/
def MemSameBut (s t : State) (k n : Nat) : Prop :=
  ∀ a, (a < k ∨ k + n ≤ a) → (∀ b ∈ s.bars, b < k + n → k < b + 16 → a < b ∨ b + 16 ≤ a) → Mem.read t.mem a = Mem.read s.mem a

/-- Every byte of memory reads as before. -/
def MemSame (s t : State) : Prop := ∀ a, Mem.read t.mem a = Mem.read s.mem a

/-! ### Tokens (R43, R44) -/

/-- The head of a queue shows as filled with a token of a class. -/
def HeadReady (q : Queue) (now : Nat) (cl : BitVec 3) : Prop :=
  ∃ tk a rest, q.slots = .filled tk a :: rest ∧ a < now ∧ tokenClass tk = cl

/-- A queue after its head is taken. -/
def afterTake (q : Queue) (now : Nat) : Queue := { slots := q.slots.tail, freed := some now }

/-- A queue after a slot is reserved. -/
def afterPut (q : Queue) (x : Slot) : Queue := { q with slots := q.slots ++ [x] }

/-- One queue of the tile in focus changed. -/
def mapQueue (s : State) (x y : CoreId) (f : Queue → Queue) : State :=
  s.setTile { s.tile with q := s.tile.q.set x y (f (s.tile.q.get x y)) }

/-- The takes and reservations of a private instruction that are due can be made now. -/
structure TokensReady (s : State) (k : Tok) : Prop where
  tka : k.tka = true → HeadReady (s.tile.q.get (nbr s.sel false) s.sel) s.now 0
  tkb : k.tkb = true → HeadReady (s.tile.q.get (nbr s.sel true) s.sel) s.now 0
  pta : k.pta = true → 1 ≤ (s.tile.q.get s.sel (nbr s.sel false)).free s.now
  ptb : k.ptb = true → 1 ≤ (s.tile.q.get s.sel (nbr s.sel true)).free s.now

/-- The state with the takes made, and each reserved slot holding x. -/
def withTokens (s : State) (k : Tok) (x : Slot) : State :=
  let s := if k.tka then mapQueue s (nbr s.sel false) s.sel (afterTake · s.now) else s
  let s := if k.tkb then mapQueue s (nbr s.sel true) s.sel (afterTake · s.now) else s
  let s := if k.pta then mapQueue s s.sel (nbr s.sel false) (afterPut · x) else s
  if k.ptb then mapQueue s s.sel (nbr s.sel true) (afterPut · x) else s

/-! ### Scratch -/

/-- n bytes at scratch address a, reached with base register base, can be accessed: aligned, inside what the task may reach, not below
STKLIM with base sp, no port push in the way, and without an uncorrectable error where they are read; k is the key of the first (R79 to R83, R163). -/
structure Reach (s : State) (base : GReg) (a : Word) (al n acc k : Nat) : Prop where
  aligned : a.toNat % al = 0
  key : scratchKey s a.toNat n = some k
  stack : base = 2 → s.core.stklim.toNat ≤ a.toNat
  pushed : Clear s k n
  clean : acc ≠ 2 → s.poisoned k n = false

/-- A 16-byte slot at scratch address a, with key k. -/
structure SlotAt (s : State) (a : Word) (k : Nat) : Prop where
  aligned : a.toNat % 16 = 0
  key : scratchKey s a.toNat 16 = some k
  pushed : Clear s k 16
  clean : s.poisoned k 16 = false

/-- A live barrier slot that an operation names. -/
structure BarAt (s : State) (a k : Nat) : Prop where
  aligned : a % 16 = 0
  key : scratchKey s a 16 = some k
  live : (s.bar k).live = true

/-! ### Handles and transfers (R88, R188 to R191) -/

/-- A handle passes the checks of R88: form, tag, place. -/
structure HandleOk (s : State) (h : Handle) (far own : Bool) : Prop where
  form : Handle.formOk h = true
  tag : Handle.fmt h ≠ 0
  here : own = true → Handle.sel h = 0
  unit : Handle.sel h ≠ 0 → ∃ c u, s.ctx? s.tile.task.cnum = some c ∧
    placeUnit c s.tile.ptile.toNat (Handle.level h) (Handle.sel h) (Handle.unit h) = some u ∧
    (far = true ∨ u = ownUnit s.tile.ptile.toNat (Handle.level h))

/-- BASE and the strides in use are multiples of the element width (R190). -/
structure HandleAligned (h : Handle) : Prop where
  base : Handle.base h % Handle.width h = 0
  str1 : 1 < Handle.ext h 1 → Handle.str h 1 % (Handle.width h : Int) = 0
  str2 : 1 < Handle.ext h 2 → Handle.str h 2 % (Handle.width h : Int) = 0
  str3 : 1 < Handle.ext h 3 → Handle.str h 3 % (Handle.width h : Int) = 0

/-- A transfer control word uses only given bits, with legal values (R188). -/
structure CtlOk (w used : Word) (c : GReg) : Prop where
  reserved : w &&& ~~~used = 0
  scope : ctlScope w ≤ 4
  sb : ctlSb w ≠ 3
  paths : ctlPaths w ≠ 3
  named : ctlSb w ≠ 0 → c ≠ 0

/-- The barrier slots that c and the control word name (R186, R188). -/
def BarsOk (s : State) (c : GReg) (w : Word) (b : Option Nat × Option Nat) : Prop :=
  (c = 0 → b = (none, none)) ∧
  (c ≠ 0 → ∃ d, BarAt s (s.g c).toNat d ∧
    (ctlSb w = 0 → b = (some d, none)) ∧
    (ctlSb w ≠ 0 → ∃ e, BarAt s ((s.g c).toNat + if ctlSb w = 2 then 16 else 0) e ∧ b = (some d, some e)))

/-- The package that a logical package number names for the task in focus (R30). -/
def PkgIs (s : State) (l : Nat) (e : PkgMap) : Prop := ((s.ctx? s.tile.task.cnum).bind fun c => c.pkgOf l) = some e

/-- The BTE of the core with the turn has room (R191). -/
def BteRoom (s : State) : Prop := (s.tile.ops.filter fun o => o.core == s.sel).length < 16

/-- A transfer instruction completes its issue: tokens taken and reserved, the operation o accepted, the instruction retired. -/
def Accepts (i : Instr) (s : State) (k : Tok) (o : Op) : Prop :=
  exec i s = .next (((withTokens s k (.pending (.dma s.sel s.core.seq))).accept o).retirePriv k.stall)

/-! ### cop (R144, R184, R265) -/

/-- A cop's registers are available, its request block of n bytes can be read and holds bs, or was read at the issue, and the stream has a
request entry. -/
structure CopReady (s : State) (d a b : GReg) (m : BitVec 2) (n : Nat) (bs : List Byte) : Prop where
  regs : AvailIssued s [a, b] [d]
  empty : n = 0 → bs = []
  block : n ≠ 0 → s.core.latch = [] → ∃ k, Reach s a (s.g a) 16 n 1 k ∧ bs = Mem.readRange s.mem k n
  kept : n ≠ 0 → s.core.latch ≠ [] → bs = s.core.latchB
  room : m = 1 ∨ (s.reqs.filter fun r => r.tid == s.tile.task.id && r.core == s.sel && r.mode != 1).length < 16

/-- The request is sent, with the registers and the block as they were read at the issue. -/
def Sends (i : Instr) (s : State) (fn7 : Nat) (d a b : GReg) (m : BitVec 2) (bs : List Byte) (x : CopArgs) : Prop :=
  exec i s = .next (s.sendReq (s.newReq fn7 m.toNat d (s.opd a) (s.opd b) bs x))

/-! ### Vector instructions (R211 to R219) -/

/-- Element e of a vector under a tag (R64). -/
def elemAt (f : Fmt) (x : BitVec 2048) (e : Nat) : Nat := x.toNat / 2 ^ (e * f.width) % 2 ^ f.width

/-- The number drawn for the result numbered n of an instruction, 0 where the mode draws none (R68, R69). -/
def drawAt (yes : Bool) (l : Word) (n : Nat) : Nat := if yes then (lfsrSteps (16 * (n + 1)) l).toNat % 65536 else 0

/-- The generator's state after n draws. -/
def drawn (yes : Bool) (l : Word) (n : Nat) : Word := if yes then lfsrSteps (16 * n) l else l

/-- A vector instruction with destination d (62 for none) and sources cs can take effect: registers within the allotment, tokens, scalar
registers gs and other registers os; xs are its source values and key the place of a port's next vector, w the state with the tokens
moved and the ports advanced; the result comes L cycles later. -/
structure VecReady (s : State) (k : Tok) (d : VCode) (cs : List VCode) (gs : List GReg) (os : List Reg) (L : Nat)
    (xs : List (BitVec 2048)) (key : Option Nat) (w : State) : Prop where
  range : ∀ c ∈ d :: cs, isVReg c = true → c.toNat < s.tile.vallot.toNat
  tokens : TokensReady s k
  regs : Avail s gs (vregs cs ++ os) []
  values : ∃ u, popAll (withTokens s k (s.lateToken d L)) cs = .ok (xs, u) ∧ pushKey u d = .ok (key, w)
  clean : popsClean (withTokens s k (s.lateToken d L)) cs = .ok ()

/-- A vector instruction completes with a value, a tag and an LFSR state of which P holds. -/
def VecGives (i : Instr) (s : State) (k : Tok) (d : VCode) (cs : List VCode) (gs : List GReg) (os : List Reg) (L : Nat)
    (P : List (BitVec 2048) → BitVec 2048 → Fmt → Word → Prop) : Prop :=
  ∀ xs key w, VecReady s k d cs gs os L xs key w →
    ∃ x t l, exec i s = .next (((w.setTile { w.tile with lfsrc := l }).putV d key L x t).retirePriv k.stall) ∧ P xs x t l

/-- Every element of x is given by r, under the tag f; no number is drawn. -/
def Elems (s : State) (f : Fmt) (x : BitVec 2048) (t : Fmt) (l : Word) (r : Nat → Nat) : Prop :=
  t = f ∧ l = s.tile.lfsrc ∧ ∀ e, e < f.elems → elemAt f x e = r e

/-- A scalar floating-point instruction completes: x goes to gd after L cycles, and l to the LFSR. -/
def FpGives (i : Instr) (s : State) (k : Tok) (d : GReg) (L x : Nat) (l : Word) : Prop :=
  let u := withTokens s k s.token
  exec i s = .next (((u.setTile { u.tile with lfsrc := l }).result L (.g d (BitVec.ofNat 32 x))).retirePriv k.stall)

/-! ### Steps without an encoding -/

/-- A change made with a core of the tile in focus; the turn stays. -/
def atCore (s : State) (c : CoreId) (f : State → State) : State :=
  { f { s with sel := c } with sel := s.sel }

/-- A BTE operation of the tile in focus that its engine can go on with: not faulted, its task not stopped or being saved (R319, R412). -/
structure OpLive (s : State) (c : CoreId) (q : BitVec 16) (o : Op) : Prop where
  found : s.tile.op? c q = some o
  runs : s.tile.halted = false
  sound : o.fault = none

/-- An event is scheduled for this cycle. -/
def Soon (t : State) (now : Nat) (e : Instr) (x : EvArg) : Prop := ∃ d ∈ t.due, d.ev = e ∧ d.arg = x ∧ d.at_ = now

/-- An event is scheduled for a later cycle. -/
def Later (t : State) (now : Nat) (e : Instr) (x : EvArg) : Prop := ∃ d ∈ t.due, d.ev = e ∧ d.arg = x ∧ now < d.at_

/-- The event completes: the next state is t. -/
def Does (i : Instr) (s t : State) : Prop := exec i s = .next t

/-! ### Frames -/

/-- Nothing differs but memory, the g registers, PC, loops and bookkeeping of the core with the turn, the token queues, the operation records
and what has been sent or scheduled. -/
structure SameElse (s t : State) : Prop where
  turn : t.sel = s.sel ∧ t.now = s.now
  handles : ∀ c, (t.tile.core c).h = (s.tile.core c).h
  others : ∀ c, c ≠ s.sel → (t.tile.core c).g = (s.tile.core c).g ∧ (t.tile.core c).pc = (s.tile.core c).pc ∧
    (t.tile.core c).loops = (s.tile.core c).loops
  vectors : t.tile.v = s.tile.v ∧ t.tile.vtag = s.tile.vtag ∧ t.tile.p = s.tile.p
  csrs : t.tile.vallot = s.tile.vallot ∧ t.tile.vgrp = s.tile.vgrp ∧ t.tile.rmode = s.tile.rmode ∧ t.tile.lfsrc = s.tile.lfsrc ∧
    t.tile.lfsre = s.tile.lfsre
  coreCsrs : ∀ c, (t.tile.core c).precise = (s.tile.core c).precise ∧ (t.tile.core c).checkstall = (s.tile.core c).checkstall ∧
    (t.tile.core c).stklim = (s.tile.core c).stklim ∧ (t.tile.core c).timeh = (s.tile.core c).timeh
  array : t.tile.ringHd = s.tile.ringHd ∧ t.tile.ringTl = s.tile.ringTl ∧ t.tile.mmas = s.tile.mmas ∧ t.tile.epis = s.tile.epis
  task : t.tile.task = s.tile.task ∧ t.tile.ports = s.tile.ports
  world : t.rest = s.rest ∧ t.ctxs = s.ctxs ∧ t.bars = s.bars ∧ t.codes = s.codes ∧ t.nodes = s.nodes ∧ t.packets = s.packets ∧
    t.queues = s.queues ∧ t.links = s.links ∧ t.power = s.power ∧ t.boot = s.boot ∧ t.fns = s.fns

/-- Where exec gives a next state for i: nothing differs but the g registers of ds, PC, loops and bookkeeping (an instruction that waits or
traps included). -/
def OnlyRegs (i : Instr) (s : State) (ds : List GReg) : Prop :=
  ∀ t, exec i s = .next t → SameElse s t ∧ t.mem = s.mem ∧ t.tile.q = s.tile.q ∧ ∀ r, r ∉ ds → t.g r = s.g r

/-- Where exec gives a next state for i, which stores n bytes at scratch address a: memory differs in these bytes alone (and the live barrier
slots that they touch, R96), and the g registers of ds. -/
def OnlyStores (i : Instr) (s : State) (ds : List GReg) (a n : Nat) : Prop :=
  ∀ t, exec i s = .next t → SameElse s t ∧ t.tile.q = s.tile.q ∧ (∀ r, r ∉ ds → t.g r = s.g r) ∧
    (∀ k, scratchKey s a n = some k → MemSameBut s t k n) ∧ (scratchKey s a n = none → t.mem = s.mem)

/-- Where exec gives a next state for i, which an engine will perform: no register and no byte differs yet. -/
def OnlyIssues (i : Instr) (s : State) : Prop :=
  ∀ t, exec i s = .next t → SameElse s t ∧ t.mem = s.mem ∧ ∀ r, t.g r = s.g r

/-- An instruction that only the load and store cores' map has (R126, R137). -/
def isTransfer : Instr → Bool
  | .dmaLd _ _ _ _ _ | .dmaSt _ _ _ _ _ | .dmaCp _ _ _ _ _ | .dmaCpMc _ _ _ _ _ | .dmaIx _ _ _ _ _ | .dmaSx _ _ _ _ _
  | .dmaRd _ _ _ _ _ | .dmaWr _ _ _ _ _ | .stRel _ _ _ _ _ | .ldAcq _ _ _ _ _ | .ratAdd _ _ _ _ | .ratMin _ _ _ _ | .ratMax _ _ _ _
  | .ratAnd _ _ _ _ | .ratOr _ _ _ _ | .ratXor _ _ _ _ | .ratSwap _ _ _ _ | .ratCas _ _ _ _ | .rvat _ _ _ _ _ | .ldPlace _ _ _ _
  | .stPlace _ _ _ _ | .dmaProg _ _ | .dmaProgRec _ _ _ _ => true
  | _ => false

end Sys2Proof
end

