-- ==== Sys2Proof/Certificates/Slice0/Obligations.lean ====
section
/-! DEFINITION. The statements for the provers. -/

open Sys2Proof Sys2Proof.Machine

/-! ### Integer arithmetic and control -/

/-- R158: every row of the alu.r table, for all operand values and registers (gd = g0 included: putG discards that write). -/
def Claim.RegisterArithmetic : Prop :=
  ∀ (d a b : GReg) (s : State), Avail s [a, b] [] [d] →
    let x := s.g a
    let y := s.g b
    let n := (fld 0 5 y).toNat
    Gives (.add d a b) s d (wrap32 (x.toNat + y.toNat)) ∧
    Gives (.sub d a b) s d (wrap32 (x.toNat - y.toNat)) ∧
    Gives (.and d a b) s d (x &&& y) ∧
    Gives (.or d a b) s d (x ||| y) ∧
    Gives (.xor d a b) s d (x ^^^ y) ∧
    Gives (.sll d a b) s d (wrap32 (x.toNat * 2 ^ n)) ∧
    Gives (.srl d a b) s d (wrap32 (x.toNat / 2 ^ n : Nat)) ∧
    Gives (.sra d a b) s d (wrap32 (x.toInt / 2 ^ n)) ∧
    Gives (.slt d a b) s d (if x.toInt < y.toInt then 1 else 0) ∧
    Gives (.sltu d a b) s d (if x.toNat < y.toNat then 1 else 0) ∧
    Gives (.min d a b) s d (if x.toInt ≤ y.toInt then x else y) ∧
    Gives (.max d a b) s d (if x.toInt ≤ y.toInt then y else x) ∧
    Gives (.minu d a b) s d (if x.toNat ≤ y.toNat then x else y) ∧
    Gives (.maxu d a b) s d (if x.toNat ≤ y.toNat then y else x) ∧
    Gives (.add1s d a b) s d (wrap32 (x.toNat * 2 + y.toNat)) ∧
    Gives (.add2s d a b) s d (wrap32 (x.toNat * 4 + y.toNat)) ∧
    Gives (.add3s d a b) s d (wrap32 (x.toNat * 8 + y.toNat))

/-- R159: the eight multiply and divide instructions, the zero divisor and the overflow included. -/
def Claim.MultiplyDivide : Prop :=
  ∀ (d a b : GReg) (s : State), Avail s [a, b] [] [d] →
    let x := s.g a
    let y := s.g b
    Gives (.mul d a b) s d (wrap32 (x.toInt * y.toInt)) ∧
    Gives (.mulh d a b) s d (wrap32 (x.toInt * y.toInt / 2 ^ 32)) ∧
    Gives (.mulhu d a b) s d (wrap32 (x.toNat * y.toNat / 2 ^ 32 : Nat)) ∧
    Gives (.mulhsu d a b) s d (wrap32 (x.toInt * y.toNat / 2 ^ 32)) ∧
    (y = 0 →
      Gives (.div d a b) s d 0xFFFFFFFF ∧ Gives (.rem d a b) s d x ∧
      Gives (.divu d a b) s d 0xFFFFFFFF ∧ Gives (.remu d a b) s d x) ∧
    (x = 0x80000000 → y = 0xFFFFFFFF → Gives (.div d a b) s d 0x80000000 ∧ Gives (.rem d a b) s d 0) ∧
    (y ≠ 0 → ¬(x = 0x80000000 ∧ y = 0xFFFFFFFF) →
      Gives (.div d a b) s d (wrap32 (x.toInt.tdiv y.toInt)) ∧
      Gives (.rem d a b) s d (wrap32 (x.toInt - y.toInt * x.toInt.tdiv y.toInt))) ∧
    (y ≠ 0 →
      Gives (.divu d a b) s d (wrap32 (x.toNat / y.toNat : Nat)) ∧ Gives (.remu d a b) s d (wrap32 (x.toNat % y.toNat : Nat)))

/-- R160, R161: the immediate instructions, for every immediate. -/
def Claim.ImmediateArithmetic : Prop :=
  ∀ (d a : GReg) (i : BitVec 15) (n : BitVec 5) (u : BitVec 20) (s : State),
    (Avail s [a] [] [d] →
      let x := s.g a
      let y : Word := i.signExtend 32
      Gives (.addi d a i) s d (wrap32 (x.toNat + i.toInt)) ∧
      Gives (.andi d a i) s d (x &&& y) ∧
      Gives (.ori d a i) s d (x ||| y) ∧
      Gives (.xori d a i) s d (x ^^^ y) ∧
      Gives (.slti d a i) s d (if x.toInt < i.toInt then 1 else 0) ∧
      Gives (.sltiu d a i) s d (if x.toNat < y.toNat then 1 else 0) ∧
      Gives (.slli d a n) s d (wrap32 (x.toNat * 2 ^ n.toNat)) ∧
      Gives (.srli d a n) s d (wrap32 (x.toNat / 2 ^ n.toNat : Nat)) ∧
      Gives (.srai d a n) s d (wrap32 (x.toInt / 2 ^ n.toNat))) ∧
    (Avail s [] [] [d] →
      Gives (.lui d u) s d (wrap32 (u.toNat * 4096)) ∧
      Gives (.auipc d u) s d (wrap32 (s.core.pc.toNat + u.toNat * 4096)))

/-- The integer instructions of the common half. -/
def Obligations.IntegerArithmetic : Prop := Claim.RegisterArithmetic ∧ Claim.MultiplyDivide ∧ Claim.ImmediateArithmetic

/-- R167, R168: a taken branch goes to PC + 4 × SignExt(off15), and one that is not taken retires; the jumps write PC + 4 and go on at
their target, with ga read before gd is written. -/
def Claim.BranchesAndJumps : Prop :=
  ∀ (d a b : GReg) (k i : BitVec 15) (l : BitVec 20) (s : State),
    let x := s.g a
    let y := s.g b
    let aim (c : Prop) [Decidable c] : State := if c then s.jump (wrap32 (s.core.pc.toNat + 4 * k.toInt)) else s.retire
    (Avail s [a, b] [] [] →
      exec (.beq a b k) s = .next (aim (x = y)) ∧
      exec (.bne a b k) s = .next (aim (x ≠ y)) ∧
      exec (.blt a b k) s = .next (aim (x.toInt < y.toInt)) ∧
      exec (.bge a b k) s = .next (aim (x.toInt ≥ y.toInt)) ∧
      exec (.bltu a b k) s = .next (aim (x.toNat < y.toNat)) ∧
      exec (.bgeu a b k) s = .next (aim (x.toNat ≥ y.toNat))) ∧
    (Avail s [] [] [d] →
      exec (.jal d l) s = .next ((s.putG d (s.core.pc + 4)).jump (wrap32 (s.core.pc.toNat + 4 * l.toInt)))) ∧
    (Avail s [a] [] [d] →
      exec (.jalr d a i) s = .next ((s.putG d (s.core.pc + 4)).jump (wrap32 ((x.toNat + i.toInt) / 4 * 4))))

/-- R169, R170, R172: loop entry with count 0 and not, with a full stack, and the exits, taken and not, of the innermost loop; the stack
underflow. -/
def Claim.HardwareLoops : Prop :=
  ∀ (a : GReg) (k : BitVec 15) (n m : BitVec 10) (s : State),
    let enter (i : Instr) (c e : Word) : Prop :=
      (c = 0 → Jumps i s (e + 4)) ∧
      (c ≠ 0 → s.core.loops.length = 4 → Raises i s { cls := .loopDepth }) ∧
      (c ≠ 0 → s.core.loops.length < 4 →
        exec i s = .next ((s.setCore { s.core with loops := { start := s.core.pc + 4, stop := e, count := c } :: s.core.loops }).jump
          (s.core.pc + 4)))
    let leave (i : Instr) (yes : Prop) : Prop :=
      (s.core.loops = [] → Raises i s { cls := .loopDepth }) ∧
      (∀ f fs, s.core.loops = f :: fs →
        (yes → exec i s = .next ((s.setCore { s.core with loops := fs }).jump (f.stop + 4))) ∧ (¬yes → exec i s = .next s.retire))
    (Avail s [a] [] [] → enter (.loop a k) (s.g a) (wrap32 (s.core.pc.toNat + 4 * k.toInt))) ∧
    (Avail s [] [] [] → enter (.loopi n m) (wrap32 n.toNat) (wrap32 (s.core.pc.toNat + 4 * m.toNat))) ∧
    (Avail s [a] [] [] → leave (.lbrk a) (s.g a ≠ 0) ∧ leave (.lbrkZ a) (s.g a = 0))

/-- Branches, jumps and hardware loops. -/
def Obligations.ControlFlow : Prop := Claim.BranchesAndJumps ∧ Claim.HardwareLoops

/-- R171: what retirement does to the PC and the loop stack; R133: the next issue is in the next cycle or, with a stall count, later. -/
def Obligations.RetirementAndBackEdge : Prop :=
  ∀ (s : State) (stall : BitVec 3),
    let c := s.core
    (s.retirePriv stall).core.next = s.now + 1 + stall.toNat ∧ s.retire = s.retirePriv 0 ∧
    (∀ f fs, c.loops = f :: fs → f.stop = c.pc → 1 < f.count.toNat →
      (s.retirePriv stall).core.pc = f.start ∧ (s.retirePriv stall).core.loops = { f with count := f.count - 1 } :: fs) ∧
    (∀ f fs, c.loops = f :: fs → f.stop = c.pc → f.count.toNat ≤ 1 → (∀ g gs, fs = g :: gs → g.stop ≠ c.pc) →
      (s.retirePriv stall).core.pc = f.stop + 4 ∧ (s.retirePriv stall).core.loops = fs) ∧
    (∀ f g fs, c.loops = f :: g :: fs → f.stop = c.pc → f.count.toNat ≤ 1 → g.stop = c.pc → 1 < g.count.toNat →
      (s.retirePriv stall).core.pc = g.start ∧ (s.retirePriv stall).core.loops = { g with count := g.count - 1 } :: fs) ∧
    ((∀ f fs, c.loops = f :: fs → f.stop ≠ c.pc) →
      (s.retirePriv stall).core.pc = c.pc + 4 ∧ (s.retirePriv stall).core.loops = c.loops)

/-- R156, R135: a write to a g register is what a later read gives, overtakes a result in flight to it and leaves the other registers; g0
reads zero whatever is written to it. -/
def Claim.ScalarRegisterFile : Prop :=
  ∀ (s : State) (d r : GReg) (v : Word),
    s.g 0 = 0 ∧ s.putG 0 v = s ∧
    (d ≠ 0 → (s.putG d v).g d = v) ∧
    (d ≠ 0 → ∀ f ∈ (s.putG d v).core.flight, f.land.reg ≠ .g d) ∧
    (r ≠ d → (s.putG d v).g r = s.g r) ∧
    OnlyCore s (s.putG d v) ∧
    (s.putG d v).core.h = s.core.h ∧ (s.putG d v).core.pc = s.core.pc ∧ (s.putG d v).core.loops = s.core.loops

/-! ### Scratch -/

/-- R163: loads, with the effective address wrapped, sign or zero extension, and every byte of memory as before. -/
def Claim.ScalarLoads : Prop :=
  ∀ (d a : GReg) (i : BitVec 15) (k : Nat) (s : State), Avail s [a] [] [d] →
    let at_ := wrap32 ((s.g a).toNat + i.toInt)
    (Reach s a at_ 1 1 1 k →
      Gives (.lb d a i) s d ((Mem.read s.mem k).signExtend 32) ∧ Gives (.lbu d a i) s d ((Mem.read s.mem k).zeroExtend 32)) ∧
    (Reach s a at_ 2 2 1 k →
      let x : BitVec 16 := Mem.read s.mem (k + 1) ++ Mem.read s.mem k
      Gives (.lh d a i) s d (x.signExtend 32) ∧ Gives (.lhu d a i) s d (x.zeroExtend 32)) ∧
    (Reach s a at_ 4 4 1 k →
      Gives (.lw d a i) s d (Mem.read s.mem (k + 3) ++ Mem.read s.mem (k + 2) ++ Mem.read s.mem (k + 1) ++ Mem.read s.mem k))

/-- R163, R5: a store writes the low bytes of gs, least significant first, and no other byte but those of live barrier slots that it
touches (R96); the registers stay. -/
def Claim.ScalarStores : Prop :=
  ∀ (g a : GReg) (i : BitVec 15) (k : Nat) (s : State), Avail s [g, a] [] [] →
    let at_ := wrap32 ((s.g a).toNat + i.toInt)
    let stores (x : Instr) (n : Nat) : Prop := Reach s a at_ n n 2 k →
      ∃ t : State, exec x s = .next t.retire ∧ MemSameBut s t k n ∧ t.tile = s.tile ∧ t.rest = s.rest ∧
        ((∀ b ∈ s.bars, k + n ≤ b ∨ b + 16 ≤ k) →
          ∀ j, j < n → Mem.read t.mem (k + j) = (fld (8 * j) 8 (s.g g) : BitVec 8))
    stores (.sb g a i) 1 ∧ stores (.sh g a i) 2 ∧ stores (.sw g a i) 4

/-- Scalar loads and stores. -/
def Obligations.ScalarLoadsAndStores : Prop := Claim.ScalarLoads ∧ Claim.ScalarStores

/-- R163: the checks of a scalar access in their order, for each width: the trap names the access and the address. -/
def Obligations.ScalarAccessFaults : Prop :=
  ∀ (g a : GReg) (i : BitVec 15) (s : State),
    let stops (base : Word) (x : Instr) (n acc : Nat) : Prop :=
      let at_ := (wrap32 (base.toNat + i.toInt)).toNat
      (at_ % n ≠ 0 → Raises x s { cls := .misalign, access := acc, addr := at_ }) ∧
      (at_ % n = 0 → scratchKey s at_ n = none → Raises x s { cls := .scratchRange, access := acc, addr := at_ }) ∧
      (at_ % n = 0 → scratchKey s at_ n ≠ none → a = 2 → at_ < s.core.stklim.toNat →
        Raises x s { cls := .stackLimit, access := acc, addr := at_ })
    let faults := stops (s.g a)
    (Avail s [a] [] [g] →
      faults (.lb g a i) 1 1 ∧ faults (.lbu g a i) 1 1 ∧ faults (.lh g a i) 2 1 ∧ faults (.lhu g a i) 2 1 ∧ faults (.lw g a i) 4 1) ∧
    (AvailIssued s [a] [g] → stops (s.opd a) (.lld g a i) 4 1) ∧
    (Avail s [g, a] [] [] →
      faults (.sb g a i) 1 2 ∧ faults (.sh g a i) 2 2 ∧ faults (.sw g a i) 4 2 ∧ faults (.sul g a i) 4 2)

/-- R98, R99, R165, R166: load-lock and store-unlock where they take effect, where they wait and where they raise; each scratch atomic,
which a bit held by its own core does not block. An lld leaves a live barrier slot undefined (R96); one that waits keeps the operands that
it read at its issue (R411). -/
def Obligations.LocksAndScratchAtomics : Prop :=
  ∀ (d a b : GReg) (i : BitVec 15) (k : Nat) (s : State),
    let l := lockOf k
    let old : Word := Mem.read s.mem (k + 3) ++ Mem.read s.mem (k + 2) ++ Mem.read s.mem (k + 1) ++ Mem.read s.mem k
    let y := s.opd b
    let swaps (x : Instr) (rs : List GReg) (new : Word) : Prop :=
      (s.lockBlocked l = false → Settled s → exec x s = .next (((s.lockServed l).storeNat k 4 new.toNat).putG d old).retire) ∧
      (s.lockBlocked l = true → exec x s = .next ((s.lockWait l).parkIssued rs .other))
    (let at_ := wrap32 ((s.opd a).toNat + i.toInt)
     AvailIssued s [a] [d] → Reach s a at_ 4 4 1 k →
      (s.heldLock = none → s.lockBlocked l = false →
        exec (.lld d a i) s = .next ((((s.lockServed l).lock l).putG d old).spoil k 4).retire) ∧
      (s.heldLock = none → s.lockBlocked l = true → exec (.lld d a i) s = .next ((s.lockWait l).parkIssued [a] .other)) ∧
      (s.heldLock ≠ none → Raises (.lld d a i) s { cls := .lockState, access := 1, addr := at_.toNat })) ∧
    (let at_ := wrap32 ((s.g a).toNat + i.toInt)
     Avail s [d, a] [] [] → Reach s a at_ 4 4 2 k → Settled s →
      (s.core.lost = false → ∀ x, s.heldLock = some x → (x.bank, x.bit) = l →
        exec (.sul d a i) s = .next ((s.unlock l).storeNat k 4 (s.g d).toNat).retire) ∧
      (s.core.lost = false → (∀ x, s.heldLock = some x → (x.bank, x.bit) ≠ l) →
        Raises (.sul d a i) s { cls := .lockState, access := 2, addr := at_.toNat }) ∧
      (s.core.lost = true →
        exec (.sul d a i) s = .next ((s.setCore { s.core with lost := false }).takeTrap (some s.sel)
          { cls := .lockLost, access := 2, addr := at_.toNat }))) ∧
    (AvailIssued s [a, b] [d] → Reach s a (s.opd a) 4 4 4 k →
      swaps (.amoAdd d a b) [a, b] (wrap32 (old.toNat + y.toNat)) ∧
      swaps (.amoMin d a b) [a, b] (if old.toInt ≤ y.toInt then old else y) ∧
      swaps (.amoMax d a b) [a, b] (if old.toInt ≤ y.toInt then y else old) ∧
      swaps (.amoAnd d a b) [a, b] (old &&& y) ∧
      swaps (.amoOr d a b) [a, b] (old ||| y) ∧
      swaps (.amoXor d a b) [a, b] (old ^^^ y) ∧
      swaps (.amoSwap d a b) [a, b] y) ∧
    (AvailIssued s [a, b, d] [d] → Reach s a (s.opd a) 4 4 4 k → swaps (.amoCas d a b) [a, b, d] (if old = s.opd d then y else old))

/-! ### Tokens, barriers, fences -/

/-- R43, R44, R46, R47, R49, R50: the token instructions: where they take effect, where they wait and where a poisoned head raises its fault;
a token shows no earlier than the port pushes that it releases. -/
def Obligations.TokenInstructions : Prop :=
  ∀ (d a : GReg) (n : BitVec 1) (c : BitVec 3) (g : BitVec 5) (s : State),
    let o := nbr s.sel (n == 1)
    let puts (i : Instr) (tk : Byte) : Prop :=
      (1 ≤ (s.tile.q.get s.sel o).free s.now → exec i s = .next (mapQueue s s.sel o (afterPut · (.filled tk s.landBy))).retire) ∧
      ((s.tile.q.get s.sel o).free s.now = 0 → Waits i s .reserve)
    let takes (i : Instr) (cl : BitVec 3) : Prop :=
      (∀ tk at_ rest, (s.tile.q.get o s.sel).slots = .filled tk at_ :: rest →
        (at_ < s.now → tokenClass tk = cl →
          exec i s = .next ((mapQueue s o s.sel (afterTake · s.now)).putG d (tk.zeroExtend 32)).retire) ∧
        ((s.now ≤ at_ ∨ tokenClass tk ≠ cl) → Waits i s .take)) ∧
      (∀ w t rest, (s.tile.q.get o s.sel).slots = .poisoned w t :: rest → Raises i s t) ∧
      (∀ w rest, (s.tile.q.get o s.sel).slots = .pending w :: rest → Waits i s .take) ∧
      ((s.tile.q.get o s.sel).slots = [] → Waits i s .take)
    (Avail s [] [] [] → puts (.qput n c g) (c ++ g)) ∧
    (Avail s [a] [] [] → puts (.qputReg a n) ((s.g a).truncate 8)) ∧
    (Avail s [] [] [d] → takes (.qtake d n c) c) ∧
    (Avail s [a] [] [d] → takes (.qtakeReg d a n) ((s.g a).truncate 3)) ∧
    (Avail s [] [] [d] →
      (∀ tk at_ rest, (s.tile.q.get o s.sel).slots = .filled tk at_ :: rest →
        Gives (.qpeek d n) s d (if at_ < s.now then tk.zeroExtend 32 else 0xFFFFFFFF)) ∧
      (∀ w rest, (s.tile.q.get o s.sel).slots = .pending w :: rest → Gives (.qpeek d n) s d 0xFFFFFFFF) ∧
      ((s.tile.q.get o s.sel).slots = [] → Gives (.qpeek d n) s d 0xFFFFFFFF) ∧
      (∀ w t rest, (s.tile.q.get o s.sel).slots = .poisoned w t :: rest → Raises (.qpeek d n) s t) ∧
      Gives (.qcount d n) s d (wrap32 ((s.tile.q.get o s.sel).run s.now + 256 * (s.tile.q.get s.sel o).free s.now)))

/-- R93, R174: what each operation does to the fields of a slot; ERR set with a cause keeps the first cause. -/
def Claim.BarrierSlotOperations : Prop :=
  ∀ (x : Bar) (n b : Nat) (c : BitVec 64),
    let err (y : Bar) (e : Nat) : Bar := if y.err then y else { y with err := true, ecode := e }
    let flip (y : Bar) : Bar := if y.isOpen = true ∧ y.pend = 0 ∧ y.bytes = 0 then { y with phase := !y.phase, isOpen := false } else y
    (n < 2 ^ 16 →
      Bar.init n b = { phase := false, err := false, live := true, isOpen := decide (0 < n + b), ecode := 0, pend := n, bytes := b, chunk := 0 }) ∧
    (2 ^ 16 ≤ n →
      Bar.init n b = { phase := false, err := true, live := true, isOpen := decide (0 < b), ecode := 2, pend := 0, bytes := b, chunk := 0 }) ∧
    (x.pend + n < 2 ^ 16 → x.bytes + b < 2 ^ 32 →
      x.expect n b false = flip { x with pend := x.pend + n, bytes := x.bytes + b, isOpen := true } ∧
      x.expect n b true =
        flip { x with chunk := 0, err := false, ecode := 0, pend := x.pend + n, bytes := x.bytes + b, isOpen := true }) ∧
    (2 ^ 16 ≤ x.pend + n → x.bytes + b < 2 ^ 32 →
      x.expect n b false = flip (err { x with bytes := x.bytes + b, isOpen := true } 2)) ∧
    (x.pend + n < 2 ^ 16 → 2 ^ 32 ≤ x.bytes + b →
      x.expect n b false = flip (err { x with pend := x.pend + n, isOpen := true } 1)) ∧
    (x.pend = 0 → x.arrive = err x 2) ∧
    (0 < x.pend → x.arrive = flip { x with pend := x.pend - 1 }) ∧
    (x.bytes < n → x.credit n c = err { x with bytes := 0 } 1) ∧
    (n ≤ x.bytes → x.credit n c = flip { x with bytes := x.bytes - n, chunk := x.chunk ||| c })

/-- R92, R93: a slot written is the slot read back, with all of its fields, and no byte outside its 16 changes. -/
def Claim.BarrierSlotReadsBack : Prop :=
  ∀ (s : State) (k : Nat) (x : Bar), x.ecode < 8 → x.pend < 2 ^ 16 → x.bytes < 2 ^ 32 →
    (s.putBar k x).bar k = x ∧ ∀ a, (a < k ∨ k + 16 ≤ a) → Mem.read (s.putBar k x).mem a = Mem.read s.mem a

/-- Barrier slots. -/
def Obligations.BarrierSlots : Prop := Claim.BarrierSlotOperations ∧ Claim.BarrierSlotReadsBack

/-- R93, R174: the barrier instructions that do not wait, on a slot that they reach: their effect, BAR.LIVE and BAR.DEAD; an arrival
releases, and so comes when the stream's port pushes have landed (R211). -/
def Claim.BarrierUpdates : Prop :=
  ∀ (c a b d : GReg) (k : Nat) (s : State), SlotAt s (s.g a) k →
    let x := s.bar k
    let at_ := (s.g a).toNat
    let dead (i : Instr) : Prop := x.live = false → Raises i s { cls := .barDead, addr := at_ }
    (Avail s [c, a, b] [] [] →
      (x.live = true → Raises (.barInit c a b) s { cls := .barLive, addr := at_ }) ∧
      (x.live = false → ∃ t : State, exec (.barInit c a b) s = .next t.retire ∧ t.mem = (s.putBar k (Bar.init (s.g c).toNat (s.g b).toNat)).mem ∧
        k ∈ t.bars ∧ t.core = s.core) ∧
      dead (.barExpect c a b) ∧ dead (.barExpectClr c a b) ∧
      (x.live = true →
        exec (.barExpect c a b) s = .next (s.putBar k (x.expect (s.g c).toNat (s.g b).toNat false)).retire ∧
        exec (.barExpectClr c a b) s = .next ((s.putBar k (x.expect (s.g c).toNat (s.g b).toNat true)).forgetErr k).retire)) ∧
    (Avail s [a] [] [] →
      dead (.barArrive a) ∧ (x.live = true → Settled s → exec (.barArrive a) s = .next (s.putBar k x.arrive).retire) ∧
      (x.live = true → ¬Settled s → Waits (.barArrive a) s .other)) ∧
    (Avail s [a, b] [] [d] →
      dead (.barTest d a b) ∧
      (x.live = true → Gives (.barTest d a b) s d
        (Mem.read s.mem (k + 3) ++ Mem.read s.mem (k + 2) ++ Mem.read s.mem (k + 1) ++ Mem.read s.mem k)))

/-- R93, R175, R176: the barrier instructions that wait after their issue, with the operands as they read them then (R411): where they
retire, where they wait, BAR.DEAD and BAR.ERROR. -/
def Claim.BarrierWaits : Prop :=
  ∀ (c a b : GReg) (k : Nat) (s : State), SlotAt s (s.opd a) k →
    let x := s.bar k
    let at_ := (s.opd a).toNat
    let m : BitVec 64 := s.opd c ++ s.opd b
    let dead (i : Instr) : Prop := x.live = false → Raises i s { cls := .barDead, addr := at_ }
    let waits (i : Instr) (rs : List GReg) (ended : Prop) : Prop :=
      dead i ∧ (x.live = true → s.core.wait ≠ .barGone →
        (x.err = true → Raises i s (barError s k (s.opd a))) ∧
        (x.err = false → ended → exec i s = .next s.retire) ∧
        (x.err = false → ¬ended → exec i s = .next (s.parkIssued rs (.bar k (isTileKey k))))) ∧
      (s.core.wait = .barGone → Raises i s { cls := .barDead, addr := at_ })
    (AvailIssued s [c, a, b] [] → waits (.barWaitchk c a b) [c, a, b] (x.chunk &&& m = m)) ∧
    (AvailIssued s [a, b] [] → waits (.barWait a b) [a, b] (x.phase ≠ (s.opd b).getLsbD 0)) ∧
    (AvailIssued s [a] [] →
      dead (.barRetire a) ∧
      (x.live = true → s.tile.naming k = [] → (∀ r ∈ s.reqs, r.tid ≠ s.tile.task.id ∨ (r.dbar ≠ some k ∧ r.sbar ≠ some k)) →
        exec (.barRetire a) s = .next (s.retireSlot k).retire ∧ (s.retireSlot k).mem = (s.writeNat k 16 0).mem) ∧
      (x.live = true → (∃ o ∈ s.tile.naming k, o.fault = none) → (∀ o ∈ s.tile.naming k, o.fault = none ∨ o.reported = true) →
        exec (.barRetire a) s = .next (s.parkIssued [a] .other)))

/-- The barrier instructions. -/
def Obligations.BarrierInstructions : Prop := Claim.BarrierUpdates ∧ Claim.BarrierWaits

/-- R115, R123, R409: the fences retire where nothing that they cover is missing and no fault of the stream waits to be reported; a fence
is a report point; a release waits for the stream's port pushes, at .pod for the acknowledgements, and fence.ack for those of the stream's
own remote writes. Within the package every write is visible at once (log 4, the model's choice). -/
def Claim.Fences : Prop :=
  ∀ (sc : BitVec 3) (s : State), Avail s [] [] [] →
    (s.tile.unreported s.sel = none →
      (sc ≠ 4 → Settled s → exec (.fenceRel sc) s = .next s.relDone.retire ∧ exec (.fenceAr sc) s = .next s.relDone.retire) ∧
      (¬Settled s → (sc ≠ 4 ∨ s.core.relBad = none) → Waits (.fenceRel sc) s .other ∧ Waits (.fenceAr sc) s .other) ∧
      (s.core.relBad = none → Settled s →
        (s.podCovered (fun _ => false) (fun _ => false) = true →
          exec (.fenceRel 4) s = .next s.relDone.retire ∧ exec (.fenceAr 4) s = .next s.relDone.retire) ∧
        (s.podCovered (fun _ => false) (fun _ => false) = false →
          exec (.fenceRel 4) s = .next (s.relWait none) ∧ exec (.fenceAr 4) s = .next (s.relWait none))) ∧
      exec (.fenceAcq sc) s = .next s.retire ∧
      (s.ownRemote = false → exec .fenceAck s = .next s.retire) ∧
      (s.ownRemote = true → Waits .fenceAck s .other)) ∧
    (∀ t, s.core.relBad = some t → Raises (.fenceRel 4) s t ∧ Raises (.fenceAr 4) s t) ∧
    (∀ t, s.tile.unreported s.sel = some t →
      (sc ≠ 4 → Raises (.fenceRel sc) s t ∧ Raises (.fenceAr sc) s t) ∧ Raises (.fenceAcq sc) s t ∧ Raises .fenceAck s t)

/-- R51, R52, R178, R179: hbar.tile completes when the two other streams have arrived or are done, and else waits with its arrival made;
a wider scope needs a gang; at each scope the instruction retires when its episode is complete, and arrives once the stream's port pushes
have landed. -/
def Claim.HardwareBarrier : Prop :=
  ∀ (sc : BitVec 3) (s : State), Avail s [] [] [] → sc.toNat ≤ 4 →
    (sc ≠ 0 → s.tile.task.gang = false → Raises (.hbar sc) s { cls := .hbarScope }) ∧
    ((sc = 0 ∨ s.tile.task.gang = true) → s.core.relBad = none → s.tile.unreported s.sel = none → Settled s →
      (sc = 4 → s.core.hbarIn = none → s.podCovered (fun _ => false) (fun _ => false) = true) →
      let t := (s.relDone.hbarArrive (scopeFin sc)).hbarTell (scopeFin sc)
      (t.hbarComplete (scopeFin sc) = true → exec (.hbar sc) s = .next (t.setCore { t.core with hbarIn := none }).retire) ∧
      (t.hbarComplete (scopeFin sc) = false → exec (.hbar sc) s = .next (t.park (if sc = 0 then .hbarTile else .other))) ∧
      (s.core.hbarIn = none → t.core.hbarN[scopeFin sc] = s.core.hbarN[scopeFin sc] + 1) ∧
      (s.core.hbarIn = none →
        ((sc = 0 ∧ ∀ c, c ≠ s.sel → (s.tile.core c).fin = true ∨ s.core.hbarN[0] < (s.tile.core c).hbarN[0]) →
          t.hbarComplete 0 = true))) ∧
    (sc = 4 → s.tile.task.gang = true → s.core.relBad = none → s.tile.unreported s.sel = none → Settled s → s.core.hbarIn = none →
      s.podCovered (fun _ => false) (fun _ => false) = false → exec (.hbar sc) s = .next (s.relWait none))

/-- Fences and hardware barriers. -/
def Obligations.FencesAndHardwareBarriers : Prop := Claim.Fences ∧ Claim.HardwareBarrier

/-! ### CSRs, handles, system -/

/-- R31, R180, R181: what each CSR reads, what a write stores, and CSR.ACCESS; a read of TIME latches its high half. -/
def Claim.ControlRegisters : Prop :=
  ∀ (d a : GReg) (c : BitVec 12) (s : State),
    let x := s.g a
    let compute : Prop := s.sel = .compute
    let frame (n : Nat) (f : LoopFrame → Word) : Word := match s.core.loops.reverse[n]? with | some y => f y | none => 0
    let table : List (Nat × Bool × Bool × Word) :=
      [(0x000, false, true, wrap32 (s.core.precise.toNat + 2 * s.core.checkstall.toNat)), (0x001, false, true, s.core.stklim),
       (0x002, false, false, s.place), (0x003, false, false, s.tokstat), (0x005, false, false, s.core.timeh),
       (0x008, false, false, wrap32 s.core.loops.length),
       (0x010, false, false, frame 0 (·.start)), (0x011, false, false, frame 1 (·.start)), (0x012, false, false, frame 2 (·.start)),
       (0x013, false, false, frame 3 (·.start)), (0x014, false, false, frame 0 (·.stop)), (0x015, false, false, frame 1 (·.stop)),
       (0x016, false, false, frame 2 (·.stop)), (0x017, false, false, frame 3 (·.stop)), (0x018, false, false, frame 0 (·.count)),
       (0x019, false, false, frame 1 (·.count)), (0x01A, false, false, frame 2 (·.count)), (0x01B, false, false, frame 3 (·.count)),
       (0x0A0, true, false, s.tile.vallot.zeroExtend 32), (0x0A1, true, true, s.tile.vgrp.zeroExtend 32),
       (0x0B0, true, false, s.tile.ringHd.zeroExtend 32), (0x0B1, true, false, s.tile.ringTl.zeroExtend 32),
       (0x0C0, true, true, wrap32 s.tile.rmode.code), (0x0C1, true, true, s.tile.lfsrc), (0x0C2, true, true, s.tile.lfsre)]
    let denied (i : Instr) : Prop := Raises i s { cls := .csrAccess }
    (∀ n onCompute rw old, (n, onCompute, rw, old) ∈ table → c.toNat = n → (onCompute = true → compute) →
      (Avail s [] [] [d] → Gives (.csrR d c) s d old) ∧
      (Avail s [a] [] [d] →
        (rw = true → exec (.csrW d a c) s = .next ((s.putCsr n x).putG d old).retire) ∧
        (rw = true → a ≠ 0 → exec (.csrS d a c) s = .next ((s.putCsr n (old ||| x)).putG d old).retire ∧
          exec (.csrC d a c) s = .next ((s.putCsr n (old &&& ~~~x)).putG d old).retire) ∧
        (a = 0 → Gives (.csrS d a c) s d old ∧ Gives (.csrC d a c) s d old) ∧
        (rw = false → denied (.csrW d a c) ∧ (a ≠ 0 → denied (.csrS d a c) ∧ denied (.csrC d a c))))) ∧
    (Avail s [] [] [d] →
      let t := s.guestTime s.tile.task.cnum
      let u := s.setCore { s.core with timeh := fld 32 32 t }
      exec (.time d) s = .next (u.putG d (t.truncate 32)).retire ∧ (c = 4 → exec (.csrR d c) s = exec (.time d) s)) ∧
    (Avail s [] [] [d] → ((∀ y ∈ table, c.toNat ≠ y.1) → c ≠ 4 → denied (.csrR d c)) ∧
      ((∃ y ∈ table, c.toNat = y.1 ∧ y.2.1 = true) → ¬compute → denied (.csrR d c)))

/-- R65, R180, R181: what a CSR write stores: reserved bits dropped, VGRP and RMODE mapped, an LFSR seed of 0 stored as 1; nothing else
changes. -/
def Claim.ControlRegisterWrites : Prop :=
  ∀ (x : Word) (s : State),
    s.putCsr 0x000 x = s.setCore { s.core with precise := x.getLsbD 0, checkstall := x.getLsbD 1 } ∧
    s.putCsr 0x001 x = s.setCore { s.core with stklim := x } ∧
    (∀ n : Nat, n = x.toNat % 16 →
      s.putCsr 0x0A1 x = s.setTile { s.tile with vgrp := if n = 0 then 1 else if 8 < n then 8 else BitVec.ofNat 4 n }) ∧
    (∀ m : Rm, (m.code = x.toNat % 8 ∨ (m = .rne ∧ ∀ r : Rm, r.code ≠ x.toNat % 8)) →
      s.putCsr 0x0C0 x = s.setTile { s.tile with rmode := m }) ∧
    s.putCsr 0x0C1 x = s.setTile { s.tile with lfsrc := if x = 0 then 1 else x } ∧
    s.putCsr 0x0C2 x = s.setTile { s.tile with lfsre := if x = 0 then 1 else x }

/-- Control and status registers. -/
def Obligations.CsrInstructions : Prop := Claim.ControlRegisters ∧ Claim.ControlRegisterWrites

/-- R86, R89, R182, R183: the handle instructions bit by bit: each field code reads and writes exactly its bits, LOCK is never written,
and a write to a handle that is the source of a running mma waits. -/
def Obligations.HandleInstructions : Prop :=
  ∀ (h m : HReg) (a d : GReg) (f : BitVec 5) (lo n k : Nat) (s : State),
    let locked : Prop := s.sel = .compute ∧ s.tile.locked h = true
    let fields : List (BitVec 5 × Nat × Nat) :=
      [(0, 0, 32), (1, 32, 16), (2, 48, 2), (3, 50, 4), (4, 54, 16), (5, 70, 16), (6, 86, 16), (7, 102, 16), (8, 118, 32), (9, 150, 32),
       (10, 182, 32), (11, 214, 24), (12, 238, 1), (13, 239, 1), (14, 246, 10)]
    let word : BitVec 256 := BitVec.ofNat 256 (leNat (Mem.readRange s.mem k 32))
    (Avail s [a] [] [] → Reach s a (s.g a) 32 32 1 k →
      ((fld 50 4 word : BitVec 4).toNat ≤ 10 → ¬locked → exec (.hld h a) s = .next (s.putH h word).retire) ∧
      ((fld 50 4 word : BitVec 4).toNat ≤ 10 → locked → Waits (.hld h a) s .other) ∧
      (10 < (fld 50 4 word : BitVec 4).toNat → Raises (.hld h a) s { cls := .tagCheck })) ∧
    (Avail s [a] [] [] → Reg.h h ∉ s.core.bad → Reach s a (s.g a) 32 32 2 k →
      exec (.hst h a) s = .next (s.storeNat k 32 (s.h h).toNat).retire) ∧
    (Avail s [a] [] [] → Reg.h h ∉ s.core.bad → (f, lo, n) ∈ fields →
      ((f = 3 ∧ 10 < (s.g a).toNat % 16) → Raises (.hset h a f) s { cls := .tagCheck }) ∧
      (¬(f = 3 ∧ 10 < (s.g a).toNat % 16) → ¬locked →
        ∃ x : BitVec 256, exec (.hset h a f) s = .next (s.putH h x).retire ∧
          ∀ j, j < 256 → x.getLsbD j = if lo ≤ j ∧ j < lo + n then (s.g a).getLsbD (j - lo) else (s.h h).getLsbD j) ∧
      (¬(f = 3 ∧ 10 < (s.g a).toNat % 16) → locked → Waits (.hset h a f) s .other)) ∧
    (Avail s [] [] [d] → Reg.h h ∉ s.core.bad → (f, lo, n) ∈ fields →
      Gives (.hget d h f) s d (wrap32 (fld lo n (s.h h) : BitVec n).toNat)) ∧
    (Avail s [] [] [] → Reg.h m ∉ s.core.bad →
      (¬locked → exec (.hmov h m) s = .next (s.putH h (s.h m)).retire) ∧ (locked → Waits (.hmov h m) s .other))

/-- R89, R183: a write to a handle register is what a later read gives, with LOCK as the hardware holds it; the others stay. -/
def Claim.HandleRegisterFile : Prop :=
  ∀ (s : State) (h r : HReg) (x : BitVec 256) (j : Nat), j < 256 →
    ((s.putH h x).h h).getLsbD j = (if j = 239 then decide (s.sel = .compute) && s.tile.locked h else x.getLsbD j) ∧
    (r ≠ h → (s.putH h x).h r = s.h r) ∧ OnlyCore s (s.putH h x) ∧ (∀ g, (s.putH h x).g g = s.g g)

/-- The scalar and the handle registers. -/
def Obligations.RegisterFiles : Prop := Claim.ScalarRegisterFile ∧ Claim.HandleRegisterFile

/-- R38, R185, R425: the system instructions and reserved encodings: ecall retires and then raises, ebreak and a reserved word raise
without retiring; done ends the stream, drops its loop frames and lock bits, and reports a fault of the stream that waits; it waits for port pushes (R211).
The end of a stream of a gang's task is told to the other packages where it was the last of its kind (R179). -/
def Obligations.SystemInstructions : Prop :=
  ∀ (w : Word) (s : State), Avail s [] [] [] →
    exec .nop s = .next s.retire ∧
    exec .yield s = .next s.retire ∧
    exec .ecall s = .next (s.retire.takeTrap (some s.sel) { cls := .ecall, pc := some s.core.pc }) ∧
    Raises .ebreak s { cls := .brk } ∧
    Raises (.reservedEncoding w) s { cls := .opReserved } ∧
    (s.tile.unreported s.sel = none → Settled s →
      ∃ t : State, exec .done s = .next t ∧ t.core.fin = true ∧ t.core.loops = [] ∧ t.core.g = s.core.g ∧ t.mem = s.mem ∧
        (∀ l ∈ t.locks, ¬(l.tile = s.tile.ptile ∧ l.core = s.sel)) ∧
        ((∃ c, c ≠ s.sel ∧ (s.tile.core c).fin = false) → t.core.pc = s.core.pc + 4 ∧ (s.tile.task.gang = false → t.due = s.due))) ∧
    (s.tile.unreported s.sel = none → ¬Settled s → Waits .done s .other) ∧
    (∀ t, s.tile.unreported s.sel = some t → Raises .done s t)

/-- R410, R411: a fault begins the task's stop: no stream of the task issues, the registers and memory stay as they are, and the capture
follows in the same cycle; a fault raised after a stop has begun is not raised. -/
def Obligations.TakingATrap : Prop :=
  ∀ (s : State) (c : Option CoreId) (t : Trap),
    (∀ x, s.tile.stop = some x → s.takeTrap c t = s) ∧
    (s.tile.stop = none →
      let u := s.takeTrap c t
      u.tile.stop = some { trap := t, core := c, captured := false } ∧
      (∀ k, ({ u with sel := k } : State).mayIssue = false) ∧
      (∀ k, (u.tile.core k).pc = (s.tile.core k).pc ∧ (u.tile.core k).g = (s.tile.core k).g ∧ (u.tile.core k).h = (s.tile.core k).h ∧
        (u.tile.core k).loops = (s.tile.core k).loops) ∧
      u.mem = s.mem ∧ u.rest = s.rest ∧ u.tile.q = s.tile.q ∧ u.tile.v = s.tile.v ∧ u.tile.p = s.tile.p ∧
      (⟨s.now, .stopCapture, .tile s.tile.ptile⟩ : Due) ∈ u.due ∧ (∀ e ∈ s.due, e ∈ u.due) ∧
      (∀ w ∈ u.lockq, w.2.2.1 ≠ s.tile.ptile))

/-! ### cop requests -/

/-- R265, R277, R278, R280, R281, R285 to R298: the functions without barriers or destinations: with arguments that leave the reserved bits
zero and stay in range the request is sent; else COP.ARG. -/
def Claim.CopRequestsSent : Prop :=
  ∀ (d a b : GReg) (m : BitVec 2) (s : State),
    let x := s.opd a
    let y := s.opd b
    let cop (i : Instr) (fn7 n : Nat) (ok : List Byte → Prop) : Prop := ∀ bs, CopReady s d a b m n bs →
      (ok bs → Sends i s fn7 d a b m bs {}) ∧ (¬ok bs → Raises i s { cls := .copArg })
    let cref : Prop := y.toNat < 2 ^ 20
    let node : Prop := y.toNat < 2 ^ 12 ∧ x.toNat % 64 = 0
    cop (.cstat d a b m) 0x06 0 (fun _ => x = 0 ∧ y = 0) ∧
    cop (.ptabSet d a b m) 0x20 64 (fun _ => y.toNat < 4096) ∧
    cop (.meshSet d a b m) 0x23 64 (fun _ => y.toNat < 64) ∧
    cop (.rsPlan d a b m) 0x30 32 (fun bs => y = 0 ∧ blockNat bs 0 2 < 4096 ∧ blockNat bs 2 2 < 4096 ∧ blockNat bs 4 8 < 2 ^ 44 ∧
      blockNat bs 4 8 % 64 = 0 ∧ blockZero bs 12 32 = true) ∧
    cop (.rsStatus d a b m) 0x33 0 (fun _ => x = 0 ∧ y.toNat < 16) ∧
    cop (.rsAbort d a b m) 0x34 0 (fun _ => x = 0 ∧ y.toNat < 16) ∧
    cop (.ctxCreate d a b m) 0x50 32 (fun bs => createArgs x y bs = true) ∧
    cop (.ctxGrant d a b m) 0x51 32 (fun bs => grantArgs x y bs = true) ∧
    cop (.ctxRevoke d a b m) 0x52 32 (fun bs => grantArgs x y bs = true) ∧
    cop (.ctxDestroy d a b m) 0x53 0 (fun _ => x = 0 ∧ cref) ∧
    cop (.ctxBudget d a b m) 0x54 0 (fun _ => budgetArgs x y [] = true) ∧
    cop (.ctxKey d a b m) 0x55 0 (fun _ => x = 0 ∧ cref) ∧
    cop (.ctxScrub d a b m) 0x56 32 (fun bs => grantArgs x y bs = true) ∧
    cop (.ctxReceipt d a b m) 0x57 16 (fun bs => cref ∧ blockNat bs 0 8 % 4096 = 0 ∧ blockNat bs 0 8 < 2 ^ 44 ∧ blockZero bs 12 16 = true) ∧
    cop (.nodeLaunch d a b m) 0x60 0 (fun _ => node) ∧
    cop (.nodeStatus d a b m) 0x61 0 (fun _ => node) ∧
    cop (.logArm d a b m) 0x68 32 (fun bs => monitorArgs x y bs = true)

/-- R104, R265, R268, R277, R279, R281 to R284, R297, R298: the functions with a completion barrier in ga, with a destination in scratch,
and the future functions, whose reference names a package of the context's map. -/
def Claim.CopRequestsWithBarriers : Prop :=
  ∀ (d a b : GReg) (m : BitVec 2) (s : State),
    let x := s.opd a
    let y := s.opd b
    let barred (i : Instr) (fn7 : Nat) (ok : Prop) : Prop := CopReady s d a b m 0 [] →
      (ok → x = 0 → Sends i s fn7 d a b m [] {}) ∧
      (ok → ∀ k, x ≠ 0 → BarAt s x.toNat k → Sends i s fn7 d a b m [] { dbar := some k }) ∧
      (ok → x.toNat % 16 ≠ 0 → Raises i s { cls := .misalign, addr := x.toNat }) ∧
      (¬ok → Raises i s { cls := .copArg })
    let dest (i : Instr) (fn7 al n : Nat) (ok : Prop) : Prop := CopReady s d a b m 0 [] →
      (ok → ∀ k, Reach s a x al n 2 k → Sends i s fn7 d a b m [] {}) ∧
      (ok → x.toNat % al ≠ 0 → Raises i s { cls := .misalign, access := 2, addr := x.toNat }) ∧
      (¬ok → Raises i s { cls := .copArg })
    let future (i : Instr) (fn7 n : Nat) (ok : Prop) : Prop := ∀ bs e, CopReady s d a b m n bs →
      let pod := blockNat bs 0 8
      let rva := blockNat bs 8 8
      (ok → pod < 2 ^ 56 → pod % 16 = 0 → rva % 16 = 0 → rva < 2 ^ 44 → PkgIs s (pod / 2 ^ 44) e →
        (fn7 = 0x44 → y ≠ 0 → ∃ k, Reach s b y 8 8 2 k) → Sends i s fn7 d a b m bs {}) ∧
      (¬ok ∨ 2 ^ 56 ≤ pod ∨ pod % 16 ≠ 0 → Raises i s { cls := .copArg })
    barred (.placeConv d a b m) 0x22 (fld 21 11 y = 0 ∧ fld 12 3 y ≠ 7 ∧ fld 15 3 y ≠ 7 ∧ fld 18 3 y ≠ 7) ∧
    barred (.rsStart d a b m) 0x31 (y.toNat < 16) ∧
    barred (.rsResume d a b m) 0x32 (y.toNat < 16) ∧
    dest (.ptabGet d a b m) 0x21 16 64 (y.toNat < 4096) ∧
    dest (.timeRead d a b m) 0x6A 8 8 (y.toNat < 2 ^ 20) ∧
    (∀ bs k, CopReady s d a b m 16 bs → y.toNat < 2 ^ 20 → blockNat bs 0 1 < 64 → blockZero bs 1 4 = true → blockZero bs 8 16 = true →
      Reach s 0 (wrap32 (blockNat bs 4 4)) 32 32 2 k → Sends (.logRead d a b m) s 0x69 d a b m bs {}) ∧
    future (.futInit d a b m) 0x40 8 (y = 0) ∧
    future (.futResolve d a b m) 0x41 8 True ∧
    future (.futReg d a b m) 0x42 16 (y = 0) ∧
    future (.futPoison d a b m) 0x43 8 (y.toNat < 256) ∧
    future (.futRead d a b m) 0x44 8 True

/-- The cop functions at issue. -/
def Obligations.CopIssue : Prop := Claim.CopRequestsSent ∧ Claim.CopRequestsWithBarriers

/-- R271, R272, R275: the six collectives at issue: with a legal block, handles and barriers, in a gang, the request joins the stream's
next episode at the scope; at .pod it waits as a release does; outside a gang it raises HBAR.SCOPE. -/
def Obligations.CollectivesIssue : Prop :=
  ∀ (d a b : GReg) (m : BitVec 2) (s : State) (bs : List Byte) (db sb : Option Nat),
    let sc := scopeIx (collScope (blockCtl bs))
    let bar (at_ : Nat) (x : Option Nat) : Prop := (at_ = 0 ∧ x = none) ∨ (at_ ≠ 0 ∧ ∃ k, BarAt s at_ k ∧ x = some k)
    let issues (i : Instr) (fn7 : Nat) : Prop :=
      CopReady s d a b m (if fn7 = 5 then 32 else 96) bs → collOk fn7 bs (s.opd b) = true →
      (fn7 ≠ 5 → HandleOk s (blockSrc bs) false false ∧ HandleOk s (blockDst bs) false false) →
      bar (blockNat bs 8 4) db → bar (blockNat bs 12 4) sb →
      (s.tile.task.gang = false → Raises i s { cls := .hbarScope }) ∧
      (s.tile.task.gang = true → s.core.relBad = none →
        ((sc ≠ 4 ∨ s.podCovered (fun _ => false) (fun _ => false) = true) →
          ∃ t : State, t = s.relDone.setCore { s.relDone.core with collN := s.core.collN.set sc (s.core.collN[sc] + 1) } ∧
          exec i s = .next (t.sendReq (s.newReq fn7 m.toNat d (s.opd a) (s.opd b) bs
            { dbar := db, sbar := sb, ep := some (s.collKey sc) })) ∧ (s.collKey sc).ep = s.core.collN[sc] + 1) ∧
        (sc = 4 → s.podCovered (fun _ => false) (fun _ => false) = false → exec i s = .next ((s.relWait none).parkCop a b bs)))
    issues (.allreduce d a b m) 0 ∧ issues (.allgather d a b m) 1 ∧ issues (.reducescatter d a b m) 2 ∧ issues (.alltoall d a b m) 3 ∧
    issues (.bcast d a b m) 4 ∧ issues (.cbar d a b m) 5

/-- R144, R184, R408: what sending a request does in each reply mode: Wait holds the stream at the cop; Post and Async retire it, and Async
interlocks gd; under MODE.PRECISE the stream holds in every mode. When the engine takes the request up is the model's choice (log 8). -/
def Obligations.CopReplyModes : Prop :=
  ∀ (s : State) (r : Req), r.n = s.reqN → r.precise = s.core.precise →
    let t := s.sendReq r
    t.reqs = s.reqs ++ [r] ∧ t.reqN = s.reqN + 1 ∧ t.mem = s.mem ∧ (∃ e ∈ t.due, e.ev = .copReply ∧ e.arg = .num r.n ∧ s.now < e.at_) ∧
    (r.mode = 1 → t.core.hold = some (.reply r.n) ∧ t.core.pc = s.core.pc) ∧
    (r.mode ≠ 1 → t.core.pc = s.retire.core.pc ∧ t.core.loops = s.retire.core.loops ∧
      (s.core.precise = true → t.core.hold = some (.cop r.n r.pc)) ∧ (s.core.precise = false → t.core.hold = s.core.hold)) ∧
    (r.mode = 2 → r.gd ≠ 0 → (r.gd, .reply r.n) ∈ t.core.pend) ∧ ((r.mode = 0 ∨ r.gd = 0) → t.core.pend = s.core.pend)

/-! ### Transfers -/

/-- R197 to R200: the copies, the multicast, gather and scatter are accepted by the engine with legal control word, handles, equal byte
counts (or whole rows) and live barriers. -/
def Claim.CopiesAccepted : Prop :=
  ∀ (k : Tok) (a b : HReg) (c d : GReg) (e : BitVec 4) (p : Pair) (q : Option Nat × Option Nat) (list : Nat) (s : State),
    TokensReady s k → BteRoom s → Settled s →
    let x := s.h a
    let y := s.h b
    let copy (i : Instr) (opc : Nat) (g : GReg) (levels : Prop) : Prop :=
      Avail s [c, g] [] [] → CtlOk (s.g g) useCopy c → BarsOk s c (s.g g) q → HandleOk s x true false → HandleOk s y true false →
      Handle.bytes x = Handle.bytes y → HandleAligned x → HandleAligned y → levels →
      Accepts i s k (s.newOp opc .copy x y q (Handle.count x) none)
    let rows (i : Instr) (gather : Bool) : Prop :=
      let table := if gather then y else x
      let packed := if gather then x else y
      let l := Handle.ext table 0 * Handle.width table
      Avail s [c, pairLo p, pairHi p] [] [] → CtlOk (s.g (pairLo p)) (if gather then useIx else useCopy) c →
      BarsOk s c (s.g (pairLo p)) q → HandleOk s x true false → HandleOk s y true false →
      Handle.ext table 2 = 1 → Handle.ext table 3 = 1 → l ≠ 0 → Handle.bytes packed % l = 0 → HandleAligned x → HandleAligned y →
      (s.g (pairHi p)).toNat % 4 = 0 → scratchKey s (s.g (pairHi p)).toNat (4 * (Handle.bytes packed / l)) = some list →
      Accepts i s k (s.newOp (if gather then 3 else 4) (if gather then .gather list (ctlZoob (s.g (pairLo p))) else .scatter list) x y q
        (Handle.bytes packed / l) none)
    (Reg.h a ∉ s.core.bad ∧ Reg.h b ∉ s.core.bad) →
    copy (.dmaLd k a b c d) 0 d (Handle.level x ≠ 3 ∧ Handle.level y = 3) ∧
    copy (.dmaSt k a b c d) 1 d (Handle.level x = 3 ∧ Handle.level y ≠ 3) ∧
    copy (.dmaCp k a b c e) 2 (0#1 ++ e) True ∧
    rows (.dmaIx k a b c p) true ∧
    rows (.dmaSx k a b c p) false ∧
    (let g : GReg := 0#1 ++ e
     let w := s.g g
     Avail s [c, g] [] [] → CtlOk w useMc c → BarsOk s c w q → HandleOk s x false true → HandleOk s y false true → Handle.level x ≠ 3 →
     ctlFirst w + ctlCount w ≤ unitCount (Handle.level x) →
     (∀ j, j < ctlCount w → ∃ t u, s.ctx? s.tile.task.cnum = some t ∧ t.unitOf (Handle.level x) (ctlFirst w + j) = some u) →
     Handle.bytes x = Handle.bytes y → HandleAligned x → HandleAligned y →
     Accepts (.dmaCpMc k a b c e) s k (s.newOp 2 (.multicast (ctlFirst w) (ctlCount w)) x y q (Handle.count x) none))

/-- R201, R202, R207 to R209: remote reads and writes, remote vector atomics, placement loads and stores. -/
def Claim.RemoteTransfersAccepted : Prop :=
  ∀ (k : Tok) (a b : HReg) (c : GReg) (p : Pair) (q : Option Nat × Option Nat) (e : PkgMap) (s : State),
    TokensReady s k → BteRoom s → Settled s → Avail s [c, pairLo p, pairHi p] [] [] → BarsOk s c (s.g (pairLo p)) q →
    (Reg.h a ∉ s.core.bad ∧ Reg.h b ∉ s.core.bad) →
    let x := s.h a
    let y := s.h b
    let w := s.g (pairLo p)
    let v := s.g (pairHi p)
    let remote : Option PkgMap := if e.p = s.self then none else some e
    let named : Prop := v.toNat < 4096 ∧ PkgIs s v.toNat e
    let desc : Prop := fld 21 11 v = 0 ∧ fld 12 3 v ≠ 7 ∧ fld 15 3 v ≠ 7 ∧ fld 18 3 v ≠ 7
    (CtlOk w useRd c → named → HandleOk s x true false → HandleOk s y false true → Handle.level y = 3 → Handle.level x ≠ 3 →
      Handle.bytes x = Handle.bytes y → HandleAligned x → HandleAligned y →
      Accepts (.dmaRd k a b c p) s k (s.newOp 5 (.rd (ctlPaths w)) x y q (Handle.count x) remote)) ∧
    (CtlOk w useWr c → named → HandleOk s x false true → HandleOk s y true false → Handle.level x = 3 →
      Handle.bytes x = Handle.bytes y → HandleAligned x → HandleAligned y →
      Accepts (.dmaWr k a b c p) s k (s.newOp 6 (.wr (ctlPaths w) (ctlOgrp w)) x y q (Handle.count x) remote)) ∧
    (CtlOk w useWr c → named → HandleOk s x false true → HandleOk s y false true → Handle.level x = 3 → Handle.level y ≠ 3 →
      Handle.fmt x = Handle.fmt y → (Handle.format x = .fp32 ∨ Handle.format x = .bf16) →
      (∀ h ∈ [x, y], Handle.ext h 0 * Handle.width h = 128 ∧ Handle.ext h 1 = 1 ∧ Handle.ext h 2 = 1 ∧ Handle.ext h 3 = 1) →
      Handle.base x % 128 = 0 → HandleAligned y →
      Accepts (.rvat k a b c p) s k (s.newOp 10 (.rvat (ctlPaths w) (ctlOgrp w)) x y q (Handle.count x) remote)) ∧
    (CtlOk w useCopy c → desc → HandleOk s x false true → Handle.level x ≠ 3 → HandleAligned x →
      Accepts (.ldPlace k a c p) s k (s.newOp 11 (.ldPlace v) x 0 q (Handle.count x) none)) ∧
    (CtlOk w useStPlace c → desc → fld 12 9 v = 0 → HandleOk s y false true → Handle.level y ≠ 3 → HandleAligned y →
      Accepts (.stPlace k b c p) s k (s.newOp 12 (.stPlace v) 0 y q (s.placeTotal false y v) none))

/-- The transfer instructions at issue. -/
def Obligations.TransfersAccepted : Prop := Claim.CopiesAccepted ∧ Claim.RemoteTransfersAccepted

/-- R191, R193, R195: what acceptance does: the operation takes the next SEQ and its record, the engine's first step is scheduled, MODE.PRECISE
holds the stream; with a full BTE the instruction waits. When that step comes is the model's choice (log 8). -/
def Claim.EngineAcceptance : Prop :=
  ∀ (s : State) (o : Op), 0 < o.total →
    let t := s.accept o
    t.core.seq = s.core.seq + 1 ∧ t.tile.ops = s.tile.ops ++ [o] ∧
    t.core.hold = (if o.precise then some (.op o.seq o.pc) else s.core.hold) ∧
    t.core.g = s.core.g ∧ t.core.pc = s.core.pc ∧ t.mem = s.mem ∧ t.tile.q = s.tile.q ∧
    (∃ e ∈ t.due, e.ev = .engineCredit ∧ e.arg = .credit s.tile.ptile o.core o.seq o.total ∧
      (o.remote = none → s.now < e.at_) ∧ (o.remote ≠ none → e.at_ = s.now)) ∧
    (16 ≤ (s.tile.ops.filter fun p => p.core == s.sel).length →
      (∀ p ∈ s.tile.ops, p.core = s.sel → p.reported = false → p.fault = none) → bteEntry s = .error (.wait .other))

/-- R203 to R205: st.rel and ld.acq in this package, at scratch and at a package virtual address, and st.rel, ordered flag and ld.acq to
another package. -/
def Obligations.WordReleaseAcquire : Prop :=
  ∀ (k : Tok) (a : GReg) (g : Pair) (c : GReg) (x : BitVec 3) (key : Nat) (e : PkgMap) (s : State), TokensReady s k →
    let w := s.g c
    let hi := s.g (pairHi g)
    let l := (fld 12 12 hi : BitVec 12).toNat
    let va := ((fld 0 12 hi : BitVec 12) ++ s.g (pairLo g)).toNat
    let cnum := s.tile.task.cnum
    let u := withTokens s k s.token
    let far : Prop := wcLocal w = false ∧ fld 24 8 hi = 0 ∧ va % 4 = 0 ∧ PkgIs s l e
    let old : Word := Mem.read s.mem (key + 3) ++ Mem.read s.mem (key + 2) ++ Mem.read s.mem (key + 1) ++ Mem.read s.mem key
    (Avail s (a :: wordRegs s g c) [] [] → Settled s → fld 7 25 w = 0 → fld 5 2 w ≠ 3 → wcFlag w = false →
      (x ≠ 4 ∨ (s.podCovered (fun _ => false) (fun _ => false) = true ∧ s.brokenOwn (fun _ => false) = none)) →
      (wcLocal w = true → Reach s (pairLo g) (s.g (pairLo g)) 4 4 2 key →
        exec (.stRel k a g c x) s = .next (((u.relDone.storeNat key 4 (s.g a).toNat).plain key 4).retirePriv k.stall)) ∧
      (far → e.p = s.self → s.xlate cnum va 2 = .ok key →
        exec (.stRel k a g c x) s =
          .next (((((u.monitor cnum va 4 true).yields key 4).relDone.storeNat key 4 (s.g a).toNat).plain key 4).retirePriv k.stall)) ∧
      (far → e.p ≠ s.self → (s.countsFull s.sel e (fld 0 3 w : BitVec 3).toNat (s.pathOf e.p) = true →
          s.flagOk s.sel e (fld 0 3 w : BitVec 3).toNat = true) →
        ∃ p : Packet, p.type = 0 ∧ p.dst = e.p ∧ p.addr.toNat = va % 2 ^ 44 ∧ p.len = 4 ∧ p.data = leBytes 4 (s.g a).toNat ∧
          exec (.stRel k a g c x) s =
            .next ((u.relDone.sendData s.sel e .rel (fld 0 3 w : BitVec 3).toNat (s.pathOf e.p) 0 p).retirePriv k.stall))) ∧
    (Avail s (a :: wordRegs s g c) [] [] → Settled s → fld 7 25 w = 0 → fld 5 2 w ≠ 3 → wcFlag w = true → x = 4 → fld 0 3 w ≠ 0 → far → e.p ≠ s.self →
      s.podCovered (fun _ => false) (fun _ => false) = true → s.brokenOwn (fun _ => false) = none →
      s.flagOk s.sel e (fld 0 3 w : BitVec 3).toNat = true →
      exec (.stRel k a g c x) s = .next ((u.relDone.sendFlag s.sel e (fld 0 3 w : BitVec 3).toNat va (s.g a)).retirePriv k.stall)) ∧
    (Avail s (wordRegs s g c) [] [a] → fld 7 25 w = 0 → fld 5 2 w ≠ 3 → fld 0 4 w = 0 →
      (wcLocal w = true → Reach s (pairLo g) (s.g (pairLo g)) 4 4 1 key →
        exec (.ldAcq k a g c x) s = .next ((u.putG a old).retirePriv k.stall)) ∧
      (far → e.p = s.self → s.xlate cnum va 1 = .ok key → s.poisoned key 4 = false →
        exec (.ldAcq k a g c x) s = .next ((((u.monitor cnum va 4 false).yields key 4).putG a old).retirePriv k.stall)) ∧
      (far → e.p ≠ s.self → s.relPending e va = true → Waits (.ldAcq k a g c x) s .other) ∧
      (far → e.p ≠ s.self → s.relPending e va = false →
        ∃ p : Packet, p.type = 1 ∧ p.dst = e.p ∧ p.addr.toNat = va % 2 ^ 44 ∧ p.len = 4 ∧
          exec (.ldAcq k a g c x) s =
            .next ((s.setCore { s.core with hold := some (.packet s.pktN a k), wait := .run }).sendRaw s.sel .acq false 0 p)))

/-- R206: each rat is accepted with its code, address and operands, and gd is interlocked until the reply; g0 names no destination. -/
def Obligations.RemoteAtomicsAccepted : Prop :=
  ∀ (k : Tok) (a : GReg) (g : Pair) (c : GReg) (e : PkgMap) (s : State), TokensReady s k → BteRoom s →
    let hi := s.g (pairHi g)
    let l := (fld 12 12 hi : BitVec 12).toNat
    let va := ((fld 0 12 hi : BitVec 12) ++ s.g (pairLo g)).toNat
    let sends (i : Instr) (code : Nat) : Prop :=
      let o := s.newOp 9 (.rat code l va (s.g c) (s.g a) a) 0 0 (none, none) 1 (if e.p = s.self then none else some e)
      let t := (withTokens s k (.pending (.dma s.sel s.core.seq))).accept o
      exec i s = .next (State.retirePriv
        (if a = 0 then t else t.setCore { t.core with pend := (a, .op o.seq o.pc) :: t.core.pend.filter fun p => p.1 ≠ a }) k.stall)
    fld 24 8 hi = 0 → PkgIs s l e → va % 4 = 0 →
    (Avail s [pairLo g, pairHi g, c] [] [a] →
      sends (.ratAdd k a g c) 0 ∧ sends (.ratMin k a g c) 1 ∧ sends (.ratMax k a g c) 2 ∧ sends (.ratAnd k a g c) 3 ∧
      sends (.ratOr k a g c) 4 ∧ sends (.ratXor k a g c) 5 ∧ sends (.ratSwap k a g c) 6) ∧
    (Avail s [pairLo g, pairHi g, c, a] [] [a] → sends (.ratCas k a g c) 7)

/-- R193, R210: dma.prog's two forms: the count of outstanding operations with the last SEQ; the record of a SEQ, all ones as its faulting
element and zero else where no operation has it. -/
def Claim.ProgressReports : Prop :=
  ∀ (k : Tok) (a b c : GReg) (key : Nat) (s : State), TokensReady s k →
    let u := withTokens s k s.token
    (Avail s [] [] [a] →
      exec (.dmaProg k a) s = .next ((u.putG a (wrap32 ((s.tile.ops.filter fun o => o.core == s.sel).length +
        65536 * (s.core.seq - 1).toNat))).retirePriv k.stall)) ∧
    (Avail s [b, c] [] [a] → (s.g c).toNat % 16 = 0 → (s.g c).toNat < 2 ^ 21 → scratchKey s (s.g c).toNat 16 = some key →
      let q : BitVec 16 := fld 0 16 (s.g b)
      (s.tile.op? s.sel q = none →
        exec (.dmaProgRec k a b c) s =
          .next (((u.storeNat key 16 (q.toNat + (2 ^ 32 - 1) * 2 ^ 64)).putG a (wrap32 q.toNat)).retirePriv k.stall)) ∧
      (∀ o, s.tile.op? s.sel q = some o →
        exec (.dmaProgRec k a b c) s = .next (((u.storeNat key 16 o.record).putG a (wrap32 o.record)).retirePriv k.stall) ∧
        o.record % 2 ^ 16 = o.seq.toNat))

/-- Acceptance by an engine, and what dma.prog tells of it. -/
def Obligations.EngineAcceptanceAndProgress : Prop := Claim.EngineAcceptance ∧ Claim.ProgressReports

/-! ### Vectors -/

/-- R214, R220: the element-wise instructions under the integer tags: wrapping arithmetic, minimum, maximum, absolute value, negation,
shifts, leading zeros and one bits; and bitwise logic under every data tag. -/
def Obligations.VectorIntegerAndLogic : Prop :=
  ∀ (k : Tok) (a b c : VCode) (f : Fmt) (s : State),
    let w := f.width
    let two (i : Instr) (L : Nat) (op : Nat → Nat → Nat) : Prop := s.tile.srcTags [b, c] = [f, f] →
      VecGives i s k a [b, c] [] [] L fun xs x t l => Elems s f x t l fun e => op (elemAt f (arg0 xs) e) (elemAt f (arg1 xs) e)
    let one (i : Instr) (L : Nat) (op : Nat → Nat) : Prop := s.tile.srcTags [b] = [f] →
      VecGives i s k a [b] [] [] L fun xs x t l => Elems s f x t l fun e => op (elemAt f (arg0 xs) e)
    (f.isInt = true →
      two (.vadd k a b c) 2 (fun x y => wrap w (intVal f x + intVal f y)) ∧
      two (.vsub k a b c) 2 (fun x y => wrap w (intVal f x - intVal f y)) ∧
      two (.vmul k a b c) 3 (fun x y => wrap w (intVal f x * intVal f y)) ∧
      two (.vmin k a b c) 2 (fun x y => wrap w (min (intVal f x) (intVal f y))) ∧
      two (.vmax k a b c) 2 (fun x y => wrap w (max (intVal f x) (intVal f y))) ∧
      one (.vabs k a b) 2 (fun x => wrap w (intVal f x).natAbs) ∧
      one (.vneg k a b) 2 (fun x => wrap w (-(intVal f x))) ∧
      two (.vsll k a b c) 2 (fun x y => x * 2 ^ (y % w) % 2 ^ w) ∧
      two (.vsrl k a b c) 2 (fun x y => x / 2 ^ (y % w)) ∧
      two (.vsra k a b c) 2 (fun x y => wrap w ((if x < 2 ^ (w - 1) then (x : Int) else (x : Int) - 2 ^ w) / 2 ^ (y % w))) ∧
      one (.vclz k a b) 2 (fun x => ((List.range (w + 1)).find? fun n => x >>> (w - n) == 0 && (n == w || x >>> (w - n - 1) != 0)).getD 0) ∧
      one (.vpopc k a b) 2 (fun x => ((List.range w).filter x.testBit).length)) ∧
    (f ≠ .empty →
      two (.vand k a b c) 2 (fun x y => x &&& y) ∧ two (.vor k a b c) 2 (fun x y => x ||| y) ∧
      two (.vxor k a b c) 2 (fun x y => x ^^^ y) ∧ one (.vnot k a b) 2 (fun x => 2 ^ w - 1 - x))

/-- R68, R69, R71, R214, R220, R221, R232: the element-wise instructions and the fused multiply-add under the FP tags: the exact result
rounded once by RMODE, under SR with one draw an element in order; minimum and maximum exact, with NaN and the signs of zero. -/
def Obligations.VectorFloatingPoint : Prop :=
  ∀ (k : Tok) (a b c : VCode) (f : Fmt) (s : State), f.isFp = true →
    let md := s.tile.rmode
    let sr := decide (md = .sr)
    let rd := decide (md = .rd)
    let rounds (x : BitVec 2048) (t : Fmt) (l : Word) (r : Nat → FpNum) : Prop :=
      t = f ∧ l = drawn sr s.tile.lfsrc f.elems ∧
        ∀ e, e < f.elems → elemAt f x e = fpRound f md (drawAt sr s.tile.lfsrc e) (r e)
    let el (xs : List (BitVec 2048)) (n e : Nat) : FpNum := fpVal f (elemAt f ((xs[n]?).getD 0) e)
    let pick (big : Bool) (x y r : Nat) : Prop :=
      ((fpVal f x).cmp (fpVal f y) = none → r = f.nan) ∧
      ∀ z, (fpVal f x).cmp (fpVal f y) = some z →
        (z < 0 → r = if big then y else x) ∧ (0 < z → r = if big then x else y) ∧
        (z = 0 → (fpVal f x).sign = true → (fpVal f y).sign = false → r = if big then y else x) ∧
        (z = 0 → (fpVal f x).sign = false → (fpVal f y).sign = true → r = if big then x else y) ∧ (r = x ∨ r = y)
    (s.tile.srcTags [b, c] = [f, f] →
      VecGives (.vadd k a b c) s k a [b, c] [] [] 4 (fun xs x t l => rounds x t l fun e => FpNum.add rd (el xs 0 e) (el xs 1 e)) ∧
      VecGives (.vsub k a b c) s k a [b, c] [] [] 4 (fun xs x t l => rounds x t l fun e => FpNum.add rd (el xs 0 e) (el xs 1 e).negate) ∧
      VecGives (.vmul k a b c) s k a [b, c] [] [] 4 (fun xs x t l => rounds x t l fun e => (el xs 0 e).mul (el xs 1 e)) ∧
      VecGives (.vmin k a b c) s k a [b, c] [] [] 4 (fun xs x t l => t = f ∧ l = s.tile.lfsrc ∧
        ∀ e, e < f.elems → pick false (elemAt f (arg0 xs) e) (elemAt f (arg1 xs) e) (elemAt f x e)) ∧
      VecGives (.vmax k a b c) s k a [b, c] [] [] 4 (fun xs x t l => t = f ∧ l = s.tile.lfsrc ∧
        ∀ e, e < f.elems → pick true (elemAt f (arg0 xs) e) (elemAt f (arg1 xs) e) (elemAt f x e))) ∧
    (s.tile.srcTags [b] = [f] →
      VecGives (.vabs k a b) s k a [b] [] [] 4 (fun xs x t l => Elems s f x t l fun e =>
        if el xs 0 e = .nan then f.nan else elemAt f (arg0 xs) e % 2 ^ (f.width - 1)) ∧
      VecGives (.vneg k a b) s k a [b] [] [] 4 (fun xs x t l => Elems s f x t l fun e =>
        if el xs 0 e = .nan then f.nan else elemAt f (arg0 xs) e ^^^ 2 ^ (f.width - 1))) ∧
    (s.tile.srcTags [b, c, a] = [f, f, f] →
      VecGives (.vfma k a b c) s k a [b, c, a] [] [] 5
        (fun xs x t l => rounds x t l fun e => FpNum.add rd ((el xs 0 e).mul (el xs 1 e)) (el xs 2 e)))

/-- R222, R223, R233, R234: the six compares, whose predicate bit i says that the condition holds for every element of lane i (NaN false
but for ne); vsel's lanes; the funnel shift and the integer dot product of the lanes. -/
def Obligations.VectorComparesAndLanes : Prop :=
  ∀ (k : Tok) (d p : PReg) (a b c : VCode) (f : Fmt) (s : State),
    let n := 32 / f.width
    let compares (i : Instr) (ok : Option Int → Prop) : Prop :=
      ∀ xs w, VecReady s k 62 [b, c] [] [] 2 xs none w → s.tile.srcTags [b, c] = [f, f] → (f.isInt = true ∨ f.isFp = true) →
        ∃ m : BitVec 64, exec i s = .next ((w.result 2 (.p d m)).retirePriv k.stall) ∧
          ∀ l, l < 64 → (m.getLsbD l = true ↔ ∀ j, j < n → ok (
            let x := elemAt f (arg0 xs) (l * n + j)
            let y := elemAt f (arg1 xs) (l * n + j)
            if f.isInt then some (intVal f x - intVal f y).sign else (fpVal f x).cmp (fpVal f y)))
    compares (.vcmpEq k d b c) (· = some 0) ∧ compares (.vcmpNe k d b c) (· ≠ some 0) ∧
    compares (.vcmpLt k d b c) (· = some (-1)) ∧ compares (.vcmpLe k d b c) (fun o => o = some (-1) ∨ o = some 0) ∧
    compares (.vcmpGt k d b c) (· = some 1) ∧ compares (.vcmpGe k d b c) (fun o => o = some 1 ∨ o = some 0) ∧
    (s.tile.srcTags [b, a] = [f, f] →
      VecGives (.vsel k a b p) s k a [b, a] [] [.p p] 1 fun xs x t l => t = f ∧ l = s.tile.lfsrc ∧
        ∀ j, j < 64 → elemAt .int32 x j = elemAt .int32 (if (s.tile.rp p).getLsbD j then arg0 xs else arg1 xs) j) ∧
    (s.tile.srcTags [b, c, a] = [.int32, .int32, .int32] →
      VecGives (.vfsh k a b c) s k a [b, c, a] [] [] 2 fun xs x t l => Elems s .int32 x t l fun j =>
        (elemAt .int32 (arg0 xs) j * 2 ^ 32 + elemAt .int32 (arg1 xs) j) / 2 ^ (elemAt .int32 (arg2 xs) j % 64) % 2 ^ 32) ∧
    (f.isInt = true → (∃ g, s.tile.srcTags [b, c, a] = [f, f, g]) → s.tile.srcTag a = some .int32 →
      VecGives (.vmac k a b c) s k a [b, c, a] [] [] 5 fun xs x t l => Elems s .int32 x t l fun j =>
        wrap 32 ((List.range n).foldl
          (fun z q => z + intVal f (elemAt f (arg0 xs) (j * n + q)) * intVal f (elemAt f (arg1 xs) (j * n + q)))
          (elemAt .int32 (arg2 xs) j : Int)))

/-- R224: a group reduction puts each group's result in its lane and zero in the lanes beyond, with tag INT32 or FP32: exact wrapped sums
and extremes of integers; under FP the tree of R77 over the group converted to FP32. -/
def Obligations.VectorReductions : Prop :=
  ∀ (k : Tok) (a b : VCode) (f : Fmt) (s : State), s.tile.srcTags [b] = [f] →
    let g := if 64 < f.elems / min (2 ^ s.tile.vgrp.toNat) f.elems then f.elems / 64 else min (2 ^ s.tile.vgrp.toNat) f.elems
    let vals (xs : List (BitVec 2048)) (q : Nat) : List Int := (List.range g).map fun j => intVal f (elemAt f (arg0 xs) (q * g + j))
    let lanesOf (x : BitVec 2048) (r : Nat → Nat) : Prop :=
      ∀ q, q < 64 → elemAt .int32 x q = if q < f.elems / g then r q else 0
    (f.isInt = true → s.tile.vgrp.toNat ≤ 8 →
      VecGives (.vredsum k a b) s k a [b] [] [] 8 (fun xs x t l => t = .int32 ∧ l = s.tile.lfsrc ∧
        lanesOf x fun q => wrap 32 ((vals xs q).foldl (· + ·) 0)) ∧
      VecGives (.vredmax k a b) s k a [b] [] [] 8 (fun xs x t l => t = .int32 ∧ l = s.tile.lfsrc ∧
        lanesOf x fun q => wrap 32 (((vals xs q).max?).getD 0)) ∧
      VecGives (.vredmin k a b) s k a [b] [] [] 8 (fun xs x t l => t = .int32 ∧ l = s.tile.lfsrc ∧
        lanesOf x fun q => wrap 32 (((vals xs q).min?).getD 0))) ∧
    (f.isFp = true →
      let node (md : Rm) (l : Word) (x y : Nat) : Nat × Word := roundDraw .fp32 md l (FpNum.add (md = .rd) (fpVal .fp32 x) (fpVal .fp32 y))
      let tree (op : Word → Nat → Nat → Nat × Word) (xs : List (BitVec 2048)) (l : Word) (q : Nat) : Nat × Word :=
        let (r, l') := reduceTree op g.log2 l ((List.range g).map fun j => convElem f .fp32 .rne 0 (elemAt f (arg0 xs) (q * g + j)))
        ((r[0]?).getD 0, l')
      let seq (op : Word → Nat → Nat → Nat × Word) (xs : List (BitVec 2048)) : List Nat × Word :=
        mapDraw (tree op xs) s.tile.lfsrc (List.range (f.elems / g))
      VecGives (.vredsum k a b) s k a [b] [] [] 8 (fun xs x t l => t = .fp32 ∧ l = (seq (node s.tile.rmode) xs).2 ∧
        lanesOf x fun q => nth (seq (node s.tile.rmode) xs).1 q) ∧
      VecGives (.vredmax k a b) s k a [b] [] [] 8 (fun xs x t l => t = .fp32 ∧ l = s.tile.lfsrc ∧
        lanesOf x fun q => nth (seq (fun m x y => (pickFp true .fp32 x y, m)) xs).1 q) ∧
      VecGives (.vredmin k a b) s k a [b] [] [] 8 (fun xs x t l => t = .fp32 ∧ l = s.tile.lfsrc ∧
        lanesOf x fun q => nth (seq (fun m x y => (pickFp false .fp32 x y, m)) xs).1 q))

/-- R72, R225 to R229, R231: permutation, broadcasts, slides, zip and unzip, move, and conversion, element by element. -/
def Obligations.VectorPermutesAndConversions : Prop :=
  ∀ (k : Tok) (a b c : VCode) (g : GReg) (q : BitVec 4) (f h : Fmt) (s : State),
    let n := (s.g g).toNat
    (f ≠ .empty →
      (s.tile.srcTags [b, c] = [f, h] → h.isInt = true → f.width = h.width →
        VecGives (.vperm k a b c) s k a [b, c] [] [] 2 fun xs x t l => Elems s f x t l fun e =>
          elemAt f (arg0 xs) (elemAt f (arg1 xs) e % f.elems)) ∧
      (s.tile.srcTags [b] = [f] →
        VecGives (.vbcast k a b g) s k a [b] [g] [] 2 (fun xs x t l => Elems s f x t l fun _ => elemAt f (arg0 xs) (n % f.elems)) ∧
        VecGives (.vslideDn k a b g) s k a [b] [g] [] 2 (fun xs x t l => Elems s f x t l fun e =>
          if e + n < f.elems then elemAt f (arg0 xs) (e + n) else 0) ∧
        VecGives (.vslideUp k a b g) s k a [b] [g] [] 2 (fun xs x t l => Elems s f x t l fun e =>
          if n ≤ e then elemAt f (arg0 xs) (e - n) else 0)) ∧
      (s.tile.srcTags [b, c] = [f, f] →
        VecGives (.vzip k a b c) s k a [b, c] [] [] 2 (fun xs x t l => Elems s f x t l fun e =>
          elemAt f (if e % 2 = 0 then arg0 xs else arg1 xs) (e / 2)) ∧
        VecGives (.vunzip k a b c) s k a [b, c] [] [] 2 (fun xs x t l => Elems s f x t l fun e =>
          if e < f.elems / 2 then elemAt f (arg0 xs) (2 * e) else elemAt f (arg1 xs) (2 * e - f.elems)))) ∧
    (Fmt.ofCode q.toNat = some h → h ≠ .empty →
      VecGives (.vbcastG k a q g) s k a [] [g] [] 2 (fun _ x t l => Elems s h x t l fun _ =>
        if h = .ds8 then ds8Round (ds8Val (n % 256)) else n % 2 ^ h.width) ∧
      (f ≠ .empty → s.tile.srcTags [b] = [f] →
        VecGives (.vcvt k a b q) s k a [b] [] [] 4 fun xs x t l =>
          let sr := decide (s.tile.rmode = .sr) && convRounds f h
          let m := min f.elems h.elems
          t = h ∧ l = (if f = h then s.tile.lfsrc else drawn sr s.tile.lfsrc m) ∧
          ∀ e, e < h.elems → elemAt h x e =
            if f = h then elemAt f (arg0 xs) e
            else if e < m then convElem f h s.tile.rmode (drawAt sr s.tile.lfsrc e) (elemAt f (arg0 xs) e) % 2 ^ h.width else 0)) ∧
    (s.tile.srcTags [b] = [f] →
      VecGives (.vmov k a b) s k a [b] [] [] 1 fun xs x t l => x = arg0 xs ∧ t = f ∧ l = s.tile.lfsrc)

/-- R139, R140, R213, R215, R219: vector operands: a register gives its value and takes a result after its latency, vzero gives zero, a port
reads or writes the 256 bytes at its next address and advances; a register beyond the allotment raises VREG.RANGE. -/
def Obligations.VectorOperands : Prop :=
  ∀ (s : State) (c : VCode) (cs : List VCode) (k n : Nat) (x : BitVec 2048) (t : Fmt),
    let p := s.tile.port c
    let at_ := p.next.toNat
    (∀ h : c.toNat < 56, popOne s c = .ok (s.tile.v[c.toNat], s)) ∧
    (c = 62 → popOne s c = .ok (0, s)) ∧
    (isPort c = true → at_ % 4 = 0 → at_ + 256 ≤ min (2 ^ 21) s.tile.task.limit → k = tileKey s.tile.ptile.toNat + at_ →
      (Clear s k 256 → popOne s c = .ok (BitVec.ofNat 2048 (leNat (Mem.readRange s.mem k 256)), s.advance c) ∧
        pushKey s c = .ok (some k, s.advance c)) ∧
      (¬Clear s k 256 → popOne s c = .error (.wait .other) ∧ pushKey s c = .error (.wait .other)) ∧
      popsClean s [c] = (if s.poisoned k 256 = true then .error (.trap { cls := .memError, access := 1, addr := at_ }) else .ok ())) ∧
    (isPort c = true → at_ % 4 ≠ 0 → popOne s c = .error (.trap { cls := .misalign, access := 1, addr := at_ }) ∧
      pushKey s c = .error (.trap { cls := .misalign, access := 2, addr := at_ })) ∧
    (isPort c = true → (s.advance c).tile.port c = { p with pos := BitVec.ofNat 32 ((p.pos.toNat + 1) % p.total) }) ∧
    (∀ b ∈ cs, isVReg b = true → s.tile.vallot.toNat ≤ b.toNat → vregRange s cs = .error (.trap { cls := .vregRange })) ∧
    (c.toNat < 56 → 0 < n →
      let u := s.putV c none n x t
      (⟨.v c.toNat x t, s.now + n⟩ : Flight) ∈ u.core.flight ∧ u.tile.v = s.tile.v ∧ u.mem = s.mem ∧
      (∃ e ∈ u.due, e.at_ = s.now + n ∧ e.ev = .fixedLatencyWrite ∧ e.arg = .core s.tile.ptile s.sel)) ∧
    (0 < n →
      let u := s.putV c (some k) n x t
      u.tile.pushes = s.tile.pushes ++ [⟨s.now + n, k, x⟩] ∧ u.mem = s.mem ∧
      (∃ e ∈ u.due, e.at_ = s.now + n ∧ e.ev = .fixedLatencyWrite ∧ e.arg = .core s.tile.ptile s.sel))

/-- R134, R135, R214: a fixed-latency result is not read before its cycle and is there from it; FIXED_LATENCY_WRITE lands what is due, in
order, and leaves the rest in flight; so it does with the bytes of a port push. -/
def Obligations.FixedLatencyLanding : Prop :=
  ∀ (s : State) (pt : BitVec 8) (c : CoreId), s.tile.ptile = pt → s.arg = .core pt c → (s.tile.core c).fin = false →
    ∃ t : State, exec .fixedLatencyWrite s = .next t ∧ t.rest = s.rest ∧ t.sel = s.sel ∧
      ((c ≠ .compute ∨ ∀ p ∈ s.tile.pushes, s.now < p.at_) → t.mem = s.mem ∧ t.tile.pushes = s.tile.pushes) ∧
      (∀ key x at_, c = .compute → s.tile.pushes = [⟨at_, key, x⟩] → at_ ≤ s.now →
        t.mem = (s.storeNat key 256 x.toNat).mem ∧ t.tile.pushes = []) ∧
      (t.tile.core c).flight = (s.tile.core c).flight.filter (fun f => decide (s.now < f.at_)) ∧
      ((∀ f ∈ (s.tile.core c).flight, s.now < f.at_) → (t.tile.core c).g = (s.tile.core c).g ∧ t.tile.v = s.tile.v ∧ t.tile.p = s.tile.p) ∧
      (∀ r x at_, r ≠ 0 → (s.tile.core c).flight = [⟨.g r x, at_⟩] → at_ ≤ s.now → (t.tile.core c).rg r = x) ∧
      (∀ (r : Fin 56) x f at_, (s.tile.core c).flight = [⟨.v r x f, at_⟩] → at_ ≤ s.now → t.tile.v[r] = x ∧ t.tile.vtag[r] = f) ∧
      (∀ (r : PReg) x at_, r ≠ 0 → (s.tile.core c).flight = [⟨.p r x, at_⟩] → at_ ≤ s.now → t.tile.rp r = x)

/-- R235 to R238: vector loads, stores, the stores of a count of bytes and the gathers, with and without tags: what is read or stored, at
which latency, and that a store touches no byte beyond its own. -/
def Obligations.VectorMemory : Prop :=
  ∀ (k : Tok) (a c : VCode) (g h : GReg) (o : BitVec 2) (q : BitVec 4) (key : Nat) (keys : Nat → Nat) (f : Fmt) (p : Option Nat)
    (w : State) (xs : List (BitVec 2048)) (s : State),
    let at_ := s.g g + BitVec.ofNat 32 (o.toNat * 256)
    let vec : BitVec 2048 := BitVec.ofNat 2048 (leNat (Mem.readRange s.mem key 256))
    let x := arg0 xs
    let n := min (s.g h).toNat 256
    let L := if isTileKey key then 6 else 0
    let M := if (List.range 64).all fun i => isTileKey (keys i) then 8 else 0
    let y : BitVec 2048 := pack .int32 ((List.range 64).map fun i => leNat (Mem.readRange s.mem (keys i) 4))
    (Fmt.ofCode q.toNat = some f → Reach s g at_ 4 256 1 key → VecReady s k a [] [g] [] L [] p w →
      exec (.vld k a g o q) s = .next ((w.putV a p L vec f).retirePriv k.stall)) ∧
    (isVReg a = true → Reach s g at_ 4 4 1 key → VecReady s k 62 [] [g] [] L [] none w → a.toNat < s.tile.vallot.toNat →
      (Fmt.ofCode (leNat (Mem.readRange s.mem key 4) % 16) = some f →
        exec (.vldTg k a g o) s = .next ((w.result L (.tag a.toNat f)).retirePriv k.stall)) ∧
      (Fmt.ofCode (leNat (Mem.readRange s.mem key 4) % 16) = none → Raises (.vldTg k a g o) s { cls := .tagCheck })) ∧
    (VecReady s k 62 [a] [g] [] 0 xs none w → Reach w g at_ 4 256 2 key →
      exec (.vst k a g o) s = .next ((w.storeNat key 256 x.toNat).retirePriv k.stall) ∧ MemSameBut s (w.storeNat key 256 x.toNat) key 256) ∧
    (VecReady s k 62 [a] [g] [] 0 xs none w → Reach w g at_ 4 4 2 key → s.tile.srcTags [a] = [f] →
      exec (.vstTg k a g o) s = .next ((w.storeNat key 4 f.code).retirePriv k.stall)) ∧
    (VecReady s k 62 [a] [g, h] [] 0 xs none w → (∀ j, j < n → Reach w g (s.g g + BitVec.ofNat 32 j) 1 1 2 (keys j)) →
      exec (.vstm k a g h) s = .next
        ((w.storeEach ((List.range n).map fun j => (keys j, elemAt .uint8 x j))).retirePriv k.stall)) ∧
    (VecReady s k a [c] [g] [] M xs p w → s.tile.srcTags [c] = [.int32] → (s.g g).toNat % 4 = 0 →
      (∀ i, i < 64 → Reach s g (s.g g + BitVec.ofNat 32 (4 * elemAt .int32 x i)) 1 4 1 (keys i)) →
      (∀ b, p = some b → exec (.vldx k a g c) s = .next ((w.push b M y).retirePriv k.stall)) ∧
      (p = none → exec (.vldx k a g c) s = .next ((w.result M (.data a.toNat y)).retirePriv k.stall)))

/-- R239, R240: predicate logic, and the two ways between predicates and vector lanes; p0 reads all ones and takes no write. -/
def Obligations.Predicates : Prop :=
  ∀ (k : Tok) (d a b : PReg) (v : VCode) (w : State) (xs : List (BitVec 2048)) (s : State),
    let u := withTokens s k s.token
    let gives (i : Instr) (x : BitVec 64) : Prop := exec i s = .next ((u.result 1 (.p d x)).retirePriv k.stall)
    (s.tile.rp 0 = -1 ∧ ∀ x, (s.tile.land s.sel (.p 0 x)) = s.tile) ∧
    (TokensReady s k → Avail s [] [.p a, .p b] [] →
      gives (.pand k d a b) (s.tile.rp a &&& s.tile.rp b) ∧ gives (.por k d a b) (s.tile.rp a ||| s.tile.rp b)) ∧
    (TokensReady s k → Avail s [] [.p a] [] → gives (.pnot k d a) (~~~(s.tile.rp a)) ∧ gives (.pmov k d a) (s.tile.rp a)) ∧
    VecGives (.ppack k v a) s k v [] [] ((predsFrom a).map .p) 2 (fun _ x t l => Elems s .int32 x t l fun j =>
      if a.toNat ≤ j / 2 ∧ j < 16 then (s.tile.rp (BitVec.ofNat 3 (j / 2))).toNat / 2 ^ (32 * (j % 2)) % 2 ^ 32 else 0) ∧
    (VecReady s k 62 [v] [] [] 0 xs none w → s.tile.srcTags [v] = [.int32] → ∃ t : State,
      exec (.punpack k d v) s = .next (t.retirePriv k.stall) ∧ t.mem = s.mem ∧ t.tile.p = s.tile.p ∧
      ∀ r : PReg, r ≠ 0 → d.toNat ≤ r.toNat →
        (⟨.p r (fld (64 * r.toNat) 64 (arg0 xs)), s.now + 2⟩ : Flight) ∈ t.core.flight)

/-- R216 to R218: valloc grows the allotment with registers that are zero and EMPTY, without an
uncorrectable error, vshrink gives registers back with the writes in flight to them, pcfg sets one parameter of a port, and restarts it but for FMT and POS; its two traps. -/
def Obligations.AllotmentAndPorts : Prop :=
  ∀ (k : Tok) (n : BitVec 6) (p : VCode) (a b : GReg) (s : State), TokensReady s k →
    (Avail s [] [] [] →
      (∃ t : State, exec (.valloc k n) s = .next (t.retirePriv k.stall) ∧ t.tile.vallot = (if s.tile.vallot < n then n else s.tile.vallot) ∧
        (∀ r : Fin 56, t.tile.v[r] = (if s.tile.vallot.toNat ≤ r.val ∧ r.val < n.toNat then 0 else s.tile.v[r]) ∧
          t.tile.vtag[r] = (if s.tile.vallot.toNat ≤ r.val ∧ r.val < n.toNat then .empty else s.tile.vtag[r]) ∧
          (s.tile.vallot.toNat ≤ r.val → r.val < n.toNat → Reg.v r.val ∉ t.tile.cc.bad)) ∧
        t.core.flight = s.core.flight ∧ t.mem = s.mem) ∧
      (∃ t : State, exec (.vshrink k n) s = .next (t.retirePriv k.stall) ∧ t.tile.vallot = (if n < s.tile.vallot then n else s.tile.vallot) ∧
        (∀ r : Fin 56, r.val < n.toNat → t.tile.v[r] = s.tile.v[r] ∧ t.tile.vtag[r] = s.tile.vtag[r]) ∧
        (n < s.tile.vallot → ∀ f ∈ t.core.flight, f ∈ s.core.flight ∧ ∀ r, n.toNat ≤ r → f.land.reg ≠ .v r) ∧ t.mem = s.mem)) ∧
    (Avail s [a, b] [] [] → (h : 56 ≤ p.toNat ∧ p.toNat < 62) →
      let sel := (s.g a).toNat
      let x := s.g b
      let old := s.tile.ports[p.toNat - 56]
      let sets (q : Port) : Prop := ∃ t : State, exec (.pcfg k p a b) s = .next (t.retirePriv k.stall) ∧
        t.tile.ports = s.tile.ports.set (p.toNat - 56) q ∧ t.mem = s.mem ∧ t.core = s.core
      (sel = 0 → sets { old with addr := x, pos := 0 }) ∧
      (∀ f, sel = 1 → Fmt.ofCode (x.toNat % 16) = some f → sets { old with fmt := f }) ∧
      (sel = 2 → sets { old with n0 := x.truncate 16, pos := 0 }) ∧ (sel = 3 → sets { old with n1 := x.truncate 16, pos := 0 }) ∧
      (sel = 4 → sets { old with n2 := x.truncate 16, pos := 0 }) ∧ (sel = 5 → sets { old with s0 := x, pos := 0 }) ∧
      (sel = 6 → sets { old with s1 := x, pos := 0 }) ∧ (sel = 7 → sets { old with s2 := x, pos := 0 }) ∧
      (sel = 8 → sets { old with pos := BitVec.ofNat 32 (x.toNat % old.total) }) ∧
      (8 < sel → Raises (.pcfg k p a b) s { cls := .portCfg }) ∧
      (sel = 1 → Fmt.ofCode (x.toNat % 16) = none → Raises (.pcfg k p a b) s { cls := .tagCheck }))

/-- R65, R68, R71, R72, R241 to R243: scalar floating point: the exact result rounded once by RMODE (under SR with one draw), minimum and
maximum, the compare's class, quotient, root and the conversions, with their latencies. -/
def Obligations.ScalarFloatingPoint : Prop :=
  ∀ (k : Tok) (d a b : GReg) (s : State), TokensReady s k →
    let md := s.tile.rmode
    let sr := decide (md = .sr)
    let rd := decide (md = .rd)
    let r := drawAt sr s.tile.lfsrc 0
    let x := fpVal .fp32 (s.g a).toNat
    let y := fpVal .fp32 (s.g b).toNat
    let z := fpVal .fp32 (s.g d).toNat
    let rounds (i : Instr) (L : Nat) (v : FpNum) : Prop := FpGives i s k d L (fpRound .fp32 md r v) (drawn sr s.tile.lfsrc 1)
    let exact (i : Instr) (L v : Nat) : Prop := FpGives i s k d L v s.tile.lfsrc
    let conv (i : Instr) (v : Nat) : Prop := FpGives i s k d 4 v (drawn sr s.tile.lfsrc 1)
    let int (f : Fmt) (q : Word) : FpNum := .fin (decide (intVal f q.toNat < 0)) (intVal f q.toNat).natAbs 0
    (Avail s [a, b] [] [d] →
      rounds (.fadd k d a b) 4 (FpNum.add rd x y) ∧ rounds (.fsub k d a b) 4 (FpNum.add rd x y.negate) ∧ rounds (.fmul k d a b) 4 (x.mul y) ∧
      rounds (.fdiv k d a b) 12 (x.div y) ∧
      exact (.fmin k d a b) 4 (pickFp false .fp32 (s.g a).toNat (s.g b).toNat) ∧
      exact (.fmax k d a b) 4 (pickFp true .fp32 (s.g a).toNat (s.g b).toNat) ∧
      exact (.fcmp k d a b) 4 (if x.cmp y = none then 8 else if x.cmp y = some 0 then 2 else if x.cmp y = some (-1) then 1 else 4)) ∧
    (Avail s [a, b, d] [] [d] → rounds (.ffma k d a b) 4 (FpNum.add rd (x.mul y) z)) ∧
    (Avail s [a] [] [d] →
      rounds (.fsqrt k d a) 12 x.sqrt ∧
      conv (.fcvtWS k d a) (intRound .int32 md r x) ∧
      conv (.fcvtWuS k d a) (uintRound md r x) ∧
      conv (.fcvtSW k d a) (fpRound .fp32 md r (int .int32 (s.g a))) ∧
      conv (.fcvtSWu k d a) (fpRound .fp32 md r (.fin false (s.g a).toNat 0)) ∧
      conv (.fcvtBfS k d a) (fpRound .bf16 md r x) ∧
      exact (.fcvtSBf k d a) 4 (fpRound .fp32 .rne 0 (fpVal .bf16 ((s.g a).toNat % 65536))) ∧
      conv (.fcvtHS k d a) (fpRound .fp16 md r x) ∧
      exact (.fcvtSH k d a) 4 (fpRound .fp32 .rne 0 (fpVal .fp16 ((s.g a).toNat % 65536))))

/-! ### The array, the ring and the epilogue -/

/-- R90, R248 to R250: rnext zeroes and pushes a slot, rzero zeroes the newest, once the array has applied its K-steps to it; a full ring and
an empty one raise; no byte outside the slot changes. -/
def Claim.RingInstructions : Prop :=
  ∀ (k : Tok) (s : State), TokensReady s k → Avail s [] [] [] →
    let n := (s.tile.ringHd - s.tile.ringTl).toNat
    let clears (t : State) (slot : Nat) : Prop :=
      ∀ a, Mem.read t.mem a = if ringKey s.tile.ptile.toNat slot ≤ a ∧ a < ringKey s.tile.ptile.toNat slot + 16384 then 0
        else Mem.read s.mem a
    (n = 8 → Raises (.rnext k) s { cls := .ringFull }) ∧
    (n ≠ 8 → (∀ e ∈ s.tile.epis, e.slot.toNat % 8 ≠ s.tile.ringHd.toNat % 8) →
      ∃ t : State, exec (.rnext k) s = .next (t.retirePriv k.stall) ∧ clears t (s.tile.ringHd.toNat % 8) ∧
        t.tile.ringHd = s.tile.ringHd + 1 ∧ t.tile.ringTl = s.tile.ringTl ∧ t.core = s.core) ∧
    (n = 0 → Raises (.rzero k) s { cls := .ringEmpty }) ∧
    (n ≠ 0 → s.tile.working s.tile.newest = true → Waits (.rzero k) s .other) ∧
    (n ≠ 0 → s.tile.working s.tile.newest = false → ∃ t : State, exec (.rzero k) s = .next (t.retirePriv k.stall) ∧ clears t ((s.tile.ringHd - 1).toNat % 8) ∧
      t.tile.ringHd = s.tile.ringHd ∧ t.tile.ringTl = s.tile.ringTl ∧ t.core = s.core)

/-- R244 to R247, R251 to R255: mma and mma.gx with legal operands are accepted: their handles are locked, their put slots pending, the array
begins where it was idle, and no byte changes yet; the output rows and their operand rows are as recorded, a lane of all ones skipping its
row. -/
def Claim.MatrixMultiply : Prop :=
  ∀ (k : Tok) (v : VCode) (b c : HReg) (s : State),
    let x := s.h b
    let y := s.h c
    let kk := Handle.ext x 0
    let kb := kk / 16
    let n := Handle.ext y 1
    let m := Handle.ext x 1
    let slot := (s.tile.ringHd - 1).toNat % 8
    let idx : BitVec 2048 := if h : v.toNat < 56 then s.tile.v[v.toNat] else 0
    let reads (rows : List Nat) : List (Int × Nat) := rowSpans x kb rows ++ rowSpans y kb (List.range n)
    let runs (i : Instr) (vi : Option VCode) (rows : List (Nat × Nat)) (extra : Nat) : Prop :=
      let t := withTokens s k (.pending (.mma s.tile.nextId))
      TokensReady s k → Avail s [] (vregs vi.toList ++ [.h b, .h c]) [] →
      HandleOk s x false true → HandleOk s y false true → Handle.level x = 0 → Handle.level y = 0 →
      ∀ cyc, pairCycles (Handle.format x) (Handle.format y) = some cyc →
      16 ≤ kk → kk % 16 = 0 → Handle.ext y 0 = kk → 1 ≤ n → n ≤ 64 → 1 ≤ m →
      Handle.ext x 2 = 1 → Handle.ext x 3 = 1 → Handle.ext y 2 = 1 → Handle.ext y 3 = 1 →
      Handle.base x % 4 = 0 → Handle.str x 1 % 4 = 0 → Handle.base y % 4 = 0 → Handle.str y 1 % 4 = 0 →
      spansOk s 1 (reads (rows.map (·.2))) = .ok () → spansClean s (reads (rows.map (·.2))) = .ok () →
      s.tile.ringHd ≠ s.tile.ringTl → slotClean s slot n (rows.map (·.1)) = .ok () → s.tile.mmas.length < 5 →
      let op : Mma := { id := s.tile.nextId, a := some b, b := c, ha := x, hb := y, slot := s.tile.ringHd - 1, steps := 0
                        gather := vi.isSome, lanes := if vi.isSome then idx else 0 }
      op.rows = rows ∧
      ∃ u : State, exec i s = .next (u.retirePriv k.stall) ∧ u.mem = s.mem ∧ u.tile.mmas = s.tile.mmas ++ [op] ∧
        u.tile.locked b = true ∧ u.tile.locked c = true ∧ u.tile.q = t.tile.q ∧ u.tile.ringHd = s.tile.ringHd ∧
        (s.tile.mmas = [] → ∃ e ∈ u.due, e.at_ = s.now + extra + cyc ∧ e.ev = .mmaCompletion ∧ e.arg = .tile s.tile.ptile)
    (m ≤ 64 → runs (.mma k b c) none ((List.range m).map fun i => (i, i)) 24) ∧
    (v.toNat < s.tile.vallot.toNat → v.toNat < 56 → s.tile.srcTag v = some .int32 →
      (∀ i, i < 64 → elemAt .int32 idx i < m ∨ elemAt .int32 idx i = 2 ^ 32 - 1) →
      runs (.mmaGx k v b c) (some v)
        (((List.range 64).filter fun i => elemAt .int32 idx i ≠ 2 ^ 32 - 1).map fun i => (i, elemAt .int32 idx i)) 32)

/-- R252, R253, R75: what one K-step makes of an output row: each element takes the products of its operand row and column in that block;
rows and columns outside the operands keep their values. -/
def Claim.KStepOfARow : Prop :=
  ∀ (s : State) (h : Handle) (kb b slot i r : Nat) (cols : List (FpNum × List FpNum)) (j : Nat),
    i < 64 → cols.length ≤ 64 → slot < 8 → j < 64 →
    let t := stepRows h kb b slot cols s [(i, r)]
    let acc (u : State) (i j : Nat) : Nat := leNat (Mem.readRange u.mem (ringKey s.tile.ptile.toNat slot + 4 * (64 * i + j)) 4)
    (∀ c, cols[j]? = some c →
      acc t i j = kStep (acc s i j) (rowScale s h r kb b) c.1 (((rowVals s h r b).zip c.2).map fun x => x.1.mul x.2) % 2 ^ 32) ∧
    (cols.length ≤ j → acc t i j = acc s i j) ∧
    (∀ i', i' < 64 → i' ≠ i → acc t i' j = acc s i' j)

/-- mma and mma.gx, and what they make of the slot. -/
def Obligations.MatrixProducts : Prop := Claim.MatrixMultiply ∧ Claim.KStepOfARow

/-- R256 to R258, R261: mscale multiplies the newest slot by the lanes of an FP32 vector, by row or by column; vrdacc reads a row or a column
of a ring slot; both come after the K-steps of the array on the slot (R249). An accepted epi advances RINGTL at once, its draws are the next
of LFSRE, and its slot and put slots stay taken until its completion. -/
def Claim.AccumulatorInstructions : Prop :=
  ∀ (k : Tok) (v : VCode) (h : HReg) (g b : GReg) (w : State) (xs : List (BitVec 2048)) (s : State),
    let hd := s.tile.ringHd
    let tl := s.tile.ringTl
    let pt := s.tile.ptile.toNat
    let acc (u : State) (slot i j : Nat) : Nat := leNat (Mem.readRange u.mem (ringKey pt slot + 4 * (64 * i + j)) 4)
    let scales (i : Instr) (lane : Nat → Nat → Nat) : Prop :=
      VecReady s k 62 [v] [] [] 0 xs none w → s.tile.srcTag v = some .fp32 → hd ≠ tl →
      s.tile.working ((hd - 1).toNat % 8) = false → slotClean s ((hd - 1).toNat % 8) 64 (List.range 64) = .ok () →
      ∃ t : State, exec i s = .next (t.retirePriv k.stall) ∧ t.core = w.core ∧
        ∀ q r, q < 64 → r < 64 → acc t ((hd - 1).toNat % 8) q r =
          fpRound .fp32 .rne 0 ((fpVal .fp32 (acc s ((hd - 1).toNat % 8) q r)).mul (fpVal .fp32 (elemAt .int32 (arg0 xs) (lane q r))))
    scales (.mscaleRow k v) (fun q _ => q) ∧
    scales (.mscaleCol k v) (fun _ r => r) ∧
    (isVReg v = true → v.toNat < s.tile.vallot.toNat → TokensReady s k → Avail s [g] [] [] →
      let n := (s.g g).toNat
      let slot := (tl.toNat + n / 64 % 8) % 8
      n < 1024 → n / 64 % 8 < (hd - tl).toNat → s.tile.working slot = false →
      (∀ j, j < 64 → s.poisoned (ringKey pt slot + 4 * (if n / 512 % 2 = 1 then 64 * j + n % 64 else 64 * (n % 64) + j)) 4 = false) →
      ∃ x : BitVec 2048, exec (.vrdacc k v g) s = .next (((withTokens s k s.token).result 0 (.v v.toNat x .fp32)).retirePriv k.stall) ∧
        ∀ j, j < 64 → elemAt .fp32 x j = if n / 512 % 2 = 1 then acc s slot j (n % 64) else acc s slot (n % 64) j) ∧
    (let word := s.g g
     let e := s.h h
     let n := Handle.ext e 0
     let m := Handle.ext e 1
     let pb := s.g b
     let ps := epiParams word n
     TokensReady s k → Avail s [g, b] [.h h] [] → fld 0 3 word ≤ 4 → fld 5 2 word ≠ 3 → fld 7 25 word = 0 →
     HandleOk s e false true → Handle.level e = 0 → Handle.ro e = false → 1 ≤ n → n ≤ 64 → 1 ≤ m → m ≤ 64 →
     Handle.ext e 2 = 1 → Handle.ext e 3 = 1 → Handle.base e % Handle.width e = 0 → Handle.str e 1 % (Handle.width e : Int) = 0 →
     (ps = [] ∨ pb.toNat % 4 = 0) →
     spansOk s 2 ((List.range m).map fun i => (rowAt e i, n * Handle.width e)) = .ok () →
     spansOk s 1 (ps.map fun p => (Int.ofNat (pb.toNat + p.1), p.2)) = .ok () →
     spansClean s (ps.map fun p => (Int.ofNat (pb.toNat + p.1), p.2)) = .ok () →
     hd ≠ tl → slotClean s (tl.toNat % 8) n (List.range m) = .ok () → s.tile.epis.length < 8 →
     let t := withTokens s k (.pending (.epi s.tile.nextId))
     ∃ u : State, exec (.epi k h g b) s = .next (u.retirePriv k.stall) ∧ u.mem = s.mem ∧ u.tile.ringTl = tl + 1 ∧ u.tile.q = t.tile.q ∧
       u.tile.epis = s.tile.epis ++ [{ id := s.tile.nextId, h := e, cmd := word, bias := pb, slot := tl, lfsr := s.tile.lfsre }] ∧
       u.tile.lfsre = drawn (decide (fld 0 3 word = 4)) s.tile.lfsre (m * n) ∧
       (∃ d ∈ u.due, d.ev = .epiCompletion ∧ s.now < d.at_))

/-- The other instructions on the ring. -/
def Obligations.RingAndAccumulator : Prop := Claim.RingInstructions ∧ Claim.AccumulatorInstructions

/-! ### The engines of a tile -/

/-- R198: one element of a copy in scratch: its destination bytes are the source bytes of the same linear positions, where no source byte is
a destination byte (R198 leaves those undefined), and no other byte changes. -/
def Claim.CopyMovesAnElement : Prop :=
  ∀ (s t : State) (o : Op) (e : Nat), o.kind = .copy → Handle.level o.hd ≠ 3 → Handle.level o.hs ≠ 3 → s.bars = [] →
    let us := s.unitOfHandle o.hs
    let ud := s.unitOfHandle o.hd
    let w := Handle.width o.hd
    let src (i : Nat) := sideKey s o.hs us (Handle.byteAddr o.hs (e * w + i)) 1 1
    let dst (i : Nat) := sideKey s o.hd ud (Handle.byteAddr o.hd (e * w + i)) 1 2
    (∀ i, i < w → overlaps s o us ud (Handle.byteAddr o.hd (e * w + i)) = false) →
    moveElem s o [ud] e = .ok t →
      (∀ i ks kd, i < w → src i = .ok ks → dst i = .ok kd → (∀ j, j < w → j ≠ i → dst j ≠ .ok kd) →
        Mem.read t.mem kd = Mem.read s.mem ks) ∧
      (∀ a, (∀ i, i < w → dst i ≠ .ok a) → Mem.read t.mem a = Mem.read s.mem a)

/-- R94, R95, R194, R206: a step of the engine on an operation within the package moves an element, credits the destination barrier, and
ends the operation with the last; a fault is raised by ENGINE_FAULT, with the destination elements after the faulting one alone left
undefined; a rat replies; the last source byte credits the source barrier. -/
def Claim.EngineMoves : Prop :=
  ∀ (c : CoreId) (q : BitVec 16) (o : Op) (s : State), OpLive s c q o →
    let u : State := { s with sel := c }
    let units := u.copyUnits o
    let e := o.done
    let pt := s.tile.ptile
    (s.arg = .credit pt c q 1 → o.remote = none → e < o.total → (∀ d, o.kind ≠ .ldPlace d) → (∀ d, o.kind ≠ .stPlace d) →
      (∀ code p a b m g, o.kind ≠ .rat code p a b m g) →
      (∀ w, moveElem u o units e = .ok w →
        let x := w.plainKeys (if w.converting then w.destKeys o units e (e + 1) else [])
        let v := ((x.cureOp o units e (e + 1)).creditOp o e (e + 1)).mapOp o fun p => { p with done := e + 1 }
        Does .engineCredit s { (if e + 1 = o.total then v.opEnds o else v) with sel := s.sel }) ∧
      (∀ x, moveElem u o units e = .error x →
        ∃ t : State, Does .engineCredit s t ∧
          (∀ a, a ∉ u.destKeys o units (e + 1) o.total → (∀ b ∈ s.bars, a < b ∨ b + 16 ≤ a) → Mem.read t.mem a = Mem.read s.mem a) ∧
          Soon t s.now .engineFault (.fault pt o.core o.seq x.cls x.acc x.addr e))) ∧
    (∀ n code p a b m g w old, s.arg = .credit pt c q n → o.remote = none → o.kind = .rat code p a b m g →
      u.atomicWord s.tile.task.cnum a code b m = .ok (w, old) → Does .engineCredit s { w.ratReply o g old with sel := s.sel }) ∧
    (s.arg = .op pt c q → o.srcDone = true → Does .sourceCredit s s) ∧
    (∀ k, s.arg = .op pt c q → o.srcDone = false → o.sbar = some k → (s.bar k).live = true →
      ∃ t : State, Does .sourceCredit s t ∧ t.bar k = (s.bar k).credit (u.placeSource o) 0 ∧
        ∀ a, (a < k ∨ k + 16 ≤ a) → Mem.read t.mem a = Mem.read s.mem a)

/-- R45, R47, R191, R194: the completion point of an operation fills its slots and frees its record; a fault keeps the record with its cause
and poisons the slots; under MODE.PRECISE it stops the task at the instruction (R195). -/
def Claim.EngineEnds : Prop :=
  ∀ (c : CoreId) (q : BitVec 16) (o : Op) (s : State), OpLive s c q o →
    let pt := s.tile.ptile
    (s.arg = .op pt c q → o.done = o.total →
      ∃ t : State, Does .dmaCompletion s t ∧ t.tile.op? c q = none ∧ t.tile.q = s.tile.q.map (fillSlots (.dma c q) s.now) ∧ t.mem = s.mem) ∧
    (s.arg = .op pt c q → o.done ≠ o.total → Does .dmaCompletion s s) ∧
    (∀ cls acc addr elem, s.arg = .fault pt c q cls acc addr elem →
      let x := o.trap s.tile.task.id cls acc addr elem (if cls = .linkFail then 3 else 5)
      ∃ t : State, Does .engineFault s t ∧ (∃ p, t.tile.op? c q = some p ∧ p.fault = some x ∧ p.running = false ∧ p.done = o.done) ∧
        t.tile.q = s.tile.q.map (poisonSlots (.dma c q) x) ∧
        (o.precise = true → t.tile.stop = some { trap := { x with precise := true }, core := some o.core, captured := false }) ∧
        (∀ k, o.dbar = some k → o.sbar = none → (s.bar k).live = true → (t.bar k).err = true ∧
          ((s.bar k).err = false → (t.bar k).ecode = if cls = .linkFail then 3 else 5)))

/-- R252, R254, R260: the array applies the K-steps of its oldest mma one by one, each after the cycles of its format pair; with the last the
mma unlocks its handles and fills its slots, and the next one begins. The oldest epi waits for the K-steps on its slot and then has written
its output. R412: none of this happens while the task is stopped. -/
def Claim.ArrayEnds : Prop :=
  ∀ (s : State), s.arg = .tile s.tile.ptile →
    (s.tile.halted = true → Does .mmaCompletion s s ∧ Does .epiCompletion s s) ∧
    (∀ m ms, s.tile.halted = false → s.tile.mmas = m :: ms →
      (m.steps + 1 < m.blocks → ∃ t : State, Does .mmaCompletion s t ∧ t.tile.mmas = { m with steps := m.steps + 1 } :: ms ∧
        t.tile.q = s.tile.q ∧ t.mem = (s.kApply m).mem ∧
        ∃ e ∈ t.due, e.at_ = s.now + m.cycles ∧ e.ev = .mmaCompletion ∧ e.arg = .tile s.tile.ptile) ∧
      (m.blocks ≤ m.steps + 1 → ∃ t : State, Does .mmaCompletion s t ∧ t.tile.mmas = ms ∧
        t.tile.q = s.tile.q.map (fillSlots (.mma m.id) s.now) ∧ t.mem = (s.kApply m).mem ∧
        ∀ n ns, ms = n :: ns → ∃ e ∈ t.due, e.at_ = s.now + n.cycles ∧ e.ev = .mmaCompletion ∧ e.arg = .tile s.tile.ptile)) ∧
    (∀ e es, s.tile.halted = false → s.tile.epis = e :: es →
      ((∃ m ∈ s.tile.mmas, m.slot = e.slot) →
        ∃ t : State, Does .epiCompletion s t ∧ t.tile = s.tile ∧ t.mem = s.mem ∧ Later t s.now .epiCompletion (.tile s.tile.ptile)) ∧
      ((∀ m ∈ s.tile.mmas, m.slot ≠ e.slot) →
        ∃ t : State, Does .epiCompletion s t ∧ t.tile.epis = es ∧ t.tile.q = s.tile.q.map (fillSlots (.epi e.id) s.now) ∧
          t.tile.lfsre = s.tile.lfsre ∧ t.mem = (storeElems e.h s 0 (epiOutput s e)).mem))

/-- R99, R100: a lock bit held for 4,096 cycles is cleared and its holder marked; a younger one stays; the lease of a line ends. -/
def Claim.LocksAndLeasesEnd : Prop :=
  ∀ (bank bit line : Nat) (l : Lock) (s : State),
    (s.arg = .num2 bank bit → (s.locks.find? fun l => l.bank = bank ∧ l.bit = bit) = some l →
      (l.since + 4096 ≤ s.now →
        ∃ t : State, Does .lockLost s t ∧ t.locks = s.locks.erase l ∧ t.mem = s.mem ∧
          (l.tile = s.tile.ptile → (t.tile.core l.core).lost = true)) ∧
      (s.now < l.since + 4096 → Does .lockLost s s)) ∧
    (s.arg = .num line →
      ∃ t : State, Does .leaseEnd s t ∧ t.mem = s.mem ∧ ∀ x, x ∈ t.rac ↔ x ∈ s.rac ∧ (x.1 ≠ line ∨ s.now < x.2))

/-- The steps of the engines, the lock bits and the remote atomic cache. -/
def Obligations.EngineEvents : Prop := Claim.CopyMovesAnElement ∧ Claim.EngineMoves ∧ Claim.EngineEnds ∧ Claim.ArrayEnds ∧ Claim.LocksAndLeasesEnd

/-! ### The cop engines, collectives, re-shard jobs -/

/-- R268 to R270: the engine takes a request up in its turn: what the function comes to goes into the request, and the delivery follows; a
request behind an earlier one of its stream waits, as does one at an engine that has as many as it accepts; a function under way is marked
so. -/
def Claim.EngineTakesARequest : Prop :=
  ∀ (n : Nat) (r : Req) (s u : State), s.arg = .num n → (s.reqs.find? fun r => r.n == n) = some r →
    (r.phase = 0 → r.mode < 3 → (s.copBehind r = true ∨ s.copFull r = true) → Does .copReply s (s.after 1 .copReply (.num n))) ∧
    (r.phase = 0 → s.copBehind r = false → s.copFull r = false →
      (∀ st data, copFn r.fn7 r s = (u, .done st data) →
        Does .copReply s ((u.mapReq n fun q => { q with phase := 9, status := st, word := replyWord st data }).copDeliver n)) ∧
      (∀ w, copFn r.fn7 r s = (u, .word w) →
        Does .copReply s ((u.mapReq n fun q => { q with phase := 9, status := 0, word := w }).copDeliver n)) ∧
      (∀ t, copFn r.fn7 r s = (u, .trap t) → Does .copReply s ((u.mapReq n fun q => { q with phase := 9, raise := some t }).copDeliver n)) ∧
      (∀ k, copFn r.fn7 r s = (u, .again k) → Does .copReply s (u.after k .copReply (.num n))) ∧
      (copFn r.fn7 r s = (u, .running) → Does .copReply s (u.mapReq n fun q => if q.phase = 0 then { q with phase := 1 } else q)))

/-- R144, R267, R268: a performed request whose task is resident and not stopped: in Wait mode gd gets the reply word and the cop retires; in
Post mode a STATUS that is not OK waits as COP.FAIL for the stream's next report point, and OK leaves the stream as it is; the request is
gone. -/
def Claim.RepliesArrive : Prop :=
  ∀ (n : Nat) (r : Req) (s : State), s.arg = .num n → (s.reqs.find? fun r => r.n == n) = some r → r.phase = 9 → r.raise = none →
    r.status ≠ stLost → r.dbar = none → r.sbar = none → s.tile.resident = true → s.tile.task.id = r.tid → s.tile.halted = false →
    let c := s.tile.core r.core
    c.fin = false →
    ∃ t : State, Does .copReply s t ∧ (∀ q ∈ t.reqs, q.n ≠ n) ∧ t.mem = s.mem ∧
      let d := t.tile.core r.core
      (r.mode = 1 → c.hold = some (.reply n) → d.pc = (backEdge c.pc c.loops).1 ∧ d.hold = none ∧ (r.gd ≠ 0 → d.rg r.gd = r.word) ∧
        ∀ x, x ≠ r.gd → d.rg x = c.rg x) ∧
      (r.mode = 0 → c.hold = none → (∀ p ∈ c.pend, p.2 ≠ .reply n ∧ ∀ w, p.2 ≠ .cop n w) →
        d.pc = c.pc ∧ d.g = c.g ∧ d.late = (if r.status = 0 then c.late else c.late ++ [copFail r]) ∧ t.tile.stop = none) ∧
      (r.mode = 2 → r.status = 0 → c.hold = none → (r.gd, .reply n) ∈ c.pend → (r.gd ≠ 0 → d.rg r.gd = r.word) ∧ d.pc = c.pc)

/-- R271 to R274: a full episode below .pod: with requests that disagree, or a source that cannot be read, every participant gets the STATUS,
and with requests that agree every participant's request ends; an episode that is not full, or is broken, is not performed; a killed
participant gives MEMBERLOST to the others, for the rest of the episode. -/
def Claim.CollectivesEnd : Prop :=
  ∀ (k : EpKey) (p : Req → Part × Option EFault) (s : State), s.arg = .ep k →
    let rs := s.epReqs k
    let l := rankParts (rs.map fun r => (p r).1)
    let st := if collCheck l ≠ 0 then collCheck l else if collUnread l = true then stFault else 0
    ((rs = [] ∨ s.epFull k = false ∨ k ∈ s.gone) → Does .collectiveEpisode s s) ∧
    (rs ≠ [] → s.epFull k = true → k ∉ s.gone → k.scope ≠ 4 → s.toldBy k s.self = none → (∀ r ∈ rs, s.partOf r = some (p r)) →
      (st ≠ 0 → ∃ t : State, Does .collectiveEpisode s t ∧ t.mem = s.mem ∧
        ∀ r ∈ rs, ∃ q ∈ t.reqs, q.n = r.n ∧ q.phase = 9 ∧ q.status = st ∧ Soon t s.now .copReply (.num r.n)) ∧
      (st = 0 → ∃ t : State, Does .collectiveEpisode s t ∧ ((∀ r ∈ rs, r.fn7 = 5) → MemSame s t) ∧
        ∀ r ∈ rs, ∃ q ∈ t.reqs, q.n = r.n ∧ q.phase = 9 ∧ (q.status = 0 ∨ q.status = stFault) ∧ Soon t s.now .copReply (.num r.n))) ∧
    (∃ t : State, Does .memberLost s t ∧ k ∈ t.gone ∧ t.mem = s.mem ∧
      ∀ r ∈ s.reqs, r.ep = some k → r.phase ≠ 9 → ∃ q ∈ t.reqs, q.n = r.n ∧ q.phase = 9 ∧ q.status = stLost)

/-- R348: at 64 further transfers or a microsecond the record of a running job is written; before that nothing happens. R347: a transfer
that another package has acknowledged is complete; one that a fault answers stops the job. -/
def Claim.JobsGoOn : Prop :=
  ∀ (c n x : Nat) (j : Job) (s : State), s.job? c n = some j → j.st = 2 →
    (s.arg = .num2 c n → j.nextX < j.wnext + 64 → s.now < j.wtime + 3000 → Does .progressRecordWrite s s) ∧
    (s.arg = .num2 c n → (j.wnext + 64 ≤ j.nextX ∨ j.wtime + 3000 ≤ s.now) →
      (∀ u, s.gwrite c j.prog j.record = .ok u →
        ∃ t : State, Does .progressRecordWrite s t ∧ t.mem = u.mem ∧ Later t s.now .progressRecordWrite (.num2 c n) ∧
          ∀ k, t.job? c n = some k → k.wnext = j.nextX ∧ k.wtime = s.now) ∧
      (∀ e, s.gwrite c j.prog j.record = .error e → Does .progressRecordWrite s (s.jobFails c j e.1 (2 ^ 32 - 1) e.2))) ∧
    (x ∉ j.done →
      (s.arg = .xfer c n x none true → Does .trestleTransferComplete s (s.xferDone c j x)) ∧
      (s.arg = .xfer c n x none false → Does .trestleTransferComplete s (s.tryXfer c j x)) ∧
      (∀ cls a, s.arg = .xfer c n x (some (cls, a)) false → Does .trestleTransferComplete s (s.jobFails c j cls x a))) ∧
    (x ∈ j.done → ∀ e b, s.arg = .xfer c n x e b → Does .trestleTransferComplete s s)

/-- Replies, collectives and re-shard jobs. -/
def Obligations.CopEngineEvents : Prop := Claim.EngineTakesARequest ∧ Claim.RepliesArrive ∧ Claim.CollectivesEnd ∧ Claim.JobsGoOn

/-- R274: an INT32 sum gives every element modulo 2^32 whatever order the contributions are combined in; R273: what allgather and bcast give. -/
def Obligations.CollectiveResults : Prop :=
  ∀ (l : List Part) (x : Part) (free r : Nat), l ≠ [] → l.head? = some x →
    (x.fn7 = 0 → collRed x.ctl = 0 → Fmt.ofCode x.dstFmt.toNat = some .int32 →
      collResult l free r = (List.range (x.dstBytes / 4)).flatMap fun e => leBytes 4 ((l.map fun p => byteElem p.data 4 e).sum % 2 ^ 32)) ∧
    (x.fn7 = 1 → collResult l free r = l.flatMap (·.data)) ∧
    (x.fn7 = 4 → ∀ p, l[x.root.toNat]? = some p → collResult l free r = p.data)

/-! ### Stops, records, handlers, dispositions -/

/-- R411, R413, R415: the capture: every result and port push in flight lands, the task stays stopped, and a record of the trap with its task, tile and core
waits for its mailbox; it waits for the word of an ld.acq; a captured stop is not captured again. R54: the tumbler at its bound stops the
task. -/
def Claim.Capture : Prop :=
  ∀ (x : Stop) (s : State), s.arg = .tile s.tile.ptile →
    (s.tile.stop = some x → s.tile.resident = true → x.captured = false →
      (∀ c h, (s.tile.core c).hold = some h → ∀ i r k, h ≠ .packet i r k) →
      ∃ t : State, Does .stopCapture s t ∧ t.tile.stop = some { x with captured := true } ∧ t.tile.pushes = [] ∧
        (s.tile.pushes = [] → t.mem = s.mem) ∧
        (∀ p, s.tile.pushes = [p] → s.bars = [] → Mem.readRange t.mem p.key 256 = leBytes 256 p.val.toNat) ∧
        (∀ c, (t.tile.core c).flight = [] ∧ (t.tile.core c).pc = (s.tile.core c).pc) ∧
        (∃ m ∈ t.mail, m.trap = x.trap ∧ m.tid = some s.tile.task.id ∧ m.tile = some s.tile.ptile ∧ m.core = x.core ∧
          m.fctx = s.tile.task.cnum ∧ m.hctx = none ∧ m.found = none ∧ m.writes = []) ∧
        Soon t s.now .trapDelivery .none) ∧
    (∀ c i r k, s.tile.stop = some x → s.tile.resident = true → x.captured = false → (s.tile.core c).hold = some (.packet i r k) →
      Does .stopCapture s (s.after 8 .stopCapture (.tile s.tile.ptile))) ∧
    ((s.tile.stop = none ∨ (s.tile.stop = some x ∧ x.captured = true)) → Does .stopCapture s s) ∧
    (s.tile.resident = true → s.tile.tumbler = 4096 → Does .deadlock s (s.takeTrap none { cls := .deadlock, precise := false })) ∧
    (s.tile.tumbler ≠ 4096 → Does .deadlock s s)

/-- R361, R363, R415, R416: with one stop's record waiting and the task's context a child of the keystone, the record goes to the first slot of
its core in the mailbox of its quad, for the keystone, with the HENTRY and HSTACK that the keystone's control page then holds, and its handler's
run follows; its bits [7:0] are the class number. DEADLOCK, which no core reports, takes the load core's slot (R452, R453). -/
def Claim.Delivery : Prop :=
  ∀ (m : Mail) (i : Nat) (pt : BitVec 8) (x : Ctx) (s : State), s.mail = [m] → m.hctx = none → m.quad = none → m.running = none →
    m.passed = none → m.found = none → m.tid = some i → m.tile = some pt → m.trap.cls ≠ .queueError → m.trap.cls ≠ .nodeReject →
    s.ctx? m.fctx = some x → x.destroyed = false → x.parent = 0 → (∀ a, s.gread 0 0 64 ≠ .error (.memError, a)) →
    ∃ t m', Does .trapDelivery s t ∧ t.mail = [m'] ∧ m'.trap = m.trap ∧ m'.quad = some (pquad pt.toNat) ∧
      m'.slot = some (2 * (3 * (pt.toNat % 4) + coreNum (m.core.getD .load))) ∧ m'.hctx = some 0 ∧ t.mem = s.mem ∧ t.tile = s.tile ∧
      Soon t s.now .handlerRun (.quad (BitVec.ofNat 6 (pquad pt.toNat))) ∧
      (m.record = 0 → m'.record.toNat % 2 ^ 8 = classNum m.trap.cls) ∧
      (∀ u bs, s.gread 0 0 64 = .ok (u, bs) →
        let entry := leNat bs / 2 ^ 64 % 2 ^ 32
        let stack := leNat bs / 2 ^ 96 % 2 ^ 32
        m'.found = some (0, if leNat bs / 2 ^ 128 = 0 ∧ entry < 0xE0000000 ∧ stack < 0xE0000000 then
          some (BitVec.ofNat 32 entry, BitVec.ofNat 32 stack) else none))

/-- R363, R417, R421: the run starts at the HENTRY found when the trap was raised, with HSTACK and the slot number; a handler without one, or an
entry that cannot be fetched, passes the record on; one run at a time. -/
def Claim.HandlerStarts : Prop :=
  ∀ (q : BitVec 6) (m : Mail) (s : State), s.arg = .quad q →
    (∀ r, s.running q.toNat = some r → Does .handlerRun s s) ∧
    (s.running q.toNat = none → (s.mail.find? fun m => m.quad == some q.toNat) = some m →
      (∀ h, m.found = none ∨ m.found = some (h, none) → Does .handlerRun s (s.pass m)) ∧
      (∀ h entry stack, m.found = some (h, some (entry, stack)) →
        (∀ k, s.xlate (m.hctx.getD 0) entry.toNat 3 = .ok k → s.poisoned k 2 = false →
          ∃ u : State, Does .handlerRun s u ∧ u.mem = s.mem ∧ u.tile = s.tile ∧
            ∃ y ∈ u.mail, y.n = m.n ∧ y.running = some (entry, stack, BitVec.ofNat 32 (m.slot.getD 0))) ∧
        (∀ e, s.xlate (m.hctx.getD 0) entry.toNat 3 = .error e → e ≠ .memError → Does .handlerRun s (s.pass m))))

/-- R419 to R422: what each disposition does to the stopped task in focus: RESUME at the saved PCs, SKIP past the faulting instruction, KILL,
PASS to the next claiming ancestor, RETRY with the operation pending again; without RETRY the operation is abandoned. -/
def Claim.Dispositions : Prop :=
  ∀ (q : BitVec 6) (m : Mail) (x : Stop) (s : State), s.arg = .quad q → s.running q.toNat = some m → m.tid = some s.tile.task.id →
    s.tile.resident = true → s.tile.stop = some x → x.trap.cls ≠ .codeHash → (∃ c, (s.tile.core c).fin = false) → m.writes = [] →
    s.tile.heldFault = none →
    let freed (t : State) : Prop := (∀ y ∈ t.mail, y.n ≠ m.n) ∧ Soon t s.now .trapDelivery .none
    (s.tile.namedOp x.trap = none →
      ∃ t : State, Does .resume s t ∧ freed t ∧ t.tile.stop = none ∧ t.mem = s.mem ∧
        ∀ c, (t.tile.core c).pc = (s.tile.core c).pc ∧ (t.tile.core c).g = (s.tile.core c).g ∧
          (t.tile.core c).next = max (s.tile.core c).next s.now) ∧
    (∀ o, s.tile.namedOp x.trap = some o →
      (∃ t : State, Does .resume s t ∧ freed t ∧ t.tile.stop = none ∧ t.tile.op? o.core o.seq = none) ∧
      (∃ t : State, Does .resumeRetry s t ∧ freed t ∧ t.tile.stop = none ∧
        ∃ p, t.tile.op? o.core o.seq = some p ∧ p.fault = none ∧ p.running = true)) ∧
    (∀ c, x.core = some c → x.trap.precise = true → x.trap.async = false → x.trap.cls ≠ .ecall →
      ∃ t : State, Does .skip s t ∧ freed t ∧ t.tile.stop = none ∧
        (t.tile.core c).pc = (backEdge (s.tile.core c).pc (s.tile.core c).loops).1 ∧
        ∀ d, d ≠ c → (t.tile.core d).pc = (s.tile.core d).pc) ∧
    (∃ t : State, Does .kill s t ∧ t.tile.resident = false ∧ t.tile.stop = none) ∧
    (∀ h, m.hctx = some h → h ≠ 0 →
      ∃ t : State, Does .pass s t ∧ t.tile = s.tile ∧ Soon t s.now .trapDelivery .none ∧
        ∀ y ∈ t.mail, y.n = m.n → y.quad = none ∧ y.slot = none ∧ y.hctx = none ∧ y.found = none ∧ y.passed = some h)

/-- R362, R417 to R419: the accesses of a handler's run: below 0xE000_0000 in the handling context's space, an access that fails being handled
as PASS; the record, RUNSLOT, and for a notification a window of zeros; a write to the window of a stopped task is kept, and changes nothing
before the resumption; DISP ends the run. -/
def Claim.WindowAccesses : Prop :=
  ∀ (q : BitVec 6) (m : Mail) (k n : Nat) (a : Word) (bs : List Byte) (s : State), s.running q.toNat = some m → m.slot = some k → k < 32 →
    let h := m.hctx.getD 0
    let w := 0xE0000000 + 0x400000 * k
    let r := 0xF0000000 + 512 * k
    let x := leNat bs
    let reads (t : State) (l : List Byte) : Prop := t.qmcIn = s.qmcIn ++ [(q.toNat, l)] ∧ t.mem = s.mem ∧ t.tile = s.tile ∧ t.mail = s.mail
    (s.arg = .qmc q .load a n bs →
      (a.toNat < 0xE0000000 →
        (∀ u l, s.gread h a.toNat n = .ok (u, l) → ∃ t : State, Does .stateWindow s t ∧ reads t l) ∧
        (∀ e v, s.gread h a.toNat n = .error (e, v) → e ≠ .memError → Does .stateWindow s (s.pass m))) ∧
      (m.tid = none → w ≤ a.toNat → a.toNat + n ≤ w + 0x228000 →
        ∃ t : State, Does .stateWindow s t ∧ reads t (List.replicate n 0)) ∧
      (r ≤ a.toNat → a.toNat + n ≤ r + 256 →
        ∃ t : State, Does .stateWindow s t ∧ reads t ((List.range n).map fun i => fld (8 * (a.toNat - r + i)) 8 m.record)) ∧
      (a = 0xF0004004 → n = 4 → ∃ t l, Does .stateWindow s t ∧ reads t l ∧ leNat l = k)) ∧
    (s.arg = .qmc q .store a n bs →
      (a.toNat < 0xE0000000 →
        (∀ u, s.gwrite h a.toNat bs = .ok u → Does .stateWindow s (u.plainRuns h [(a.toNat, bs.length)])) ∧
        (∀ e v, s.gwrite h a.toNat bs = .error (e, v) → e ≠ .memError → Does .stateWindow s (s.pass m))) ∧
      (m.tid = some s.tile.task.id → s.tile.resident = true → w ≤ a.toNat → a.toNat + bs.length ≤ w + 0x228000 →
        ∃ t : State, Does .stateWindow s t ∧ t.mem = s.mem ∧ t.tile = s.tile ∧ ∃ y ∈ t.mail, y.n = m.n ∧
          y.writes = m.writes ++ (bs.mapIdx fun i b => (a.toNat - w + i, b)).filter fun p => s.tile.writable p.1) ∧
      (a.toNat = r + 256 → Does .stateWindow s (if 3 ≤ x % 8 then s.pass m else s.disposed m (x % 8) (decide (x % 16 = 8)))))

/-- R418: what was written through the state window takes effect when the task is resumed: the PC of a core, a g register, a handle register but
for LOCK, a p register, a byte of scratch. -/
def Claim.WindowWrites : Prop :=
  ∀ (q : BitVec 6) (m : Mail) (x : Stop) (o : Nat) (bs : List Byte) (c : CoreId) (s : State), s.arg = .quad q → s.running q.toNat = some m →
    m.tid = some s.tile.task.id → s.tile.resident = true → s.tile.stop = some x → x.trap.cls ≠ .codeHash →
    (∃ c, (s.tile.core c).fin = false) → s.tile.namedOp x.trap = none → s.tile.heldFault = none →
    m.writes = (bs.mapIdx fun i b => (o + i, b)) → s.bars = [] →
    ∃ t : State, Does .resume s t ∧ t.tile.stop = none ∧
      (o = 640 * coreNum c → bs.length = 4 → (t.tile.core c).pc = BitVec.ofNat 32 (leNat bs) ∧ t.mem = s.mem) ∧
      (∀ r : GReg, r ≠ 0 → o = 640 * coreNum c + 4 * r.toNat → bs.length = 4 →
        (t.tile.core c).rg r = BitVec.ofNat 32 (leNat bs) ∧ (t.tile.core c).pc = (s.tile.core c).pc ∧ t.mem = s.mem) ∧
      (∀ r : HReg, o = 2048 + 512 * coreNum c + 32 * r.toNat → bs.length = 32 → leNat bs / 2 ^ 50 % 16 ≤ 10 →
        (∀ j, j < 239 → (t.tile.rh c r).getLsbD j = (leNat bs).testBit j) ∧ t.mem = s.mem) ∧
      (∀ r : PReg, o = 4352 + 8 * r.toNat → bs.length = 8 →
        t.tile.rp r = (if r = 0 then -1 else BitVec.ofNat 64 (leNat bs)) ∧ t.mem = s.mem) ∧
      (∀ b, bs = [b] → 163840 ≤ o → o < 163840 + s.tile.task.limit →
        Mem.read t.mem (tileKey s.tile.ptile.toNat + (o - 163840)) = b ∧
          ∀ a, a ≠ tileKey s.tile.ptile.toNat + (o - 163840) → Mem.read t.mem a = Mem.read s.mem a)

/-- What follows a stop. -/
def Obligations.StopsAndHandlers : Prop :=
  Claim.Capture ∧ Claim.Delivery ∧ Claim.HandlerStarts ∧ Claim.Dispositions

/-- The accesses of a handler's run, and what its writes to a stopped task come to. -/
def Obligations.HandlerAccesses : Prop := Claim.WindowAccesses ∧ Claim.WindowWrites

/-! ### Queues and nodes -/

/-- R301, R302: a started packet: NOP is complete at once; NODE counts the node that its decrement launches, GRAPH the runs of its roots; in a
LOST context a packet completes with nothing done (R437). -/
def Claim.PacketsRun : Prop :=
  ∀ (q : Nat) (x : BitVec 512) (p : Pkt) (s : State), s.arg = .cmd q x → s.startedPkt q x = some p →
    let ended (t : State) : Prop := Soon t s.now .packetCompletion (.num2 q p.idx) ∧ ∃ y ∈ t.packets, y.q = q ∧ y.idx = p.idx ∧ y.st = 3
    let a := pktField x 64 64
    let roots := graphRoots p.cnum a (pktField x 128 64) (pktField x 192 16) 0 s
    (∃ t : State, Does .packetNop s t ∧ ended t ∧ t.mem = s.mem ∧ t.nodes = s.nodes) ∧
    (s.isLost p.cnum = true → ∃ t : State, Does .node s t ∧ Does .graph s t ∧ ended t ∧ t.mem = s.mem ∧ t.nodes = s.nodes) ∧
    (s.isLost p.cnum = false →
      (∀ t n, s.decrement p.cnum a none none = (t, .applied n true) → Does .node s (t.runPkt p [a])) ∧
      (∀ t n, s.decrement p.cnum a none none = (t, .applied n false) → Does .node s (t.runPkt p [])) ∧
      (∀ t, s.decrement p.cnum a none none = (t, .zero) ∨ s.decrement p.cnum a none none = (t, .rejected) → Does .node s (t.runPkt p [])) ∧
      Does .graph s (roots.1.runPkt p (roots.2.eraseDups.filter fun b => roots.1.nodeOpen p.cnum b)))

/-- R307, R33: a decrement takes one from PREDS in memory; at 0 the node is ready: its record is read, its instances wait for tiles in index
order, and the distributor looks for work; a node whose PREDS is 0 stays as it is; one that fails a check of R309 is rejected. -/
def Claim.Decrements : Prop :=
  ∀ (c addr : Nat) (src : Option (BitVec 8)) (bs : List Byte) (key : Nat) (v u : State) (s : State), s.arg = .node c addr src →
    s.gread c addr 64 = .ok (v, bs) → v.gatomic c (addr + 12) 2 = .ok (u, key) →
    let x : BitVec 512 := BitVec.ofNat 512 (leNat bs)
    let preds := nodeField x 96 16
    let t := u.store key (leBytes 2 (preds - 1))
    let n := u.nodeRec c addr
    (preds = 0 → Does .nodeDecrement s u) ∧
    (1 < preds → n.st = 0 →
      ∃ w : State, Does .nodeDecrement s w ∧ w.mem = t.mem ∧ (w.nodeRec c addr).st = 0 ∧ (w.nodeRec c addr).ended = false) ∧
    (preds = 1 → n.st = 0 → t.nodeCheck c (putField x 96 16 0) = 0 →
      ∃ w : State, Does .nodeDecrement s w ∧ w.mem = t.mem ∧ Soon w s.now .distributorPlace .none ∧
        let m := w.nodeRec c addr
        m.st = 1 ∧ m.run = n.run + 1 ∧ m.img = putField x 96 16 0 ∧ m.place = List.range (nodeCount x) ∧ m.left = nodeCount x ∧
          m.order = s.readyN ∧ m.src = src ∧ m.readyAt = s.now) ∧
    (preds = 1 → n.st = 0 → t.nodeCheck c (putField x 96 16 0) ≠ 0 →
      Does .nodeDecrement s ((t.putNode { n with img := putField x 96 16 0 }).reject c addr (t.nodeCheck c (putField x 96 16 0))
        (some (putField x 96 16 0))))

/-- R303: the completion of a packet: SIGVAL is written where it asks for it, and the packet is gone. -/
def Claim.PacketsComplete : Prop :=
  ∀ (q i : Nat) (p : Pkt) (s : State), s.arg = .num2 q i → (s.packets.find? fun x => x.q = q ∧ x.idx = i ∧ x.st = 3) = some p →
    let d := (s.queues.find? fun y => y.n = q).getD ⟨q, 0, 0, 0, 0, 0⟩
    let addr := pktField p.pkt 256 64
    let gone (t : State) : Prop := t.packets.map (fun y => (y.q, y.idx, y.pkt)) = (s.packets.erase p).map fun y => (y.q, y.idx, y.pkt)
    (pktSig p.pkt = false → ∃ t : State, Does .packetCompletion s t ∧ gone t ∧ t.mem = s.mem) ∧
    (pktSig p.pkt = true → d.host = true →
      ∃ t : State, Does .packetCompletion s t ∧ gone t ∧ t.mem = (s.writeBytes (hostKey addr) (leBytes 8 (pktField p.pkt 320 64))).mem) ∧
    (pktSig p.pkt = true → d.host = false → ∀ u, ({ s with packets := s.packets.erase p } : State).gwrite p.cnum addr
        (leBytes 8 (pktField p.pkt 320 64)) = .ok u →
      ∃ t : State, Does .packetCompletion s t ∧ gone t ∧ t.mem = u.mem)

/-- R300, R304, R305: a poll of the queue due next, with its ring in host memory: an unchanged write index doubles the interval; one new
packet is parsed and the read index written; the invalidation of a held queue's line makes it due at once. -/
def Claim.QueuesPolled : Prop :=
  ∀ (q : QSt) (s : State), s.arg = .num q.n →
    let w := leNat (Mem.readRange s.mem (hostKey q.widx) 8)
    let x : BitVec 512 := BitVec.ofNat 512 (leNat (Mem.readRange s.mem (hostKey (q.packetAt q.rd)) 64))
    (s.nextDue = none → Does .queuePoll s s) ∧
    (s.nextDue = some q → s.now < s.scanAt → Does .queuePoll s (s.after (s.scanAt - s.now) .queuePoll (.num q.n))) ∧
    (s.nextDue = some q → s.scanAt ≤ s.now → q.ok = true → q.host = true → 0 < q.ival → q.wr = q.rd →
      (w = q.rd → ∃ t : State, Does .queuePoll s t ∧ t.mem = s.mem ∧ t.scanLast = q.n ∧ Later t s.now .queuePoll (.num q.n) ∧
        (t.queues.find? fun p => p.n = q.n) =
          some { q with ival := min (2 * q.ival) 262144, due := s.now / 3 + min (2 * q.ival) 262144 }) ∧
      (w = q.rd + 1 → pktOk x = true → (∀ p ∈ s.packets, p.q ≠ q.n) →
        ∃ t : State, Does .queuePoll s t ∧ t.mem = (s.writeBytes (hostKey q.ridx) (leBytes 8 (q.rd + 1))).mem ∧
          Later t s.now .queuePoll (.num q.n) ∧ Soon t s.now (pktStep x) (.cmd q.n x) ∧
          ({ q := q.n, idx := q.rd, pkt := x, st := 1, cnum := s.queueOwner q.n, nodes := [] } : Pkt) ∈ t.packets)) ∧
    ((s.queues.find? fun p => p.n = q.n) = some q → q.enabled = true → q.host = true → q.hold = true →
      ∃ t : State, Does .heldLineInvalidate s t ∧ Soon t s.now .queuePoll (.num q.n) ∧ t.mem = s.mem ∧
        (t.queues.find? fun p => p.n = q.n) = some { q with ival := 64, due := s.now / 3 }) ∧
    ((s.queues.find? fun p => p.n = q.n) = some q → (q.enabled && q.host && q.hold) = false → Does .heldLineInvalidate s s)

/-- Command queues, their packets and the nodes they launch. -/
def Obligations.QueuesAndNodes : Prop := Claim.PacketsRun ∧ Claim.Decrements ∧ Claim.PacketsComplete ∧ Claim.QueuesPolled

/-! ### Tasks: placing, completing, saving, restoring -/

/-- R36: the tile of an instance that has just started: the entry state of each core and of the tile. -/
def Claim.StartState : Prop :=
  ∀ (n : NodeRec) (inst l : Nat) (pt : BitVec 8) (s : State),
    let x := n.img
    ∃ t : Tile, (s.startTask n inst l pt).findTile pt = some t ∧ t.resident = true ∧ t.stop = none ∧ t.owner = some n.cnum ∧
      t.task.cnum = n.cnum ∧ t.task.node = n.addr ∧ t.task.inst = inst ∧ t.task.ltile = l ∧ t.task.limit = nodeLimit x ∧ t.q = {} ∧
      t.vallot.toNat = (if nodeField x 336 8 = 0 then 8 else nodeField x 336 8 % 64) ∧ t.vgrp = 1 ∧ t.rmode = .rne ∧ t.lfsrc = 1 ∧ t.lfsre = 1 ∧
      t.ringHd = 0 ∧ t.ringTl = 0 ∧ (∀ k : Fin 56, t.v[k] = 0 ∧ t.vtag[k] = .empty) ∧
      (∀ c lo, (c, lo) ∈ [(CoreId.load, 32), (.compute, 48), (.store, 64)] →
        let y := t.core c
        y.pc = wrap32 (0x10000 + 4 * nodeField x lo 16) ∧ y.fin = false ∧ y.loops = [] ∧ y.stklim = 0 ∧ y.rg 4 = wrap32 inst ∧
          y.rg 5 = wrap32 (nodeCount x) ∧ y.rg 6 = wrap32 (nodeId x) ∧
          (∀ r : GReg, (∀ k ∈ ([4, 5, 6] : List GReg), r ≠ k) → y.rg r = 0) ∧
          y.precise = nodeFlag x 0 ∧ y.checkstall = nodeFlag x 1 ∧ y.h[0] = entryHandle (nodeField x 128 56) ∧
          (∀ k : Fin 16, k ≠ 0 → y.h[k] = 0))

/-- R310, R311: a report of every context with tiles in the die is in force; with nothing that waits for tiles the distributor changes
nothing but the reports; a ready instance that waits alone and finds a tile starts there; while saved tasks are being restored or held
completions released, nothing is placed (R315). -/
def Claim.Placing : Prop :=
  ∀ (d c a l i pr ra id : Nat) (p : BitVec 8) (s : State),
    (s.arg = .num d → ∃ t : State, Does .dieReport s t ∧ t.mem = s.mem ∧ t.tile = s.tile ∧ t.rest = s.rest ∧
      ∀ x ∈ s.ctxs, ∀ r, s.reportOf x d = some r → r ∈ t.reports) ∧
    (s.settling = true → Does .distributorPlace s (s.after 0 .distributorPlace .none)) ∧
    (s.settling = false → s.waitingWork = [] → Does .distributorPlace s s.reportAll) ∧
    (s.settling = false → s.waitingWork = [.node c a pr ra id] →
      let n := s.nodeRec c a
      nodeGang n.img = false → n.dead = false → n.st = 1 → n.place = [i] → s.runnable c = true → s.reportAll.tileFor n i [] = some (l, p) →
        Does .distributorPlace s (s.reportAll.startTask n i l p).reportAll)

/-- R38: a task with nothing left leaves its tile; its node counts it, and with its last instance the node is complete. -/
def Claim.TasksComplete : Prop :=
  ∀ (s : State), s.arg = .tile s.tile.ptile →
    let k := s.tile.task
    let n := s.nodeRec k.cnum k.node
    (s.taskDone = false → Does .taskCompletion s s) ∧
    (s.taskDone = true → s.tile.stop = none → ¬(n.st = 2 ∧ n.run = k.run ∧ n.left = 1) →
      ∃ t : State, Does .taskCompletion s t ∧ t.tile.resident = false ∧ t.mem = s.mem ∧
        Soon t s.now .distributorPlace .none ∧ Soon t s.now .dieReport (.num (pdie s.tile.ptile.toNat)) ∧
        (n.st = 2 → n.run = k.run → (t.nodeRec k.cnum k.node).left = n.left - 1 ∧ (t.nodeRec k.cnum k.node).st = 2)) ∧
    (s.taskDone = true → s.tile.stop = none → n.st = 2 → n.run = k.run → n.left = 1 →
      ∃ t : State, Does .taskCompletion s t ∧ t.tile.resident = false ∧
        (nodeFuture n.img = 0 → nodeSuccs n.img = 0 → (t.nodeRec k.cnum k.node).st = 3 ∧ (t.nodeRec k.cnum k.node).ended = true))

/-- R318 to R321: a draining task is checkpointed at its bound; the image is written after the cycles of the save, once every packet that the task
has sent has been acknowledged or answered, and the tile left; with the last image written, or none to write, the directory and GEN commit
the switch. -/
def Claim.Saving : Prop :=
  ∀ (c k : Nat) (x : Ctx) (u : State) (s : State),
    let pt := s.tile.ptile
    let q := (((s.landEverything.settleCounts .load).settleCounts .compute).settleCounts .store).dropIdle s.tile.task.id
    let f := q.tile.frozen
    (s.arg = .tile pt → s.tile.drain = some k → k ≤ s.now → s.tile.resident = true → s.tile.saving = none →
      ∃ t : State, Does .drainBound s t ∧ t.tile.saving = some (s.now + saveCost s.tile) ∧ t.tile.drain = none ∧ t.mem = s.mem ∧
        Later t s.now .checkpoint (.tile pt)) ∧
    (s.arg = .tile pt → s.tile.drain = none → Does .drainBound s s) ∧
    (∀ w, s.arg = .tile pt → s.tile.saving = some w → w ≤ s.now → s.tile.resident = true → s.tile.unsettled = false →
      s.inFlight s.tile.task.id = false → s.countsReady = true → s.ctx? s.tile.task.cnum = some x → x.cnum = s.tile.task.cnum → x.freeSlot = some k → s.savePoisoned s.tile = false →
      q.gwriteParts x.parent (x.slotAt k) (q.imageParts f) = .ok u →
      ∃ t y i, Does .checkpoint s t ∧ t.tile.resident = false ∧ t.mem = u.mem ∧ t.ctx? x.cnum = some y ∧ i ∈ y.saved ∧ i.slot = k ∧
        i.tile = f ∧ i.valid = false ∧ Soon t s.now .saveCommit (.num x.cnum)) ∧
    (s.arg = .num c → s.ctx? c = some x →
      (let busy := s.tiles.any fun t => t.resident && t.task.cnum == c && (t.saving.isSome || x.out)
       (busy = true → Does .saveCommit s s) ∧
       ((∀ i ∈ x.saved, i.valid = true) → (x.out = false ∨ x.deadline = none) → Does .saveCommit s s) ∧
       (busy = false → ((∃ i ∈ x.saved, i.valid = false) ∨ (x.out = true ∧ x.deadline ≠ none)) → x.areaFits = true → s.writeDirectory x = .ok u →
         ∃ t y, Does .saveCommit s t ∧ t.mem = u.mem ∧ t.ctx? c = some y ∧ y.gen = (x.gen + 1) % 2 ^ 64 ∧ y.torn = false ∧
           (∀ i ∈ y.saved, i.valid = true ∧ i.gen = y.gen) ∧ Soon t s.now .distributorPlace .none)))

/-- R438: a die that has not saved by the deadline has a grace period of a tenth of the slice, then makes the context TORN. -/
def Claim.LateDies : Prop :=
  ∀ (c d : Nat) (x : Ctx) (s : State), s.arg = .num c → s.ctx? c = some x → x.out = true → x.deadline = some d →
    (d ≤ s.now → s.lateDies x ≠ [] → Does .saveDeadline s (s.after (s.tickT * 300) .gracePeriodEnd (.num c))) ∧
    (d ≤ s.now → s.lateDies x = [] → Does .saveDeadline s (s.mapCtx c fun y => { y with deadline := none })) ∧
    (s.now < d → Does .saveDeadline s s) ∧
    (s.lateDies x = [] → Does .gracePeriodEnd s s) ∧
    (∀ e es, s.lateDies x = e :: es →
      ∃ t y, Does .gracePeriodEnd s t ∧ t.ctx? c = some y ∧ y.torn = true ∧ t.mem = s.mem ∧
        ∃ m ∈ t.mail, m.trap.cls = .ctxTorn ∧ m.trap.addr = e ∧ m.fctx = c)

/-- R322, R323: a committed image is restored on the tile chosen for it, with its registers, and is saved no more; an event aimed at saved
state is held, in order, in the hold queue, and a 3,585th entry of 16 bytes loses the context. -/
def Claim.Restoring : Prop :=
  ∀ (c k : Nat) (x : Ctx) (i : Image) (e : HeldEv) (s : State), s.ctx? c = some x → x.cnum = c →
    (s.arg = .num2 c k → (x.saved.find? fun i => i.slot == k && i.valid) = some i → i.tile.task.gang = false → i.tile.stop = none →
      i.disp = none → s.runnable c = true → x.lost = false → x.held = [] →
      ∀ l p v h w d y b t z, s.restoreTile x i [] = some (l, p) →
        s.gread x.parent x.save 4096 = .ok (v, h) → v.gread x.parent (x.dirAt i.slot) 16 = .ok (w, d) →
        w.gread x.parent (x.slotAt i.slot) (163840 + i.tile.task.limit) = .ok (y, b) →
        leNat (h.take 8) = x.gen → leNat (h.drop 26) = 0 → leNat d = dirEntry i.tile.task.node i.tile.task.inst i.slot true →
        y.gwrite x.parent (x.dirAt i.slot) (leBytes 16 (dirEntry i.tile.task.node i.tile.task.inst i.slot false)) = .ok t →
        t.gwrite x.parent (x.save + 8192) (List.replicate 16 0) = .ok z →
        ∃ u z, Does .restore s u ∧ u.findTile p = some z ∧ z.resident = true ∧ z.task.id = i.tile.task.id ∧ z.task.ltile = l ∧
          z.q = i.tile.q ∧ z.v = i.tile.v ∧
          (∀ n, (z.core n).pc = (i.tile.core n).pc ∧ (z.core n).g = (i.tile.core n).g ∧ (z.core n).h = (i.tile.core n).h ∧
            (z.core n).loops = (i.tile.core n).loops) ∧
          ∃ y, u.ctx? c = some y ∧ ∀ j ∈ y.saved, j.slot ≠ i.slot) ∧
    (s.arg = .held c k e → x.lost = false → (∃ i ∈ x.saved, i.slot = k) →
      (∀ z, (s.heldAll x).length + (s.heldBytes k e).length ≤ 57344 →
        s.gwrite x.parent (x.save + 8192) (fit (min ((s.heldAll x ++ s.heldBytes k e).length + 16) 57344) (s.heldAll x ++ s.heldBytes k e)) =
          .ok z →
        ∃ t y, Does .heldEvent s t ∧ t.ctx? c = some y ∧ y.held = x.held ++ [(k, e)] ∧ t.mem = z.mem) ∧
      (57344 < (s.heldAll x).length + (s.heldBytes k e).length → Does .heldEvent s (s.lostCtx c (x.save + 8192))))

/-- Tasks. -/
def Obligations.TasksAndSaves : Prop :=
  Claim.StartState ∧ Claim.Placing ∧ Claim.TasksComplete ∧ Claim.Saving ∧ Claim.LateDies ∧ Claim.Restoring

/-! ### The tick and code pages -/

/-- R312 to R315: the tick puts the new slice into force and is followed by the next; with no task resident, a child of the keystone gets
its entitlement up to twice of it, is throttled with a balance of 0 or less, and is then switched out. -/
def Obligations.SliceTick : Prop :=
  ∀ (s : State),
    (0 < s.tickNew → ∃ t : State, Does .sliceTick s t ∧ t.tickAt = s.now ∧ t.tickT = s.tickNew ∧ Soon t s.now .distributorPlace .none ∧
      Later t s.now .sliceTick .none) ∧
    (∀ c x k, s.ctx? c = some x → c ≠ 0 → x.cnum = c → x.parent = 0 → s.ctx? 0 = some k → k.cnum = 0 →
      (∀ t ∈ s.tiles, t.resident = false) →
      let e : Int := (256 * s.tickNew * 1000) * ({ x with share := x.newShare.getD x.share } : Ctx).fraction / 65536
      let b := min (x.balance + e) (2 * e)
      ∃ t y, Does .sliceTick s t ∧ t.ctx? c = some y ∧ y.balance = b ∧ y.throttled = decide (b ≤ 0) ∧
        (b ≤ 0 → x.lost = false → x.out = false → y.out = true))

/-- R372, R373, R447: the first fetch of a page reads and hashes it: with the hash of the header it is mapped, without it the generation is
quarantined and CODE.HASH raised; an unloading generation leaves the table when no older task is left; a page dropped is checked again. -/
def Obligations.CodePages : Prop :=
  ∀ (c : CoreId) (k : Nat) (o : Code) (u : State) (bs : List Byte) (s : State),
    (s.arg = .fetch s.tile.ptile c k → s.tile.halted = false → s.tile.resident = true → s.codeOf s.tile.task = some o →
      o.quarantined = false → s.gread o.cnum (o.image + codePage * (1 + k)) codePage = .ok (u, bs) →
      (o.hash[k]? = some (Config.shake256 bs 32) →
        ∃ t p, Does .codePageCheck s t ∧ t.mem = (u.writeBytes (codeKey o.slot + codePage * k) bs).mem ∧ t.tile = s.tile ∧
          t.codeOf s.tile.task = some p ∧ k ∈ p.checked ∧ p.slot = o.slot ∧ p.size = o.size) ∧
      (o.hash[k]? ≠ some (Config.shake256 bs 32) →
        ∃ t p, Does .codePageCheck s t ∧ t.mem = s.mem ∧ t.codeOf s.tile.task = some p ∧ p.quarantined = true ∧
          ∃ x, t.tile.stop = some x ∧ x.trap.cls = .codeHash ∧ x.trap.addr = (s.tile.core c).pc.toNat ∧ x.core = some c)) ∧
    (∀ n, s.arg = .page o.cnum o.ident o.gen n → (s.codes.find? fun p => p.cnum = o.cnum ∧ p.ident = o.ident ∧ p.gen = o.gen) = some o →
      (∀ e, o.unload = some e → s.olderTask e = true → Does .codeGenerationFree s s) ∧
      (∀ e, o.unload = some e → s.olderTask e = false →
        ∃ t : State, Does .codeGenerationFree s t ∧ t.codes = s.codes.erase o ∧ t.tile = s.tile ∧
          ∀ a, Mem.read t.mem a = if codeKey o.slot ≤ a ∧ a < codeKey o.slot + 2 ^ 22 then 0 else Mem.read s.mem a) ∧
      (o.unload = none → Does .codeGenerationFree s s) ∧
      ∃ t p, Does .codeStoreDrop s t ∧ t.mem = s.mem ∧
        (t.codes.find? fun p => p.cnum = o.cnum ∧ p.ident = o.ident ∧ p.gen = o.gen) = some p ∧ n ∉ p.checked ∧
        ∀ j, j ≠ n → (j ∈ p.checked ↔ j ∈ o.checked))

/-! ### The fabric -/

/-- R121, R202, R205, R206, R459: a packet bound to a context of this package that comes by a link in service: a write is applied and
acknowledged, a read request answered with the bytes, an atomic performed and answered with the old word; one whose reference is not bound is
refused, with nothing done. How the header's operation bits are laid out is the model's (log 5). -/
def Claim.PacketsApplied : Prop :=
  ∀ (p : Packet) (c : Ctx) (u : State) (s : State), s.arg = .packet p → p.dst = s.self → s.malformed p = false →
    (p.type ≠ 0 → Does .write s s) ∧ (p.type ≠ 1 → Does .readRequest s s) ∧ (p.type ≠ 6 → Does .atomic s s) ∧
    (s.linkOpen p = false → Does .write s s ∧ Does .readRequest s s ∧ Does .atomic s s) ∧
    (s.linkOpen p = true → s.bound p.src p.ctx p.sctx = some c → s.tableFull p = false →
      (p.type = 0 → s.gwriteRuns c.cnum (packetSpans p p.data.length) p.data = .ok u →
        let v := if p.pce then u else u.plainRuns c.cnum (packetSpans p p.data.length)
        (p.ogrp = 0 → Does .write s (v.answer p 3 0 0 [])) ∧
        (p.ogrp ≠ 0 → (s.orderOf p).flags = [] →
          Does .write s ((v.answer p 3 0 0 []).putOrder p { s.orderOf p with applied := bump (s.orderOf p).applied p.path.toNat }))) ∧
      (p.type = 1 → ∀ bs, s.greadRuns c.cnum (packetSpans p p.len.toNat) = .ok (u, bs) → Does .readRequest s (u.answer p 2 0 0 bs)) ∧
      (p.type = 6 → p.rop.toNat < 8 → p.ogrp = 0 → ∀ old,
        s.atomicWord c.cnum p.addr.toNat p.rop.toNat p.operand p.compare = .ok (u, old) → Does .atomic s (u.answer p 3 0 old []))) ∧
    (s.linkOpen p = true → s.bound p.src p.ctx p.sctx = none → p.ogrp = 0 →
      (p.type = 0 → Does .write s (s.ack p (refusal .xlateNone))) ∧ (p.type = 1 → Does .readRequest s (s.ack p (refusal .xlateNone))) ∧
      (p.type = 6 → Does .atomic s (s.ack p (refusal .xlateNone)))) ∧
    (s.linkOpen p = true → s.tableFull p = true → (p.type = 0 → Does .write s (s.ack p againStatus)) ∧
      (p.type = 6 → p.rop.toNat < 8 → Does .atomic s (s.ack p againStatus)))

/-- R124: an ordered flag that finds no other before it writes its word and takes its counts off once the packets it counts have been
applied, waits for them, and is discarded with ORD.BROKEN, clearing the entry, where one of them was refused. Its acknowledgement goes out where
a path is usable. -/
def Claim.OrderedFlag : Prop :=
  ∀ (p : Packet) (c : Ctx) (u : State) (s : State), s.arg = .packet p → p.dst = s.self → p.type = 4 → s.malformed p = false →
    s.linkOpen p = true → s.tableFull p = false →
    let e := s.orderOf p
    let reached : Bool := (e.applied.zip p.counts).all fun x => decide (x.2 ≤ x.1)
    let sends (t : State) (st : Nat) : Prop := p.src ∉ s.lostPkgs → s.usable p.src ≠ [] →
      ∃ a, t.outbox = s.outbox ++ [a] ∧ a.type = 3 ∧ a.dst = p.src ∧ a.id = p.id ∧ a.status = BitVec.ofNat 8 st
    e.flags = [] → s.bound p.src p.ctx p.sctx = some c → s.gwrite c.cnum p.addr.toNat p.data = .ok u → s.converting = false →
      (e.broken = false → reached = true → ∃ t : State, Does .orderedFlag s t ∧ t.mem = u.mem ∧
        (t.orderOf p).flags = [] ∧ (t.orderOf p).broken = false ∧ sends t 0) ∧
      (e.broken = false → reached = false → ∃ t : State, Does .orderedFlag s t ∧ t.mem = s.mem ∧ t.outbox = s.outbox ∧
        (t.orderOf p).flags = [p] ∧ (t.orderOf p).applied = e.applied) ∧
      (e.broken = true → ∃ t : State, Does .orderedFlag s t ∧ t.mem = s.mem ∧ (t.orderOf p).broken = false ∧ (t.orderOf p).flags = [] ∧
        sends t (refusal .ordBroken))

/-- R124: a count-only flag that finds no other before it writes nothing: it takes its counts off and is acknowledged once the packets it counts
have been applied, waits for them in the order-table entry, and is discarded with ORD.BROKEN, clearing the entry, where one of them was refused;
one without an entry is refused when the table is full. -/
def Claim.CountOnlyFlag : Prop :=
  ∀ (p : Packet) (s : State), s.arg = .packet p → p.dst = s.self → p.type = 5 → s.malformed p = false → s.linkOpen p = true →
    let e := s.orderOf p
    let reached : Bool := (e.applied.zip p.counts).all fun x => decide (x.2 ≤ x.1)
    (s.tableFull p = true → Does .countOnlyFlag s (s.ack p againStatus)) ∧
    (s.tableFull p = false → e.flags = [] →
      (e.broken = false → reached = true → ∃ t : State, t = (s.putOrder p { e with
          applied := (e.applied.zip p.counts).map fun x => x.1 - x.2 }).ack p 0 ∧ Does .countOnlyFlag s t ∧ t.mem = s.mem ∧ t.tile = s.tile) ∧
      (e.broken = false → reached = false → Does .countOnlyFlag s (s.putOrder p { e with flags := [p] })) ∧
      (e.broken = true → Does .countOnlyFlag s ((s.putOrder p { e with applied := [0, 0, 0, 0], broken := false }).ack p (refusal .ordBroken))))

/-- R121, R124, R194, R202, R204, R205, R428: what comes back to the source: an acknowledgement settles its packet, a negative one is the fault
of what sent it, a full order table has the packet sent again after 1 µs; the word of an ld.acq is written and the instruction retires. -/
def Claim.AnswersArrive : Prop :=
  ∀ (p : Packet) (u : Sent) (s : State), s.arg = .packet p → p.dst = s.self → s.malformed p = false →
    let c := s.tile.core u.core
    let pod := s.podOf u
    let here : Prop := s.tile.resident = true ∧ s.tile.task.id = u.tid ∧ s.tile.halted = false ∧ c.fin = false
    (∀ cls, statusClass (BitVec.ofNat 8 (refusal cls)) = cls) ∧
    (s.sent? p = none ∨ s.linkOpen p = false → Does .acknowledgement s s ∧ Does .readData s s) ∧
    (p.type = 3 → s.linkOpen p = true → s.sent? p = some u →
      (p.status = 255 → ∃ t : State, Does .acknowledgement s t ∧ t.mem = s.mem ∧ ({ u with again := true } : Sent) ∈ t.unacked ∧
        ∃ d ∈ t.due, d.at_ = s.now + 3000 ∧ d.ev = .refusedPacketResend ∧ d.arg = .packet u.pkt) ∧
      (p.status = 0 → u.own = .rel → ∃ t : State, Does .acknowledgement s t ∧ t.mem = s.mem ∧
        t.unacked = s.unacked.filter fun v => v.pkt.id ≠ u.pkt.id) ∧
      (p.status = 0 → ∀ q o k r, u.own = .op q 0 → here → s.tile.op? u.core q = some o → o.fault = none → o.acked = [] → o.parts = [(0, k)] →
        o.dbar = some r → (s.bar r).live = true →
        (∀ a x y z d w, o.kind ≠ .rat a x y z d w) → (∀ d, o.kind ≠ .stPlace d) →
        ∃ t y, Does .acknowledgement s t ∧ (t.bar r).bytes = ((s.bar r).credit k 0).bytes ∧ t.tile.op? u.core q = some y ∧ y.acked = [0]) ∧
      (p.status ≠ 0 → p.status ≠ 255 → u.own = .rel → u.write = true → here → (∀ d, (s.tile.core d).relMark = none) → u.pkt.type ≠ 4 →
        ∃ t : State, Does .acknowledgement s t ∧ t.mem = s.mem ∧
          (t.tile.core u.core).late = c.late ++ [u.trap (statusClass p.status) pod])) ∧
    (∀ r d k, p.type = 2 → s.linkOpen p = true → s.sent? p = some u → u.own = .acq → here → c.hold = some (.packet u.pkt.id d k) → d ≠ 0 →
      ∃ t : State, Does .readData s t ∧ t.mem = s.mem ∧ (t.tile.core u.core).rg d = wrap32 (leNat p.data) ∧
        (t.tile.core u.core).hold = none ∧ (t.tile.core u.core).pc = (backEdge c.pc c.loops).1 ∧
        (r ≠ d → (t.tile.core u.core).rg r = c.rg r)) ∧
    (∀ n i, p.type = 2 → s.linkOpen p = true → s.sent? p = some u → u.own = .req n i →
      ∃ t : State, Does .readData s t ∧ t.mem = s.mem ∧ ({ u with data := some p.data } : Sent) ∈ t.unacked) ∧
    ((s.unacked.find? fun v => v.pkt.id == p.id && v.pkt.dst == p.dst && v.again) = some u →
      Does .refusedPacketResend s ((s.settled u).dispatch u)) ∧
    ((s.unacked.find? fun v => v.pkt.id == p.id && v.pkt.dst == p.dst && v.again) = none → Does .refusedPacketResend s s)

/-- R426: a malformed packet is not taken up, whichever its type, and LINK.FAIL with cause 4 goes to the firmware core; one of a nonzero
reserved header field is malformed. What a failed or disabled link brings is not applied, and raises nothing (R386, R432). -/
def Claim.MalformedPackets : Prop :=
  ∀ (p : Packet) (s : State), s.arg = .packet p → p.dst = s.self →
    (s.malformed p = false ∨ s.linkOpen p = false → Does .malformedPacket s s) ∧
    (p.spare ≠ 0 ∨ 8 ≤ p.type.toNat ∨ 44 ≤ p.vlane.toNat ∨ 256 < p.len.toNat → s.malformed p = true) ∧
    (s.malformed p = true → s.linkOpen p = true →
      ∃ t : State, Does .malformedPacket s t ∧ (p.type = 0 → Does .write s t) ∧ (p.type = 1 → Does .readRequest s t) ∧
        (p.type = 2 → Does .readData s t) ∧ (p.type = 3 → Does .acknowledgement s t) ∧
        (p.type = 4 → Does .orderedFlag s t) ∧ (p.type = 5 → Does .countOnlyFlag s t) ∧ (p.type = 6 → Does .atomic s t) ∧
        ∃ m ∈ t.mail, m.trap.cls = .linkFail ∧ m.trap.addr / 2 ^ 8 = 4 ∧ m.fctx = 0)

/-- R51, R104, R340, R384, R386, R435, R459, R460: what each control message does. -/
def Claim.ControlMessages : Prop :=
  ∀ (m : Ctl) (s : State), s.arg = .ctl m →
    (∀ n, m = .blockAck n → ∃ t : State, Does .control s t ∧ t.mem = s.mem ∧
      ∀ l ∈ s.links, l.n = n → ∃ k ∈ t.links, k.n = n ∧ k.blocks = l.blocks.drop 1 ∧ k.counter = l.counter ∧ k.cur = l.cur) ∧
    (∀ src ctx sctx k, m = .hbarArrive src ctx sctx k →
      (∀ c, s.bound src ctx sctx = some c → ∃ t : State, Does .control s t ∧ (src, { k with cnum := c.cnum }) ∈ t.hbars ∧
        (∀ x ∈ s.hbars, x ∈ t.hbars) ∧ t.mem = s.mem) ∧
      (s.bound src ctx sctx = none → Does .control s s)) ∧
    (∀ src ctx sctx k c, m = .memberLost src ctx sctx k true → s.bound src ctx sctx = some c →
      let e : EpKey := { k with cnum := c.cnum }
      (e ∈ s.gone → Does .control s s) ∧
      (e ∉ s.gone → ∃ t : State, Does .control s t ∧ e ∈ t.gone ∧ t.mem = s.mem ∧
        ∃ d ∈ t.due, d.ev = .memberLost ∧ d.arg = .ep e ∧ d.at_ = s.now + copDelay)) ∧
    (∀ src ctx sctx k a, m = .memberLost src ctx sctx k a → s.bound src ctx sctx = none → Does .control s s) ∧
    (∀ src ctx sctx k l, m = .collParts src ctx sctx k l →
      (s.bound src ctx sctx = none → Does .control s (s.tell src (.collRefused s.self sctx ctx k))) ∧
      (∀ c, s.bound src ctx sctx = some c → { k with cnum := c.cnum } ∉ s.gone → ∃ t : State, Does .control s t ∧
        (src, { k with cnum := c.cnum }, l) ∈ t.parts ∧ Soon t s.now .collectiveEpisode (.ep { k with cnum := c.cnum }))) ∧
    (∀ src ctx sctx node, m = .decrement src ctx sctx node false →
      (∀ c, s.bound src ctx sctx = some c → Does .control s (s.after 0 .nodeDecrement (.node c.cnum node none))) ∧
      (s.bound src ctx sctx = none → Does .control s (s.tell src (.refused sctx node)))) ∧
    (∀ src ctx sctx n fn7 ga gb b c, m = .copRequest src ctx sctx n fn7 ga gb b → s.bound src ctx sctx = some c → n ≠ 0 → fn7 ≠ 0x22 →
      (∀ u w snap, s.futApply c.cnum ((futRef b).1 % 2 ^ 44) fn7 gb (futRef b).2 none = .ok (u, w, snap) →
        Does .control s (u.tell src (.copAnswer n 0 w snap none))) ∧
      (∀ cls a, s.futApply c.cnum ((futRef b).1 % 2 ^ 44) fn7 gb (futRef b).2 none = .error (cls, a) → cls ≠ .memError →
        Does .control s (s.tell src (.copAnswer n 0 0 0 (some (cls, a)))))) ∧
    (∀ n st w snap r, m = .copAnswer n st w snap none → (s.reqs.find? fun r => r.n == n) = some r → r.mode ≠ 3 → r.phase ≠ 9 →
      r.fn7 ≠ 0x44 → ∃ t : State, Does .control s t ∧ Soon t s.now .copReply (.num n) ∧
        ∀ q ∈ t.reqs, q.n = n → q.phase = 9 ∧ q.status = st ∧ (st = 0 → q.word = w))

/-- R386, R432 to R434: integrity blocks, their fourth failure, the failure of a link's directions, the end of a key, and a package declared
lost. -/
def Claim.Links : Prop :=
  ∀ (n : Nat) (l : Link) (ps : List Packet) (s : State), (s.links.find? fun l => l.n == n) = some l →
    let told (t : State) (m : Nat → Ctl) : Prop := ∀ p k, farEnd s.self n = some (p, k) → p ∉ s.lostPkgs → s.usable p ≠ [] → (p, m k) ∈ t.ctlOut
    (∀ ok, s.arg = .block n ok ps → (l.enabled = false ∨ l.failRx = true) → Does .integrityBlock s s) ∧
    (s.arg = .block n true ps → l.enabled = true → l.failRx = false →
      ∃ t : State, Does .integrityBlock s t ∧ t.mem = s.mem ∧ told t .blockAck ∧ (∀ k ∈ t.links, k.n = n → k.tries = 0) ∧
        ∀ p ∈ ps, Soon t s.now (packetStep p) (.packet p)) ∧
    (s.arg = .block n false ps → l.enabled = true → l.failRx = false →
      (l.tries < 3 → ∃ t : State, Does .integrityBlock s t ∧ t.mem = s.mem ∧ told t .blockFail ∧
        ∃ k ∈ t.links, k.n = n ∧ k.tries = l.tries + 1 ∧ k.failRx = false) ∧
      (3 ≤ l.tries → ∃ t : State, Does .integrityBlock s t ∧ t.mem = s.mem ∧ told t .blockFail ∧ ∀ k ∈ t.links, k.n = n → k.failRx = true)) ∧
    (∀ cause, s.arg = .num2 n cause → l.enabled = true → l.failTx = false → cause = 1 ∨ cause = 2 →
      (∀ b ∈ l.blocks, ∃ p, b.wire = .pkt p) →
      ∃ t : State, Does .linkFail s t ∧ t.mem = s.mem ∧
        (∀ k ∈ t.links, k.n = n → k.failTx = true ∧ k.blocks = [] ∧ k.olds = [] ∧ (cause = 2 → k.failRx = true)) ∧
        (∃ m ∈ t.mail, m.trap.cls = .linkFail ∧ m.trap.addr = n + cause * 2 ^ 8) ∧
        ∀ u ∈ s.unacked, ∀ b ∈ l.blocks, ∀ p, b.wire = .pkt p → p.id = u.pkt.id → p.src = s.self → p.type ≠ 2 → p.type ≠ 3 →
          u.waits = false → u.again = false → u.data = none →
          ∃ d ∈ t.due, d.ev = .acknowledgement ∧ ∃ a : Packet, d.arg = .packet a ∧ a.id = u.pkt.id ∧ statusClass a.status = .linkFail) ∧
    (s.arg = .num n →
      (2 ^ 48 ≤ l.counter → l.next = none → l.keyexh = false → ∃ t : State, Does .linkKeyexh s t ∧ t.mem = s.mem ∧
        (∀ k ∈ t.links, k.n = n → k.keyexh = true) ∧ ∃ m ∈ t.mail, m.trap.cls = .linkKeyexh ∧ m.trap.addr = n) ∧
      (l.counter < 2 ^ 48 → Does .linkKeyexh s s)) ∧
    (∀ p, s.arg = .pkg p →
      (p ∈ s.lostPkgs ∨ p = s.self → Does .packageLost s s) ∧
      (p ∉ s.lostPkgs → p ≠ s.self → s.reqs = [] → (∀ x ∈ s.ctxs, x.jobs = []) → s.spoiled = [] →
        ∃ t : State, Does .packageLost s t ∧ t.lostPkgs = p :: s.lostPkgs ∧
          ∀ u ∈ s.unacked, u.pkt.dst = p → u.data = none →
            ∃ d ∈ t.due, d.ev = .acknowledgement ∧ ∃ a : Packet, d.arg = .packet a ∧ a.id = u.pkt.id ∧ statusClass a.status = .placeUnmapped))

/-- R383: a packet's 32-byte header has its fields at the table's bits, and its bits from 142 on are zero but for an atomic and an
acknowledgement (where those bits hold what is the model's, log 5); a flag carries its four counts, of 4 bytes each, after its data. -/
def Obligations.PacketLayout : Prop :=
  ∀ p : Packet,
    let h := packetHeader p
    fld 0 4 h = p.type ∧ fld 4 6 h = p.vlane ∧ fld 10 12 h = p.src ∧ fld 22 12 h = p.dst ∧ fld 34 8 h = p.stile ∧ fld 42 2 h = p.score ∧
      fld 44 3 h = p.ogrp ∧ fld 47 2 h = p.path ∧ fld 49 9 h = p.len ∧ fld 58 44 h = p.addr ∧ fld 102 20 h = p.ctx ∧ fld 122 20 h = p.sctx ∧
      (p.type ≠ 3 → p.type ≠ 6 → p.spare = 0 → fld 142 114 h = (0 : BitVec 114)) ∧
      (∀ a b c d, p.counts = [a, b, c, d] → packetPayload p = p.data ++ (leBytes 4 a ++ leBytes 4 b ++ leBytes 4 c ++ leBytes 4 d))

/-- Packets that arrive. -/
def Obligations.FabricArrivals : Prop := Claim.PacketsApplied ∧ Claim.OrderedFlag ∧ Claim.CountOnlyFlag ∧ Claim.MalformedPackets

/-- What comes back to a source, control messages and links. -/
def Obligations.FabricAnswersAndLinks : Prop := Claim.AnswersArrive ∧ Claim.ControlMessages ∧ Claim.Links

/-! ### Power, soft errors, boot -/

/-- R19, R21: samples of power, the set limit, junction temperatures, and the steps of the limit. That the issue slots lost to a limit change no
state is the model's scope. -/
def Claim.PowerControl : Prop :=
  ∀ (mw : Nat) (l : List Nat) (s : State),
    let p := s.power
    (s.arg = .num mw →
      (let w := (mw :: p.window).take 100
       Does .powerSample s (s.setPower { p with window := w, slow := decide (p.limit * w.length < w.sum) })) ∧
      (p.limit = p.set → p.hot = false → Does .powerLimitSet s (s.setPower { p with set := min 3000000 mw, limit := min 3000000 mw })) ∧
      ((p.limit ≠ p.set ∨ p.hot = true) →
        Does .powerLimitSet s (s.setPower { p with set := min 3000000 mw, limit := min p.limit (min 3000000 mw) }))) ∧
    (s.arg = .temps l →
      ∃ t : State, Does .junctionSample s t ∧ t.mem = s.mem ∧ t.tile = s.tile ∧ t.power.temps = l ∧
        ((∃ x ∈ l, 115 ≤ x) → p.fatal = false → t.power.fatal = true ∧ Later t s.now .powerLoss .none ∧
          ∃ d ∈ t.due, d.ev = .powerLoss ∧ d.at_ ≤ s.now + millisecond) ∧
        ((∃ x ∈ l, 105 ≤ x) → t.power.hot = true ∧ ∃ d ∈ t.due, d.ev = .limitStep) ∧
        ((∀ x ∈ l, x < 100) → t.power.hot = false ∧ t.power.cool = some (p.cool.getD s.now))) ∧
    (p.hot = true → ∃ t : State, Does .limitStep s t ∧ t.power.limit = p.limit * 9 / 10 ∧ Later t s.now .limitStep .none) ∧
    (p.hot = false → ∀ c, p.cool = some c → c + millisecond ≤ s.now →
      ∃ t : State, Does .limitStep s t ∧ t.power.limit = min p.set (p.limit + p.set / 10)) ∧
    (p.hot = false → p.cool = none → ∃ t : State, Does .limitStep s t ∧ t.power.limit = p.limit)

/-- R444: a soft error poisons the burst of HBM or the word of SRAM that holds the byte, or a register; a read of it meets the error. -/
def Claim.SoftErrors : Prop :=
  ∀ (k : Nat) (s : State),
    (s.arg = .num k → ∃ t : State, Does .softError s t ∧ t.mem = s.mem ∧ t.tile = s.tile ∧ t.poisoned k 1 = true ∧
      ∀ a n, 0 < n → (a + n ≤ k - k % errSize k ∨ k - k % errSize k + errSize k ≤ a) → t.poisoned a n = s.poisoned a n) ∧
    (∀ c kind r x, s.arg = .badReg s.tile.ptile c kind r → struck kind r = some x →
      ∃ t : State, Does .softError s t ∧ t.mem = s.mem ∧ x ∈ (t.tile.core c).bad ∧ (t.tile.core c).g = (s.tile.core c).g)

/-- R22, R388: power lost, all state is gone but the fuses (and what the model counts as outside the package: what it has sent, the memories of
the host, from key 2^60 on, and time; log 2); power-up, of the package or of its compute
dies, leaves READY = 0. -/
def Claim.PowerDownAndUp : Prop :=
  ∀ (s : State),
    (∃ t : State, Does .powerLoss s t ∧ t.power.on = false ∧ t.tile = State.reset.tile ∧ t.rest = [] ∧ t.ctxs = State.reset.ctxs ∧
      t.queues = [] ∧ t.codes = [] ∧ t.nodes = [] ∧ t.boot.life = s.boot.life ∧ t.boot.minSvn = s.boot.minSvn ∧
      t.boot.keyHash = s.boot.keyHash ∧ t.boot.ready = false ∧ (∀ a, a < 2 ^ 60 → Mem.read t.mem a = 0)) ∧
    (s.power.on = true → s.power.dies = true → Does .powerUp s s) ∧
    (s.power.on = false ∨ s.power.dies = false → ∃ t : State, Does .powerUp s t ∧ t.power.on = true ∧ t.boot.ready = false ∧ t.boot.life = s.boot.life ∧
      t.tile = State.reset.tile)

/-- R388, R448: BOOTGO: with every check passed the firmware runs: READY, memories wiped, the first tick to come; else the code of the first
check that fails, the sixteenth retryable failure being LOCKOUT, with the memories as they were, or wiped where the failure is one found
after the wipe; ignored once READY. -/
def Claim.Boot : Prop :=
  ∀ (s : State), s.arg = .none →
    (s.boot.ready = true ∨ 8 ≤ s.boot.err → Does .bootgo s s) ∧
    (s.boot.ready = false → s.boot.err < 8 →
      (s.bootCheck = 0 → ∃ t : State, Does .bootgo s t ∧ t.boot.ready = true ∧ t.boot.err = 0 ∧ t.boot.life = s.boot.life ∧
        (∀ a, a < 2 ^ 60 → Mem.read t.mem a = 0) ∧ (∃ d ∈ t.due, d.ev = .sliceTick) ∧
        t.boot.firmware = s.imageBytes (s.imageNat 24 4) (s.imageNat 28 4)) ∧
      (s.bootCheck ≠ 0 → ∃ t : State, Does .bootgo s t ∧ t.boot.ready = false ∧ t.boot.tries = s.boot.tries + 1 ∧
        (s.bootCheck ≤ 7 → t.mem = s.mem) ∧ (8 ≤ s.bootCheck → ∀ a, a < 2 ^ 60 → Mem.read t.mem a = 0) ∧
        (s.boot.tries < 15 → t.boot.err = s.bootCheck) ∧ (15 ≤ s.boot.tries → s.bootCheck ≤ 7 → t.boot.err = 10)) ∧
      (s.imageNat 0 4 ≠ 1 → s.bootCheck = 1) ∧
      (s.imageNat 0 4 = 1 → s.imageNat 4 4 ≤ windowBytes → 3137 ≤ s.imageNat 4 4 →
        layoutOk (s.imageNat 4 4) (s.imageNat 16 4) (s.imageNat 20 4) (s.imageNat 24 4) (s.imageNat 28 4) = true →
        BitVec.ofNat 256 (leNat (Config.shake256 (s.imageBytes 64 1793) 32)) = s.boot.keyHash →
        (s.imageNat 8 4 < s.boot.minSvn → s.bootCheck = 4) ∧
        (s.boot.minSvn ≤ s.imageNat 8 4 → (s.imageNat 12 1).testBit s.boot.life = false → s.bootCheck = 5)))

/-- Power, soft errors and the boot. -/
def Obligations.PowerErrorsAndBoot : Prop := Claim.PowerControl ∧ Claim.SoftErrors ∧ Claim.PowerDownAndUp ∧ Claim.Boot

/-! ### The host -/

/-- R376, R377, R379, R444: host accesses through an aperture at APBASE + offset as the function's context, and through CXL.mem; a write that
faults in an aperture is dropped, a read that faults reads 0xFF, poison comes as CXL poison; a granted page is neither written nor read;
a write that falls within a conversion races with it (R344; the model's reading, log 48). -/
def Claim.HostAccesses : Prop :=
  ∀ (fn a n : Nat) (bs : List Byte) (x : Ctx) (s : State),
    let f := s.func fn
    let piece (m : Nat) := a % 65536 + m ≤ 65536 ∧ a + m ≤ 768 * 2 ^ 30 ∧ 0 < m
    let pa := 2 ^ 39 * (a / (48 * 2 ^ 30)) + a % (48 * 2 ^ 30)
    let back (bs : List Byte) (bad : Bool) (i : Instr) : Prop := ∃ t : State, Does i s t ∧ t.mem = s.mem ∧ t.hostIn = s.hostIn ++ [(fn, bs, bad)]
    (s.arg = .hostW fn true a bs → s.fnCtx fn = some x → f.on = true → a + bs.length ≤ 2 ^ f.aplog →
      (∀ u, s.gwrite x.cnum (f.apbase + a) bs = .ok u → Does .hostWrite s (u.plainRuns x.cnum [(f.apbase + a, bs.length)])) ∧
      (∀ e, s.gwrite x.cnum (f.apbase + a) bs = .error e → Does .hostWrite s s)) ∧
    (s.arg = .hostR fn true a n → s.fnCtx fn = some x → f.on = true → a + n ≤ 2 ^ f.aplog →
      (∀ u b, s.gread x.cnum (f.apbase + a) n = .ok (u, b) → back b false .hostRead) ∧
      (∀ v, s.gread x.cnum (f.apbase + a) n = .error (.memError, v) → back [] true .hostRead) ∧
      (∀ e v, s.gread x.cnum (f.apbase + a) n = .error (e, v) → e ≠ .memError → back (List.replicate n 0xFF) false .hostRead)) ∧
    (s.arg = .hostW fn false a bs → f.on = true → piece bs.length → a < 2 ^ 60 →
      (s.hdmGranted pa = true → Does .hostWrite s s) ∧
      (s.hdmGranted pa = false →
        Does .hostWrite s ((((s.monitor 0 pa bs.length true).yields pa bs.length).store pa bs).plain pa bs.length)) ∧
      (s.hdmGranted pa = false → s.bars = [] → s.converting = false → ∃ t : State, Does .hostWrite s t ∧ t.mem = (s.writeBytes pa bs).mem ∧
        ∀ x ∈ t.rac, pa / 128 ≤ x.1 → (pa + bs.length - 1) / 128 < x.1)) ∧
    (s.arg = .hostR fn false a n → f.on = true → piece n →
      (s.hdmGranted pa = true → back [] true .hostRead) ∧
      (s.hdmGranted pa = false → s.poisoned pa n = true → back [] true .hostRead) ∧
      (s.hdmGranted pa = false → s.poisoned pa n = false → back (Mem.readRange s.mem pa n) false .hostRead)) ∧
    (f.on = false → a < 2 ^ 60 → (s.arg = .hostW fn false a bs → Does .hostWrite s s) ∧ (s.arg = .hostR fn false a n → Does .hostRead s s))

/-- R377, R380, R388: a function enabled has APBASE 0; BAR0's registers: a CMD word, the doorbell that starts the command, BOOTGO, the boot
window while READY is 0; a register of a disabled function and every other word keep what they are. R23, R27, R28: the keystone's maps; a tile that enters the map is scrubbed. -/
def Claim.FunctionRegisters : Prop :=
  ∀ (fn off : Nat) (x : Word) (on : Bool) (s : State),
    let f := s.func fn
    (s.arg = .fn fn on → fn ≤ 96 → ∃ t : State, Does .functionEnable s t ∧ (t.func fn).on = on ∧ (on = true → (t.func fn).apbase = 0) ∧
      (t.func fn).cmd = f.cmd ∧ ∀ g, g ≠ fn → t.func g = s.func g) ∧
    (s.arg = .reg fn off x →
      (f.on = false → Does .registerWrite s s) ∧
      (f.on = true → off % 4 = 0 → off < 64 → f.bell ≠ 1 → ∃ t : State, Does .registerWrite s t ∧ t.readReg fn off = x ∧
        ∀ o, o % 4 = 0 → o < 0x84 → o ≠ off → t.readReg fn o = s.readReg fn o) ∧
      (f.on = true → off = 0x80 → ∃ t : State, Does .registerWrite s t ∧ t.readReg fn off = x ∧
        (x = 1 → s.boot.ready = true → fn ≤ 96 →
          Soon t s.now (mailStep f.cmd) (.mail fn f.cmd) ∧
          (t.due.filter fun d => d.arg = .mail fn f.cmd).length = 1)) ∧
      (f.on = true → fn = 0 → off = 0x104 → s.boot.ready = false → x = 1 →
        Does .registerWrite s (s.after 0 .bootgo (.image []))) ∧
      (f.on = true → fn = 0 → s.boot.ready = false → 2 ^ 24 ≤ off → off < 2 ^ 25 → off % 4 = 0 →
        ∃ t : State, Does .registerWrite s t ∧ t.readReg 0 off = x) ∧
      (f.on = true → off = 0x100 → Does .registerWrite s s)) ∧
    (∀ i v k, s.boot.ready = true → s.ctx? 0 = some k →
      (s.arg = .map true i v → i < 4096 → ∃ t y, Does .keystoneMapWrite s t ∧ t.ctx? 0 = some y ∧ t.mem = s.mem ∧
        y.pkgOf i = if v.getLsbD 12 then some { l := i, p := fld 0 12 v, rcref := 0 } else none) ∧
      (s.arg = .map false i v → i < 256 → v.getLsbD 8 = true → 
        mapRule ({ k with tmap := k.tmap.filter (fun e => e.l ≠ i) ++ [{ l := i, p := fld 0 8 v }] } : Ctx).tileMap = true →
        ∃ t y, Does .keystoneMapWrite s t ∧ t.ctx? 0 = some y ∧ y.tileOf i = some (fld 0 8 v) ∧
          ((∃ e ∈ k.tmap, e.p = fld 0 8 v) → t.mem = s.mem) ∧
          ((∀ e ∈ k.tmap, e.p ≠ fld 0 8 v) → ∀ a, a < 2 ^ 21 → Mem.read t.mem (tileKey (fld 0 8 v : BitVec 8).toNat + a) = 0)))

/-- A mailbox command of function fn that its OPCODE performs: the caller's context x, the context y that it names; r is what it comes to and the
response follows. -/
def Claim.answers (i : Instr) (op : Nat) (pf : Bool) (used : List (Nat × Nat)) (fn : Nat) (x y : Ctx) (c : BitVec 512) (s : State)
    (r : State × Nat × List Byte) : Prop :=
  s.arg = .mail fn c → s.boot.ready = true → opcodeOf c = op → s.fnCtx fn = some x →
    (pf = true → fn ≠ 0 → Does i s (s.respond fn stDenied [])) ∧
    ((pf = true → fn = 0) →
      (cmdClear used c = false → Does i s (s.respond fn stInvalid [])) ∧
      (cmdClear used c = true →
        (s.mailTarget x (fld 16 20 c : BitVec 20).toNat = none → Does i s (s.respond fn stDenied [])) ∧
        (s.mailTarget x (fld 16 20 c : BitVec 20).toNat = some y → Does i s (r.1.respond fn r.2.1 r.2.2))))

/-- R299, R314, R377, R381: QDESC, APERTURE, SETTICK, APSIZE, UNLOAD, and reserved OPCODEs. -/
def Claim.SmallCommands : Prop :=
  ∀ (fn : Nat) (x y : Ctx) (c : BitVec 512) (s : State),
    let f := s.func fn
    let ap := cmdNat c 8 8
    let t := cmdNat c 8 4
    let n := cmdNat c 8 2
    let v := cmdNat c 8 1
    let k := cmdNat c 9 1
    let d : BitVec 256 := fld 128 256 c
    (ap % 2 ^ f.aplog = 0 → Claim.answers .aperture 4 false [(8, 8)] fn x y c s (s.putFunc { f with apbase := ap }, 0, [])) ∧
    (ap % 2 ^ f.aplog ≠ 0 → Claim.answers .aperture 4 false [(8, 8)] fn x y c s (s, 2, [])) ∧
    (50 ≤ t → t ≤ 100000 → Claim.answers .settick 5 true [(8, 4)] fn x y c s ({ s with tickNew := t }, 0, [])) ∧
    (t < 50 ∨ 100000 < t → Claim.answers .settick 5 true [(8, 4)] fn x y c s (s, 2, [])) ∧
    (1 ≤ v → v ≤ 96 → 16 ≤ k → k ≤ 38 → (s.func v).on = false →
      Claim.answers .apsize 12 true [(8, 1), (9, 1)] fn x y c s (s.putFunc { s.func v with aplog := k }, 0, [])) ∧
    (1 ≤ v → v ≤ 96 → 16 ≤ k → k ≤ 38 → (s.func v).on = true →
      Claim.answers .apsize 12 true [(8, 1), (9, 1)] fn x y c s (s, 6, [])) ∧
    (n < 4096 → (y.cnum = 0 ∨ n ∈ y.queues) → s.boot.life ≠ 0 → (∀ q ∈ s.queues, q.n ≠ n) → fld 0 1 d = 1#1 →
      Claim.answers .qdesc 1 false [(8, 2), (16, 32)] fn x y c s
        ((s.putQueue { n := n, desc := d, rd := 0, wr := 0, ival := 64, due := s.now / 3 }).after 0 .queuePoll (.num n), 0, [])) ∧
    (n < 4096 → y.cnum ≠ 0 → n ∉ y.queues → Claim.answers .qdesc 1 false [(8, 2), (16, 32)] fn x y c s (s, 3, [])) ∧
    (t < 2 ^ 24 → (∃ o ∈ s.codes, o.cnum = y.cnum ∧ o.ident = t ∧ o.gen = cmdNat c 12 1 ∧ o.unload = none) →
      Claim.answers .unload 3 false [(8, 4), (12, 1)] fn x y c s
        ((({ s with epoch := s.epoch + 1 } : State).mapCode y.cnum t (cmdNat c 12 1) fun o => { o with unload := some (s.epoch + 1) }).after 0
          .codeGenerationFree (.page y.cnum t (cmdNat c 12 1) 0), 0, [])) ∧
    (t < 2 ^ 24 → (∀ o ∈ s.codes, o.cnum = y.cnum → o.ident = t → o.gen = cmdNat c 12 1 → o.unload ≠ none) →
      Claim.answers .unload 3 false [(8, 4), (12, 1)] fn x y c s (s, 5, [])) ∧
    (s.arg = .mail fn c → s.boot.ready = true → (opcodeOf c = 0 ∨ 13 ≤ opcodeOf c) → s.fnCtx fn = some x →
      Does .reservedOpcode s (s.respond fn 2 []))

/-- R371: LOAD gives a well-formed header's identifier its next generation, and answers it with the hash of the header; R324, R325: TRANSIT of a
paused context, RESUME from a committed save area; R368, R381, R386, R389, R390: RKEY, LINKTAB, LINKKEY, LIFECYCLE. -/
def Claim.LargeCommands : Prop :=
  ∀ (fn : Nat) (x y : Ctx) (c : BitVec 512) (s : State),
    let va := cmdNat c 8 8
    (∀ u h, va % 65536 = 0 → s.gread y.cnum va 4096 = .ok (u, h) → headerOk h = true → (∀ o ∈ s.codes, o.cnum = y.cnum → o.ident ≠ blockNat h 4 3) →
      s.codes.length < 4096 →
      ∃ t z, Claim.answers .load 2 false [(8, 8)] fn x y c s (t, 0, leBytes 2 (nextGen y.cgens (blockNat h 4 3)) ++ List.replicate 5 0 ++
          (Config.shake256 h 32).take 32) ∧ t.codes = s.codes ++ [z] ∧ z.cnum = y.cnum ∧ z.ident = blockNat h 4 3 ∧
        z.gen = nextGen y.cgens (blockNat h 4 3) ∧ z.size = blockNat h 8 4 ∧ z.checked = [] ∧ z.image = va ∧ t.mem = s.mem) ∧
    (va % 65536 ≠ 0 → Claim.answers .load 2 false [(8, 8)] fn x y c s (s, 2, [])) ∧
    ((∃ z ∈ s.lineage y.cnum, z.paused = true) →
      Claim.answers .transit 6 false [] fn x y c s ((s.mapCtx y.cnum fun z => { z with transit := true }).fixTimes, 0, [])) ∧
    ((∀ z ∈ s.lineage y.cnum, z.paused = false) → Claim.answers .transit 6 false [] fn x y c s (s, 6, [])) ∧
    (∀ u w h d, s.gread y.parent y.save 4096 = .ok (u, h) → u.gread y.parent (y.save + 4096) 4096 = .ok (w, d) →
      (numAt h 8 0 = y.gen → y.gen ≠ 0 → leNat (h.drop 24) = 0 → (∀ j, j < 256 → blockNat d (16 * j) 16 / 2 ^ 80 % 2 = 0) →
        Claim.answers .mailboxResume 7 false [] fn x y c s (w.mapCtx y.cnum fun z => { z with
          saved := [], held := y.held, gen := numAt h 8 0, gstop := some (BitVec.ofNat 64 (numAt h 8 1)),
          born := BitVec.ofNat 64 (s.now / 3) - BitVec.ofNat 64 (numAt h 8 1) - BitVec.ofNat 64 (numAt h 8 2),
          transit := false, paused := true, pauseReq := false, resumeReq := true, out := true }, 0, [])) ∧
      (leNat (h.drop 26) ≠ 0 → Claim.answers .mailboxResume 7 false [] fn x y c s (w.lostCtx y.cnum y.save, 2, [])) ∧
      (leNat (h.drop 26) = 0 → (∀ j, j < 256 → blockNat d (16 * j) 16 < 2 ^ 81) → numAt h 8 0 = 0 →
        Claim.answers .mailboxResume 7 false [] fn x y c s (w, 2, []))) ∧
    (s.boot.keyed = false → Claim.answers .rkey 8 false [(8, 8)] fn x y c s (s, 6, [])) ∧
    (s.boot.keyed = true → va % 4096 = 0 → ∀ u,
      s.gwriteParts y.cnum va [(0, fit 1793 s.receiptKey), (2048, fit 2048 (Config.certificate s.boot.secret s.boot.life))] = .ok u →
        Claim.answers .rkey 8 false [(8, 8)] fn x y c s (u, 0, [])) ∧
    (cmdNat c 8 2 < 4096 → cmdNat c 12 6 < 2 ^ 47 → ∃ t : State, Claim.answers .linktab 9 true [(8, 2), (12, 6)] fn x y c s (t, 0, []) ∧
      t.self.toNat = cmdNat c 8 2 ∧ t.mem = s.mem ∧ ∀ j, j < 47 → ∃ l ∈ t.links, l.n = j ∧ l.enabled = (cmdNat c 12 6).testBit j) ∧
    (cmdNat c 8 1 < 47 → ∃ t : State, Claim.answers .linkkey 10 true [(8, 1), (10, 6), (16, 32)] fn x y c s (t, 0, []) ∧ t.mem = s.mem ∧
      ((∀ u ∈ s.unacked, u.waits = false) → s.outWait = [] →
        ∃ l ∈ t.links, l.n = cmdNat c 8 1 ∧ l.next = some (fld 128 256 c, fld 80 48 c) ∧ l.keyexh = false)) ∧
    (let b := cmdNat c 8 1
     (forward s.boot.life b = false → Claim.answers .lifecycle 11 true [(8, 1), (16, 8)] fn x y c s (s, 6, [])) ∧
     (forward s.boot.life b = true → s.authorised b (cmdNat c 16 8) = false →
       Claim.answers .lifecycle 11 true [(8, 1), (16, 8)] fn x y c s (s, 3, [])) ∧
     (forward s.boot.life b = true → s.authorised b (cmdNat c 16 8) = true →
       ∃ t : State, Claim.answers .lifecycle 11 true [(8, 1), (16, 8)] fn x y c s (t, 0, []) ∧ t.boot.life = b ∧ t.power.dies = false ∧
         t.power.on = s.power.on ∧ (∀ a, a < 2 ^ 60 → Mem.read t.mem a = 0) ∧ (b = 2 → t.boot.secret = s.boot.secret)))

/-- The host's accesses, the function registers and the keystone's maps. -/
def Obligations.HostAccessesAndRegisters : Prop := Claim.HostAccesses ∧ Claim.FunctionRegisters

/-- The mailbox. -/
def Obligations.MailboxCommands : Prop := Claim.SmallCommands ∧ Claim.LargeCommands

/-! ### The machine as a whole -/

/-- R126, R133, R162: with no event due, the stream with the turn runs the instruction that its core decodes from the word at its PC, and the
turn passes; a reserved encoding raises OP.RESERVED; a fetch outside the code section raises CODE.RANGE; a page not yet checked is checked
first; a stream that may not issue passes its turn. An event whose cycle has come takes place instead (the order of turns is the model's,
log 1). -/
def Obligations.StepRunsTheDecodedInstruction : Prop :=
  ∀ (s : State) (o : Code) (w : Word),
    let a := s.core.pc.toNat
    let k := codeKey o.slot + (a - 0x10000)
    let inRange : Prop := a % 4 = 0 ∧ 0x10000 ≤ a ∧ a < 0x10000 + o.size
    ((∀ d ds, s.due = d :: ds → s.now < d.at_) →
      (s.mayIssue = false → step s = .next s.rotate) ∧
      (s.mayIssue = true → s.codeOf s.tile.task = some o → o.quarantined = false →
        (inRange → (a - 0x10000) / 65536 ∈ o.checked →
          w = Mem.read s.mem (k + 3) ++ Mem.read s.mem (k + 2) ++ Mem.read s.mem (k + 1) ++ Mem.read s.mem k →
          (∀ i, decode s.sel w = .ok i → step s = passTurn (exec i s)) ∧
          (∀ e, decode s.sel w = .error e → step s = passTurn (exec (.reservedEncoding w) s))) ∧
        (inRange → (a - 0x10000) / 65536 ∉ o.checked →
          step s = exec .codePageCheck { s with arg := .fetch s.tile.ptile s.sel ((a - 0x10000) / 65536) }) ∧
        (¬inRange → step s = .next (s.takeTrap (some s.sel) { cls := .codeRange, access := 3, addr := a }).rotate))) ∧
    (∀ d ds, s.due = d :: ds → d.at_ ≤ s.now → (s.power.on = true ∧ s.power.dies = true ∨ d.ev = .powerUp) →
      step s = exec d.ev { s with due := ds, arg := d.arg }) ∧
    (∀ t, passTurn (.next t) = .next t.rotate)

/-- Words of the spec's own tables of encoded lines (chapters 06 to 13) decode to the instructions written beside them. -/
def Obligations.DecodesSpecWords : Prop :=
  let k (tka tkb pta ptb : Bool) (n : BitVec 3) : Tok := { tka := tka, tkb := tkb, pta := pta, ptb := ptb, stall := n }
  decode .load 0x00429800 = .ok (.add 4 5 6) ∧
  decode .compute 0x04217FE0 = .ok (.addi 2 2 (-32)) ∧
  decode .store 0x2F407FFD = .ok (.bne 20 0 (-3)) ∧
  decode .load 0x4F420144 = .ok (.futRead 20 4 0 1) ∧
  decode .compute 0x81281083 = .ok (.vadd (k true false false true 2) 1 2 3) ∧
  decode .load 0x808084E0 = .ok (.dmaLd (k false false true false 0) 2 1 7 0) ∧
  decode .load 0x46000018 = .ok .fenceAck ∧
  decode .compute 0x4B400001 = .ok (.csrR 20 1) ∧
  decode .store 0x4C201C02 = .ok (.hset 2 7 0) ∧
  decode .load 0x3E019004 = .ok (.loopi 100 4) ∧
  decode .load 0x86808588 = .ok (.dmaIx (k false false true false 0) 2 1 12 4) ∧
  decode .store 0x8E0284B4 = .ok (.stRel (k false false false false 0) 20 2 22 4) ∧
  decode .compute 0xE1800042 = .ok (.mma (k true false true false 0) 1 2) ∧
  decode .compute 0xE8203515 = .ok (.epi (k false false false true 0) 3 20 21) ∧
  decode .load 0x4E021441 = .ok (.futResolve 0 4 5 0) ∧
  decode .compute 0x4F461522 = .ok (.placeConv 20 12 5 1) ∧
  decode .load 0x50000003 = .ok .done

/-- Decoding the encoding of a well-formed instruction gives it back, on every core whose map has it, and a word that decodes is the encoding of
what it decodes to: no bit is dropped and no two instructions share a word of one core. -/
def Obligations.DecodeAndEncodeAgree : Prop :=
  (∀ i w c, illFormed i = none → encode i = some w → (w.getLsbD 31 = true → (c = .compute ↔ isTransfer i = false)) → decode c w = .ok i) ∧
  (∀ c w i, decode c w = .ok i → encode i = some w ∧ illFormed i = none)

/-- R388, R389: the machine after reset: no stream may issue, READY is 0, memory is canonical and reads zero, the keystone is the only context,
and a step only passes time. The lifecycle state at reset is the model's choice (log 2). -/
def Obligations.AfterReset : Prop :=
  let s := State.reset
  Inv s ∧ (∀ a, Mem.read s.mem a = 0) ∧ (∀ c : CoreId, ({ s with sel := c } : State).mayIssue = false) ∧ s.boot.ready = false ∧
    s.statusReg = 0 ∧ s.ctxs.map (·.cnum) = [0] ∧ s.queues = [] ∧ s.codes = [] ∧ s.nodes = [] ∧ s.bars = [] ∧ s.power.limit = 3000000 ∧
    step s = .next s.rotate

/-- Every step keeps the canonical form of memory: from every state that has it, whatever event or instruction the step is. -/
def Obligations.StepKeepsMemoryCanonical : Prop := ∀ s t : State, Inv s → step s = .next t → Inv t

/-- A byte written is the byte read and every other byte reads as before, a byte zeroed reads 0, and canonical memories that read alike are
equal. -/
def Obligations.MemoryOperations : Prop :=
  ∀ (m : Mem) (k n : Nat) (bs : List Byte),
    (∀ j b, bs[j]? = some b → Mem.read (Mem.writeRange m k bs) (k + j) = b) ∧
    (∀ a, (a < k ∨ k + bs.length ≤ a) → Mem.read (Mem.writeRange m k bs) a = Mem.read m a) ∧
    (∀ a, Mem.read (Mem.zero m k n) a = if k ≤ a ∧ a < k + n then 0 else Mem.read m a) ∧
    (Mem.wf m → ∀ m' : Mem, Mem.wf m' → (∀ a, Mem.read m a = Mem.read m' a) → m = m')

/-- Every instruction and every event answers a next state, from every state: the machine has no fault and no refusal. -/
def Obligations.EveryStepIsANextState : Prop := (∀ (i : Instr) (s : State), ∃ t, exec i s = .next t) ∧ ∀ s : State, ∃ t, step s = .next t

/-- What the instructions that write registers alone leave unchanged: arithmetic, jumps, loads, tests, fences; g0 is no destination. -/
def Obligations.FrameOfRegisterInstructions : Prop :=
  ∀ (d a b : GReg) (h : HReg) (i : BitVec 15) (n : BitVec 5) (u : BitVec 20) (x : BitVec 3) (y z : BitVec 10) (e : BitVec 1) (s : State),
    (∀ j ∈ [Instr.add d a b, .sub d a b, .and d a b, .or d a b, .xor d a b, .sll d a b, .srl d a b, .sra d a b, .slt d a b, .sltu d a b,
        .min d a b, .max d a b, .minu d a b, .maxu d a b, .add1s d a b, .add2s d a b, .add3s d a b, .mul d a b, .mulh d a b, .mulhu d a b,
        .mulhsu d a b, .div d a b, .divu d a b, .rem d a b, .remu d a b, .addi d a i, .andi d a i, .ori d a i, .xori d a i, .slti d a i,
        .sltiu d a i, .slli d a n, .srli d a n, .srai d a n, .lui d u, .auipc d u, .jal d u, .jalr d a i, .lb d a i, .lbu d a i, .lh d a i,
        .lhu d a i, .lw d a i, .qpeek d e, .qcount d e, .barTest d a b, .hget d h n], OnlyRegs j s [d]) ∧
    (∀ j ∈ [Instr.beq a b i, .bne a b i, .blt a b i, .bge a b i, .bltu a b i, .bgeu a b i, .loop a i, .loopi y z, .lbrk a, .lbrkZ a,
        .barWait a b, .barWaitchk d a b, .fenceRel x, .fenceAcq x, .fenceAr x, .fenceAck, .nop, .yield, .ebreak, .ecall], OnlyRegs j s []) ∧
    (∀ j ∈ [Instr.add d a b, .addi d a i, .mul d a b, .lw d a i, .beq a b i, .nop], ∀ t, exec j s = .next t →
      t.core.loops = s.core.loops ∨ t.core.loops = (backEdge s.core.pc s.core.loops).2)

/-- What the instructions that store to scratch leave unchanged, with the address that each stores to; an lld changes no byte but those of a
live barrier slot that it touches (R96). -/
def Obligations.FrameOfStores : Prop :=
  ∀ (d a b : GReg) (h : HReg) (i : BitVec 15) (s : State),
    let at_ := (wrap32 ((s.g a).toNat + i.toInt)).toNat
    OnlyStores (.sb d a i) s [] at_ 1 ∧ OnlyStores (.sh d a i) s [] at_ 2 ∧ OnlyStores (.sw d a i) s [] at_ 4 ∧
    OnlyStores (.sul d a i) s [] at_ 4 ∧ OnlyStores (.hst h a) s [] (s.g a).toNat 32 ∧
    (∀ j ∈ [Instr.amoAdd d a b, .amoMin d a b, .amoMax d a b, .amoAnd d a b, .amoOr d a b, .amoXor d a b, .amoSwap d a b, .amoCas d a b],
      OnlyStores j s [d] (s.opd a).toNat 4) ∧
    OnlyStores (.lld d a i) s [d] (s.opd a + imm i).toNat 4 ∧ (s.bars = [] → OnlyRegs (.lld d a i) s [d])

/-- What the instructions that an engine performs leave unchanged at their issue: the transfers (with a stream that has not retired done, and
no ld.place or st.place of its own under the SEQ that comes next, which would be the 65,537th since) and the cop functions; and what a vector instruction without a port destination leaves unchanged. -/
def Obligations.FrameOfEngineInstructions : Prop :=
  ∀ (k : Tok) (f g : HReg) (d a b : GReg) (e : BitVec 5) (m : BitVec 2) (p : Pair) (x : BitVec 4) (u v w : VCode) (s : State),
    (s.core.fin = false → (∀ o ∈ s.tile.ops, o.core = s.sel → o.seq = s.core.seq → o.ask = none) →
      ∀ j ∈ [Instr.dmaLd k f g a e, .dmaSt k f g a e, .dmaCp k f g a x, .dmaCpMc k f g a x, .dmaIx k f g a p, .dmaSx k f g a p,
          .dmaRd k f g a p, .dmaWr k f g a p, .rvat k f g a p, .ldPlace k f a p, .stPlace k g a p, .ratAdd k d p a, .ratMin k d p a,
          .ratMax k d p a, .ratAnd k d p a, .ratOr k d p a, .ratXor k d p a, .ratSwap k d p a, .ratCas k d p a], OnlyIssues j s) ∧
    (∀ j ∈ [Instr.allreduce d a b m, .allgather d a b m, .reducescatter d a b m, .alltoall d a b m, .bcast d a b m, .cbar d a b m,
        .cstat d a b m, .ptabSet d a b m, .ptabGet d a b m, .placeConv d a b m, .meshSet d a b m, .rsPlan d a b m, .rsStart d a b m,
        .rsResume d a b m, .rsStatus d a b m, .rsAbort d a b m, .futInit d a b m, .futResolve d a b m, .futReg d a b m, .futPoison d a b m,
        .futRead d a b m, .ctxCreate d a b m, .ctxGrant d a b m, .ctxRevoke d a b m, .ctxDestroy d a b m, .ctxBudget d a b m,
        .ctxKey d a b m, .ctxScrub d a b m, .ctxReceipt d a b m, .nodeLaunch d a b m, .nodeStatus d a b m, .logArm d a b m, .logRead d a b m,
        .timeRead d a b m], OnlyIssues j s) ∧
    (isPort u = false →
      ∀ j ∈ [Instr.vadd k u v w, .vsub k u v w, .vmul k u v w, .vmin k u v w, .vmax k u v w, .vabs k u v, .vneg k u v, .vsll k u v w,
          .vsrl k u v w, .vsra k u v w, .vclz k u v, .vpopc k u v, .vand k u v w, .vor k u v w, .vxor k u v w, .vnot k u v],
        ∀ t, exec j s = .next t → t.mem = s.mem ∧ t.tile.v = s.tile.v ∧ t.tile.vtag = s.tile.vtag ∧ t.tile.p = s.tile.p ∧
          t.rest = s.rest ∧ t.ctxs = s.ctxs ∧ t.tile.ringHd = s.tile.ringHd ∧ t.tile.ringTl = s.tile.ringTl ∧
          ∀ c, (t.tile.core c).g = (s.tile.core c).g ∧ (t.tile.core c).h = (s.tile.core c).h)
end

