-- ==== Sys2Proof/Laws/State.lean ====
section
/-! SUPPORT. What each update of the state does to each field. -/

namespace Sys2Proof.Laws

open Machine

/-! A change of the tile in focus. -/

@[simp] theorem setTile_tile (s : State) (t : Tile) : (s.setTile t).tile = t := rfl
@[simp] theorem setTile_rest (s : State) (t : Tile) : (s.setTile t).rest = s.rest := rfl
@[simp] theorem setTile_sel (s : State) (t : Tile) : (s.setTile t).sel = s.sel := rfl
@[simp] theorem setTile_turn (s : State) (t : Tile) : (s.setTile t).turn = s.turn := rfl
@[simp] theorem setTile_now (s : State) (t : Tile) : (s.setTile t).now = s.now := rfl
@[simp] theorem setTile_due (s : State) (t : Tile) : (s.setTile t).due = s.due := rfl
@[simp] theorem setTile_arg (s : State) (t : Tile) : (s.setTile t).arg = s.arg := rfl
@[simp] theorem setTile_freeN (s : State) (t : Tile) : (s.setTile t).freeN = s.freeN := rfl
@[simp] theorem setTile_mem (s : State) (t : Tile) : (s.setTile t).mem = s.mem := rfl
@[simp] theorem setTile_locks (s : State) (t : Tile) : (s.setTile t).locks = s.locks := rfl
@[simp] theorem setTile_lockq (s : State) (t : Tile) : (s.setTile t).lockq = s.lockq := rfl
@[simp] theorem setTile_bars (s : State) (t : Tile) : (s.setTile t).bars = s.bars := rfl
@[simp] theorem setTile_errs (s : State) (t : Tile) : (s.setTile t).errs = s.errs := rfl
@[simp] theorem setTile_poison (s : State) (t : Tile) : (s.setTile t).poison = s.poison := rfl
@[simp] theorem setTile_badPages (s : State) (t : Tile) : (s.setTile t).badPages = s.badPages := rfl
@[simp] theorem setTile_ctxs (s : State) (t : Tile) : (s.setTile t).ctxs = s.ctxs := rfl
@[simp] theorem setTile_cgenPast (s : State) (t : Tile) : (s.setTile t).cgenPast = s.cgenPast := rfl
@[simp] theorem setTile_keyPast (s : State) (t : Tile) : (s.setTile t).keyPast = s.keyPast := rfl
@[simp] theorem setTile_codes (s : State) (t : Tile) : (s.setTile t).codes = s.codes := rfl
@[simp] theorem setTile_self (s : State) (t : Tile) : (s.setTile t).self = s.self := rfl
@[simp] theorem setTile_outbox (s : State) (t : Tile) : (s.setTile t).outbox = s.outbox := rfl
@[simp] theorem setTile_ctlOut (s : State) (t : Tile) : (s.setTile t).ctlOut = s.ctlOut := rfl
@[simp] theorem setTile_outWait (s : State) (t : Tile) : (s.setTile t).outWait = s.outWait := rfl
@[simp] theorem setTile_unacked (s : State) (t : Tile) : (s.setTile t).unacked = s.unacked := rfl
@[simp] theorem setTile_pktN (s : State) (t : Tile) : (s.setTile t).pktN = s.pktN := rfl
@[simp] theorem setTile_farDown (s : State) (t : Tile) : (s.setTile t).farDown = s.farDown := rfl
@[simp] theorem setTile_spoiled (s : State) (t : Tile) : (s.setTile t).spoiled = s.spoiled := rfl
@[simp] theorem setTile_hbars (s : State) (t : Tile) : (s.setTile t).hbars = s.hbars := rfl
@[simp] theorem setTile_hbarTold (s : State) (t : Tile) : (s.setTile t).hbarTold = s.hbarTold := rfl
@[simp] theorem setTile_parts (s : State) (t : Tile) : (s.setTile t).parts = s.parts := rfl
@[simp] theorem setTile_waits (s : State) (t : Tile) : (s.setTile t).waits = s.waits := rfl
@[simp] theorem setTile_reqs (s : State) (t : Tile) : (s.setTile t).reqs = s.reqs := rfl
@[simp] theorem setTile_reqN (s : State) (t : Tile) : (s.setTile t).reqN = s.reqN := rfl
@[simp] theorem setTile_taskN (s : State) (t : Tile) : (s.setTile t).taskN = s.taskN := rfl
@[simp] theorem setTile_keyTags (s : State) (t : Tile) : (s.setTile t).keyTags = s.keyTags := rfl
@[simp] theorem setTile_retired (s : State) (t : Tile) : (s.setTile t).retired = s.retired := rfl
@[simp] theorem setTile_stuck (s : State) (t : Tile) : (s.setTile t).stuck = s.stuck := rfl
@[simp] theorem setTile_rac (s : State) (t : Tile) : (s.setTile t).rac = s.rac := rfl
@[simp] theorem setTile_epoch (s : State) (t : Tile) : (s.setTile t).epoch = s.epoch := rfl
@[simp] theorem setTile_codeN (s : State) (t : Tile) : (s.setTile t).codeN = s.codeN := rfl
@[simp] theorem setTile_queues (s : State) (t : Tile) : (s.setTile t).queues = s.queues := rfl
@[simp] theorem setTile_scanLast (s : State) (t : Tile) : (s.setTile t).scanLast = s.scanLast := rfl
@[simp] theorem setTile_scanAt (s : State) (t : Tile) : (s.setTile t).scanAt = s.scanAt := rfl
@[simp] theorem setTile_packets (s : State) (t : Tile) : (s.setTile t).packets = s.packets := rfl
@[simp] theorem setTile_nodes (s : State) (t : Tile) : (s.setTile t).nodes = s.nodes := rfl
@[simp] theorem setTile_readyN (s : State) (t : Tile) : (s.setTile t).readyN = s.readyN := rfl
@[simp] theorem setTile_reports (s : State) (t : Tile) : (s.setTile t).reports = s.reports := rfl
@[simp] theorem setTile_tickT (s : State) (t : Tile) : (s.setTile t).tickT = s.tickT := rfl
@[simp] theorem setTile_tickNew (s : State) (t : Tile) : (s.setTile t).tickNew = s.tickNew := rfl
@[simp] theorem setTile_tickAt (s : State) (t : Tile) : (s.setTile t).tickAt = s.tickAt := rfl
@[simp] theorem setTile_mail (s : State) (t : Tile) : (s.setTile t).mail = s.mail := rfl
@[simp] theorem setTile_mailN (s : State) (t : Tile) : (s.setTile t).mailN = s.mailN := rfl
@[simp] theorem setTile_gone (s : State) (t : Tile) : (s.setTile t).gone = s.gone := rfl
@[simp] theorem setTile_orders (s : State) (t : Tile) : (s.setTile t).orders = s.orders := rfl
@[simp] theorem setTile_links (s : State) (t : Tile) : (s.setTile t).links = s.links := rfl
@[simp] theorem setTile_lostPkgs (s : State) (t : Tile) : (s.setTile t).lostPkgs = s.lostPkgs := rfl
@[simp] theorem setTile_fns (s : State) (t : Tile) : (s.setTile t).fns = s.fns := rfl
@[simp] theorem setTile_msix (s : State) (t : Tile) : (s.setTile t).msix = s.msix := rfl
@[simp] theorem setTile_hostIn (s : State) (t : Tile) : (s.setTile t).hostIn = s.hostIn := rfl
@[simp] theorem setTile_qmcIn (s : State) (t : Tile) : (s.setTile t).qmcIn = s.qmcIn := rfl
@[simp] theorem setTile_power (s : State) (t : Tile) : (s.setTile t).power = s.power := rfl
@[simp] theorem setTile_boot (s : State) (t : Tile) : (s.setTile t).boot = s.boot := rfl

/-! Bytes written. -/

@[simp] theorem writeBytes_tile (s : State) (k : Nat) (bs : List Byte) : (s.writeBytes k bs).tile = s.tile := rfl
@[simp] theorem writeBytes_rest (s : State) (k : Nat) (bs : List Byte) : (s.writeBytes k bs).rest = s.rest := rfl
@[simp] theorem writeBytes_sel (s : State) (k : Nat) (bs : List Byte) : (s.writeBytes k bs).sel = s.sel := rfl
@[simp] theorem writeBytes_turn (s : State) (k : Nat) (bs : List Byte) : (s.writeBytes k bs).turn = s.turn := rfl
@[simp] theorem writeBytes_now (s : State) (k : Nat) (bs : List Byte) : (s.writeBytes k bs).now = s.now := rfl
@[simp] theorem writeBytes_due (s : State) (k : Nat) (bs : List Byte) : (s.writeBytes k bs).due = s.due := rfl
@[simp] theorem writeBytes_arg (s : State) (k : Nat) (bs : List Byte) : (s.writeBytes k bs).arg = s.arg := rfl
@[simp] theorem writeBytes_freeN (s : State) (k : Nat) (bs : List Byte) : (s.writeBytes k bs).freeN = s.freeN := rfl
@[simp] theorem writeBytes_mem (s : State) (k : Nat) (bs : List Byte) : (s.writeBytes k bs).mem = Mem.writeRange s.mem k bs := rfl
@[simp] theorem writeBytes_locks (s : State) (k : Nat) (bs : List Byte) : (s.writeBytes k bs).locks = s.locks := rfl
@[simp] theorem writeBytes_lockq (s : State) (k : Nat) (bs : List Byte) : (s.writeBytes k bs).lockq = s.lockq := rfl
@[simp] theorem writeBytes_bars (s : State) (k : Nat) (bs : List Byte) : (s.writeBytes k bs).bars = s.bars := rfl
@[simp] theorem writeBytes_errs (s : State) (k : Nat) (bs : List Byte) : (s.writeBytes k bs).errs = s.errs := rfl
@[simp] theorem writeBytes_poison (s : State) (k : Nat) (bs : List Byte) : (s.writeBytes k bs).poison = s.cure k bs.length := rfl
@[simp] theorem writeBytes_badPages (s : State) (k : Nat) (bs : List Byte) : (s.writeBytes k bs).badPages = s.badPages := rfl
@[simp] theorem writeBytes_ctxs (s : State) (k : Nat) (bs : List Byte) : (s.writeBytes k bs).ctxs = s.ctxs := rfl
@[simp] theorem writeBytes_cgenPast (s : State) (k : Nat) (bs : List Byte) : (s.writeBytes k bs).cgenPast = s.cgenPast := rfl
@[simp] theorem writeBytes_keyPast (s : State) (k : Nat) (bs : List Byte) : (s.writeBytes k bs).keyPast = s.keyPast := rfl
@[simp] theorem writeBytes_codes (s : State) (k : Nat) (bs : List Byte) : (s.writeBytes k bs).codes = s.codes := rfl
@[simp] theorem writeBytes_self (s : State) (k : Nat) (bs : List Byte) : (s.writeBytes k bs).self = s.self := rfl
@[simp] theorem writeBytes_outbox (s : State) (k : Nat) (bs : List Byte) : (s.writeBytes k bs).outbox = s.outbox := rfl
@[simp] theorem writeBytes_ctlOut (s : State) (k : Nat) (bs : List Byte) : (s.writeBytes k bs).ctlOut = s.ctlOut := rfl
@[simp] theorem writeBytes_outWait (s : State) (k : Nat) (bs : List Byte) : (s.writeBytes k bs).outWait = s.outWait := rfl
@[simp] theorem writeBytes_unacked (s : State) (k : Nat) (bs : List Byte) : (s.writeBytes k bs).unacked = s.unacked := rfl
@[simp] theorem writeBytes_pktN (s : State) (k : Nat) (bs : List Byte) : (s.writeBytes k bs).pktN = s.pktN := rfl
@[simp] theorem writeBytes_farDown (s : State) (k : Nat) (bs : List Byte) : (s.writeBytes k bs).farDown = s.farDown := rfl
@[simp] theorem writeBytes_spoiled (s : State) (k : Nat) (bs : List Byte) : (s.writeBytes k bs).spoiled = s.spoiled := rfl
@[simp] theorem writeBytes_hbars (s : State) (k : Nat) (bs : List Byte) : (s.writeBytes k bs).hbars = s.hbars := rfl
@[simp] theorem writeBytes_hbarTold (s : State) (k : Nat) (bs : List Byte) : (s.writeBytes k bs).hbarTold = s.hbarTold := rfl
@[simp] theorem writeBytes_parts (s : State) (k : Nat) (bs : List Byte) : (s.writeBytes k bs).parts = s.parts := rfl
@[simp] theorem writeBytes_waits (s : State) (k : Nat) (bs : List Byte) : (s.writeBytes k bs).waits = s.waits := rfl
@[simp] theorem writeBytes_reqs (s : State) (k : Nat) (bs : List Byte) : (s.writeBytes k bs).reqs = s.reqs := rfl
@[simp] theorem writeBytes_reqN (s : State) (k : Nat) (bs : List Byte) : (s.writeBytes k bs).reqN = s.reqN := rfl
@[simp] theorem writeBytes_taskN (s : State) (k : Nat) (bs : List Byte) : (s.writeBytes k bs).taskN = s.taskN := rfl
@[simp] theorem writeBytes_keyTags (s : State) (k : Nat) (bs : List Byte) : (s.writeBytes k bs).keyTags = s.keyTags := rfl
@[simp] theorem writeBytes_retired (s : State) (k : Nat) (bs : List Byte) : (s.writeBytes k bs).retired = s.retired := rfl
@[simp] theorem writeBytes_stuck (s : State) (k : Nat) (bs : List Byte) : (s.writeBytes k bs).stuck = s.stuck := rfl
@[simp] theorem writeBytes_rac (s : State) (k : Nat) (bs : List Byte) : (s.writeBytes k bs).rac = s.rac := rfl
@[simp] theorem writeBytes_epoch (s : State) (k : Nat) (bs : List Byte) : (s.writeBytes k bs).epoch = s.epoch := rfl
@[simp] theorem writeBytes_codeN (s : State) (k : Nat) (bs : List Byte) : (s.writeBytes k bs).codeN = s.codeN := rfl
@[simp] theorem writeBytes_queues (s : State) (k : Nat) (bs : List Byte) : (s.writeBytes k bs).queues = s.queues := rfl
@[simp] theorem writeBytes_scanLast (s : State) (k : Nat) (bs : List Byte) : (s.writeBytes k bs).scanLast = s.scanLast := rfl
@[simp] theorem writeBytes_scanAt (s : State) (k : Nat) (bs : List Byte) : (s.writeBytes k bs).scanAt = s.scanAt := rfl
@[simp] theorem writeBytes_packets (s : State) (k : Nat) (bs : List Byte) : (s.writeBytes k bs).packets = s.packets := rfl
@[simp] theorem writeBytes_nodes (s : State) (k : Nat) (bs : List Byte) : (s.writeBytes k bs).nodes = s.nodes := rfl
@[simp] theorem writeBytes_readyN (s : State) (k : Nat) (bs : List Byte) : (s.writeBytes k bs).readyN = s.readyN := rfl
@[simp] theorem writeBytes_reports (s : State) (k : Nat) (bs : List Byte) : (s.writeBytes k bs).reports = s.reports := rfl
@[simp] theorem writeBytes_tickT (s : State) (k : Nat) (bs : List Byte) : (s.writeBytes k bs).tickT = s.tickT := rfl
@[simp] theorem writeBytes_tickNew (s : State) (k : Nat) (bs : List Byte) : (s.writeBytes k bs).tickNew = s.tickNew := rfl
@[simp] theorem writeBytes_tickAt (s : State) (k : Nat) (bs : List Byte) : (s.writeBytes k bs).tickAt = s.tickAt := rfl
@[simp] theorem writeBytes_mail (s : State) (k : Nat) (bs : List Byte) : (s.writeBytes k bs).mail = s.mail := rfl
@[simp] theorem writeBytes_mailN (s : State) (k : Nat) (bs : List Byte) : (s.writeBytes k bs).mailN = s.mailN := rfl
@[simp] theorem writeBytes_gone (s : State) (k : Nat) (bs : List Byte) : (s.writeBytes k bs).gone = s.gone := rfl
@[simp] theorem writeBytes_orders (s : State) (k : Nat) (bs : List Byte) : (s.writeBytes k bs).orders = s.orders := rfl
@[simp] theorem writeBytes_links (s : State) (k : Nat) (bs : List Byte) : (s.writeBytes k bs).links = s.links := rfl
@[simp] theorem writeBytes_lostPkgs (s : State) (k : Nat) (bs : List Byte) : (s.writeBytes k bs).lostPkgs = s.lostPkgs := rfl
@[simp] theorem writeBytes_fns (s : State) (k : Nat) (bs : List Byte) : (s.writeBytes k bs).fns = s.fns := rfl
@[simp] theorem writeBytes_msix (s : State) (k : Nat) (bs : List Byte) : (s.writeBytes k bs).msix = s.msix := rfl
@[simp] theorem writeBytes_hostIn (s : State) (k : Nat) (bs : List Byte) : (s.writeBytes k bs).hostIn = s.hostIn := rfl
@[simp] theorem writeBytes_qmcIn (s : State) (k : Nat) (bs : List Byte) : (s.writeBytes k bs).qmcIn = s.qmcIn := rfl
@[simp] theorem writeBytes_power (s : State) (k : Nat) (bs : List Byte) : (s.writeBytes k bs).power = s.power := rfl
@[simp] theorem writeBytes_boot (s : State) (k : Nat) (bs : List Byte) : (s.writeBytes k bs).boot = s.boot := rfl

/-! Bytes zeroed. -/

@[simp] theorem zeroBytes_tile (s : State) (k n : Nat) : (s.zeroBytes k n).tile = s.tile := rfl
@[simp] theorem zeroBytes_rest (s : State) (k n : Nat) : (s.zeroBytes k n).rest = s.rest := rfl
@[simp] theorem zeroBytes_sel (s : State) (k n : Nat) : (s.zeroBytes k n).sel = s.sel := rfl
@[simp] theorem zeroBytes_turn (s : State) (k n : Nat) : (s.zeroBytes k n).turn = s.turn := rfl
@[simp] theorem zeroBytes_now (s : State) (k n : Nat) : (s.zeroBytes k n).now = s.now := rfl
@[simp] theorem zeroBytes_due (s : State) (k n : Nat) : (s.zeroBytes k n).due = s.due := rfl
@[simp] theorem zeroBytes_arg (s : State) (k n : Nat) : (s.zeroBytes k n).arg = s.arg := rfl
@[simp] theorem zeroBytes_freeN (s : State) (k n : Nat) : (s.zeroBytes k n).freeN = s.freeN := rfl
@[simp] theorem zeroBytes_mem (s : State) (k n : Nat) : (s.zeroBytes k n).mem = Mem.zero s.mem k n := rfl
@[simp] theorem zeroBytes_locks (s : State) (k n : Nat) : (s.zeroBytes k n).locks = s.locks := rfl
@[simp] theorem zeroBytes_lockq (s : State) (k n : Nat) : (s.zeroBytes k n).lockq = s.lockq := rfl
@[simp] theorem zeroBytes_bars (s : State) (k n : Nat) : (s.zeroBytes k n).bars = s.bars := rfl
@[simp] theorem zeroBytes_errs (s : State) (k n : Nat) : (s.zeroBytes k n).errs = s.errs := rfl
@[simp] theorem zeroBytes_poison (s : State) (k n : Nat) : (s.zeroBytes k n).poison = s.cure k n := rfl
@[simp] theorem zeroBytes_badPages (s : State) (k n : Nat) : (s.zeroBytes k n).badPages = s.badPages := rfl
@[simp] theorem zeroBytes_ctxs (s : State) (k n : Nat) : (s.zeroBytes k n).ctxs = s.ctxs := rfl
@[simp] theorem zeroBytes_cgenPast (s : State) (k n : Nat) : (s.zeroBytes k n).cgenPast = s.cgenPast := rfl
@[simp] theorem zeroBytes_keyPast (s : State) (k n : Nat) : (s.zeroBytes k n).keyPast = s.keyPast := rfl
@[simp] theorem zeroBytes_codes (s : State) (k n : Nat) : (s.zeroBytes k n).codes = s.codes := rfl
@[simp] theorem zeroBytes_self (s : State) (k n : Nat) : (s.zeroBytes k n).self = s.self := rfl
@[simp] theorem zeroBytes_outbox (s : State) (k n : Nat) : (s.zeroBytes k n).outbox = s.outbox := rfl
@[simp] theorem zeroBytes_ctlOut (s : State) (k n : Nat) : (s.zeroBytes k n).ctlOut = s.ctlOut := rfl
@[simp] theorem zeroBytes_outWait (s : State) (k n : Nat) : (s.zeroBytes k n).outWait = s.outWait := rfl
@[simp] theorem zeroBytes_unacked (s : State) (k n : Nat) : (s.zeroBytes k n).unacked = s.unacked := rfl
@[simp] theorem zeroBytes_pktN (s : State) (k n : Nat) : (s.zeroBytes k n).pktN = s.pktN := rfl
@[simp] theorem zeroBytes_farDown (s : State) (k n : Nat) : (s.zeroBytes k n).farDown = s.farDown := rfl
@[simp] theorem zeroBytes_spoiled (s : State) (k n : Nat) : (s.zeroBytes k n).spoiled = s.spoiled := rfl
@[simp] theorem zeroBytes_hbars (s : State) (k n : Nat) : (s.zeroBytes k n).hbars = s.hbars := rfl
@[simp] theorem zeroBytes_hbarTold (s : State) (k n : Nat) : (s.zeroBytes k n).hbarTold = s.hbarTold := rfl
@[simp] theorem zeroBytes_parts (s : State) (k n : Nat) : (s.zeroBytes k n).parts = s.parts := rfl
@[simp] theorem zeroBytes_waits (s : State) (k n : Nat) : (s.zeroBytes k n).waits = s.waits := rfl
@[simp] theorem zeroBytes_reqs (s : State) (k n : Nat) : (s.zeroBytes k n).reqs = s.reqs := rfl
@[simp] theorem zeroBytes_reqN (s : State) (k n : Nat) : (s.zeroBytes k n).reqN = s.reqN := rfl
@[simp] theorem zeroBytes_taskN (s : State) (k n : Nat) : (s.zeroBytes k n).taskN = s.taskN := rfl
@[simp] theorem zeroBytes_keyTags (s : State) (k n : Nat) : (s.zeroBytes k n).keyTags = s.keyTags := rfl
@[simp] theorem zeroBytes_retired (s : State) (k n : Nat) : (s.zeroBytes k n).retired = s.retired := rfl
@[simp] theorem zeroBytes_stuck (s : State) (k n : Nat) : (s.zeroBytes k n).stuck = s.stuck := rfl
@[simp] theorem zeroBytes_rac (s : State) (k n : Nat) : (s.zeroBytes k n).rac = s.rac := rfl
@[simp] theorem zeroBytes_epoch (s : State) (k n : Nat) : (s.zeroBytes k n).epoch = s.epoch := rfl
@[simp] theorem zeroBytes_codeN (s : State) (k n : Nat) : (s.zeroBytes k n).codeN = s.codeN := rfl
@[simp] theorem zeroBytes_queues (s : State) (k n : Nat) : (s.zeroBytes k n).queues = s.queues := rfl
@[simp] theorem zeroBytes_scanLast (s : State) (k n : Nat) : (s.zeroBytes k n).scanLast = s.scanLast := rfl
@[simp] theorem zeroBytes_scanAt (s : State) (k n : Nat) : (s.zeroBytes k n).scanAt = s.scanAt := rfl
@[simp] theorem zeroBytes_packets (s : State) (k n : Nat) : (s.zeroBytes k n).packets = s.packets := rfl
@[simp] theorem zeroBytes_nodes (s : State) (k n : Nat) : (s.zeroBytes k n).nodes = s.nodes := rfl
@[simp] theorem zeroBytes_readyN (s : State) (k n : Nat) : (s.zeroBytes k n).readyN = s.readyN := rfl
@[simp] theorem zeroBytes_reports (s : State) (k n : Nat) : (s.zeroBytes k n).reports = s.reports := rfl
@[simp] theorem zeroBytes_tickT (s : State) (k n : Nat) : (s.zeroBytes k n).tickT = s.tickT := rfl
@[simp] theorem zeroBytes_tickNew (s : State) (k n : Nat) : (s.zeroBytes k n).tickNew = s.tickNew := rfl
@[simp] theorem zeroBytes_tickAt (s : State) (k n : Nat) : (s.zeroBytes k n).tickAt = s.tickAt := rfl
@[simp] theorem zeroBytes_mail (s : State) (k n : Nat) : (s.zeroBytes k n).mail = s.mail := rfl
@[simp] theorem zeroBytes_mailN (s : State) (k n : Nat) : (s.zeroBytes k n).mailN = s.mailN := rfl
@[simp] theorem zeroBytes_gone (s : State) (k n : Nat) : (s.zeroBytes k n).gone = s.gone := rfl
@[simp] theorem zeroBytes_orders (s : State) (k n : Nat) : (s.zeroBytes k n).orders = s.orders := rfl
@[simp] theorem zeroBytes_links (s : State) (k n : Nat) : (s.zeroBytes k n).links = s.links := rfl
@[simp] theorem zeroBytes_lostPkgs (s : State) (k n : Nat) : (s.zeroBytes k n).lostPkgs = s.lostPkgs := rfl
@[simp] theorem zeroBytes_fns (s : State) (k n : Nat) : (s.zeroBytes k n).fns = s.fns := rfl
@[simp] theorem zeroBytes_msix (s : State) (k n : Nat) : (s.zeroBytes k n).msix = s.msix := rfl
@[simp] theorem zeroBytes_hostIn (s : State) (k n : Nat) : (s.zeroBytes k n).hostIn = s.hostIn := rfl
@[simp] theorem zeroBytes_qmcIn (s : State) (k n : Nat) : (s.zeroBytes k n).qmcIn = s.qmcIn := rfl
@[simp] theorem zeroBytes_power (s : State) (k n : Nat) : (s.zeroBytes k n).power = s.power := rfl
@[simp] theorem zeroBytes_boot (s : State) (k n : Nat) : (s.zeroBytes k n).boot = s.boot := rfl

/-! An event scheduled. -/

@[simp] theorem after_tile (s : State) (n : Nat) (e : Instr) (a : EvArg) : (s.after n e a).tile = s.tile := rfl
@[simp] theorem after_rest (s : State) (n : Nat) (e : Instr) (a : EvArg) : (s.after n e a).rest = s.rest := rfl
@[simp] theorem after_sel (s : State) (n : Nat) (e : Instr) (a : EvArg) : (s.after n e a).sel = s.sel := rfl
@[simp] theorem after_turn (s : State) (n : Nat) (e : Instr) (a : EvArg) : (s.after n e a).turn = s.turn := rfl
@[simp] theorem after_now (s : State) (n : Nat) (e : Instr) (a : EvArg) : (s.after n e a).now = s.now := rfl
@[simp] theorem after_due (s : State) (n : Nat) (e : Instr) (a : EvArg) : (s.after n e a).due = insertDue ⟨s.now + n, e, a⟩ s.due := rfl
@[simp] theorem after_arg (s : State) (n : Nat) (e : Instr) (a : EvArg) : (s.after n e a).arg = s.arg := rfl
@[simp] theorem after_freeN (s : State) (n : Nat) (e : Instr) (a : EvArg) : (s.after n e a).freeN = s.freeN := rfl
@[simp] theorem after_mem (s : State) (n : Nat) (e : Instr) (a : EvArg) : (s.after n e a).mem = s.mem := rfl
@[simp] theorem after_locks (s : State) (n : Nat) (e : Instr) (a : EvArg) : (s.after n e a).locks = s.locks := rfl
@[simp] theorem after_lockq (s : State) (n : Nat) (e : Instr) (a : EvArg) : (s.after n e a).lockq = s.lockq := rfl
@[simp] theorem after_bars (s : State) (n : Nat) (e : Instr) (a : EvArg) : (s.after n e a).bars = s.bars := rfl
@[simp] theorem after_errs (s : State) (n : Nat) (e : Instr) (a : EvArg) : (s.after n e a).errs = s.errs := rfl
@[simp] theorem after_poison (s : State) (n : Nat) (e : Instr) (a : EvArg) : (s.after n e a).poison = s.poison := rfl
@[simp] theorem after_badPages (s : State) (n : Nat) (e : Instr) (a : EvArg) : (s.after n e a).badPages = s.badPages := rfl
@[simp] theorem after_ctxs (s : State) (n : Nat) (e : Instr) (a : EvArg) : (s.after n e a).ctxs = s.ctxs := rfl
@[simp] theorem after_cgenPast (s : State) (n : Nat) (e : Instr) (a : EvArg) : (s.after n e a).cgenPast = s.cgenPast := rfl
@[simp] theorem after_keyPast (s : State) (n : Nat) (e : Instr) (a : EvArg) : (s.after n e a).keyPast = s.keyPast := rfl
@[simp] theorem after_codes (s : State) (n : Nat) (e : Instr) (a : EvArg) : (s.after n e a).codes = s.codes := rfl
@[simp] theorem after_self (s : State) (n : Nat) (e : Instr) (a : EvArg) : (s.after n e a).self = s.self := rfl
@[simp] theorem after_outbox (s : State) (n : Nat) (e : Instr) (a : EvArg) : (s.after n e a).outbox = s.outbox := rfl
@[simp] theorem after_ctlOut (s : State) (n : Nat) (e : Instr) (a : EvArg) : (s.after n e a).ctlOut = s.ctlOut := rfl
@[simp] theorem after_outWait (s : State) (n : Nat) (e : Instr) (a : EvArg) : (s.after n e a).outWait = s.outWait := rfl
@[simp] theorem after_unacked (s : State) (n : Nat) (e : Instr) (a : EvArg) : (s.after n e a).unacked = s.unacked := rfl
@[simp] theorem after_pktN (s : State) (n : Nat) (e : Instr) (a : EvArg) : (s.after n e a).pktN = s.pktN := rfl
@[simp] theorem after_farDown (s : State) (n : Nat) (e : Instr) (a : EvArg) : (s.after n e a).farDown = s.farDown := rfl
@[simp] theorem after_spoiled (s : State) (n : Nat) (e : Instr) (a : EvArg) : (s.after n e a).spoiled = s.spoiled := rfl
@[simp] theorem after_hbars (s : State) (n : Nat) (e : Instr) (a : EvArg) : (s.after n e a).hbars = s.hbars := rfl
@[simp] theorem after_hbarTold (s : State) (n : Nat) (e : Instr) (a : EvArg) : (s.after n e a).hbarTold = s.hbarTold := rfl
@[simp] theorem after_parts (s : State) (n : Nat) (e : Instr) (a : EvArg) : (s.after n e a).parts = s.parts := rfl
@[simp] theorem after_waits (s : State) (n : Nat) (e : Instr) (a : EvArg) : (s.after n e a).waits = s.waits := rfl
@[simp] theorem after_reqs (s : State) (n : Nat) (e : Instr) (a : EvArg) : (s.after n e a).reqs = s.reqs := rfl
@[simp] theorem after_reqN (s : State) (n : Nat) (e : Instr) (a : EvArg) : (s.after n e a).reqN = s.reqN := rfl
@[simp] theorem after_taskN (s : State) (n : Nat) (e : Instr) (a : EvArg) : (s.after n e a).taskN = s.taskN := rfl
@[simp] theorem after_keyTags (s : State) (n : Nat) (e : Instr) (a : EvArg) : (s.after n e a).keyTags = s.keyTags := rfl
@[simp] theorem after_retired (s : State) (n : Nat) (e : Instr) (a : EvArg) : (s.after n e a).retired = s.retired := rfl
@[simp] theorem after_stuck (s : State) (n : Nat) (e : Instr) (a : EvArg) : (s.after n e a).stuck = s.stuck := rfl
@[simp] theorem after_rac (s : State) (n : Nat) (e : Instr) (a : EvArg) : (s.after n e a).rac = s.rac := rfl
@[simp] theorem after_epoch (s : State) (n : Nat) (e : Instr) (a : EvArg) : (s.after n e a).epoch = s.epoch := rfl
@[simp] theorem after_codeN (s : State) (n : Nat) (e : Instr) (a : EvArg) : (s.after n e a).codeN = s.codeN := rfl
@[simp] theorem after_queues (s : State) (n : Nat) (e : Instr) (a : EvArg) : (s.after n e a).queues = s.queues := rfl
@[simp] theorem after_scanLast (s : State) (n : Nat) (e : Instr) (a : EvArg) : (s.after n e a).scanLast = s.scanLast := rfl
@[simp] theorem after_scanAt (s : State) (n : Nat) (e : Instr) (a : EvArg) : (s.after n e a).scanAt = s.scanAt := rfl
@[simp] theorem after_packets (s : State) (n : Nat) (e : Instr) (a : EvArg) : (s.after n e a).packets = s.packets := rfl
@[simp] theorem after_nodes (s : State) (n : Nat) (e : Instr) (a : EvArg) : (s.after n e a).nodes = s.nodes := rfl
@[simp] theorem after_readyN (s : State) (n : Nat) (e : Instr) (a : EvArg) : (s.after n e a).readyN = s.readyN := rfl
@[simp] theorem after_reports (s : State) (n : Nat) (e : Instr) (a : EvArg) : (s.after n e a).reports = s.reports := rfl
@[simp] theorem after_tickT (s : State) (n : Nat) (e : Instr) (a : EvArg) : (s.after n e a).tickT = s.tickT := rfl
@[simp] theorem after_tickNew (s : State) (n : Nat) (e : Instr) (a : EvArg) : (s.after n e a).tickNew = s.tickNew := rfl
@[simp] theorem after_tickAt (s : State) (n : Nat) (e : Instr) (a : EvArg) : (s.after n e a).tickAt = s.tickAt := rfl
@[simp] theorem after_mail (s : State) (n : Nat) (e : Instr) (a : EvArg) : (s.after n e a).mail = s.mail := rfl
@[simp] theorem after_mailN (s : State) (n : Nat) (e : Instr) (a : EvArg) : (s.after n e a).mailN = s.mailN := rfl
@[simp] theorem after_gone (s : State) (n : Nat) (e : Instr) (a : EvArg) : (s.after n e a).gone = s.gone := rfl
@[simp] theorem after_orders (s : State) (n : Nat) (e : Instr) (a : EvArg) : (s.after n e a).orders = s.orders := rfl
@[simp] theorem after_links (s : State) (n : Nat) (e : Instr) (a : EvArg) : (s.after n e a).links = s.links := rfl
@[simp] theorem after_lostPkgs (s : State) (n : Nat) (e : Instr) (a : EvArg) : (s.after n e a).lostPkgs = s.lostPkgs := rfl
@[simp] theorem after_fns (s : State) (n : Nat) (e : Instr) (a : EvArg) : (s.after n e a).fns = s.fns := rfl
@[simp] theorem after_msix (s : State) (n : Nat) (e : Instr) (a : EvArg) : (s.after n e a).msix = s.msix := rfl
@[simp] theorem after_hostIn (s : State) (n : Nat) (e : Instr) (a : EvArg) : (s.after n e a).hostIn = s.hostIn := rfl
@[simp] theorem after_qmcIn (s : State) (n : Nat) (e : Instr) (a : EvArg) : (s.after n e a).qmcIn = s.qmcIn := rfl
@[simp] theorem after_power (s : State) (n : Nat) (e : Instr) (a : EvArg) : (s.after n e a).power = s.power := rfl
@[simp] theorem after_boot (s : State) (n : Nat) (e : Instr) (a : EvArg) : (s.after n e a).boot = s.boot := rfl

/-! A context changed. -/

@[simp] theorem mapCtx_tile (s : State) (n : Nat) (f : Ctx → Ctx) : (s.mapCtx n f).tile = s.tile := rfl
@[simp] theorem mapCtx_rest (s : State) (n : Nat) (f : Ctx → Ctx) : (s.mapCtx n f).rest = s.rest := rfl
@[simp] theorem mapCtx_sel (s : State) (n : Nat) (f : Ctx → Ctx) : (s.mapCtx n f).sel = s.sel := rfl
@[simp] theorem mapCtx_turn (s : State) (n : Nat) (f : Ctx → Ctx) : (s.mapCtx n f).turn = s.turn := rfl
@[simp] theorem mapCtx_now (s : State) (n : Nat) (f : Ctx → Ctx) : (s.mapCtx n f).now = s.now := rfl
@[simp] theorem mapCtx_due (s : State) (n : Nat) (f : Ctx → Ctx) : (s.mapCtx n f).due = s.due := rfl
@[simp] theorem mapCtx_arg (s : State) (n : Nat) (f : Ctx → Ctx) : (s.mapCtx n f).arg = s.arg := rfl
@[simp] theorem mapCtx_freeN (s : State) (n : Nat) (f : Ctx → Ctx) : (s.mapCtx n f).freeN = s.freeN := rfl
@[simp] theorem mapCtx_mem (s : State) (n : Nat) (f : Ctx → Ctx) : (s.mapCtx n f).mem = s.mem := rfl
@[simp] theorem mapCtx_locks (s : State) (n : Nat) (f : Ctx → Ctx) : (s.mapCtx n f).locks = s.locks := rfl
@[simp] theorem mapCtx_lockq (s : State) (n : Nat) (f : Ctx → Ctx) : (s.mapCtx n f).lockq = s.lockq := rfl
@[simp] theorem mapCtx_bars (s : State) (n : Nat) (f : Ctx → Ctx) : (s.mapCtx n f).bars = s.bars := rfl
@[simp] theorem mapCtx_errs (s : State) (n : Nat) (f : Ctx → Ctx) : (s.mapCtx n f).errs = s.errs := rfl
@[simp] theorem mapCtx_poison (s : State) (n : Nat) (f : Ctx → Ctx) : (s.mapCtx n f).poison = s.poison := rfl
@[simp] theorem mapCtx_badPages (s : State) (n : Nat) (f : Ctx → Ctx) : (s.mapCtx n f).badPages = s.badPages := rfl
@[simp] theorem mapCtx_ctxs (s : State) (n : Nat) (f : Ctx → Ctx) : (s.mapCtx n f).ctxs = s.ctxs.map fun c => if c.cnum = n then f c else c := rfl
@[simp] theorem mapCtx_cgenPast (s : State) (n : Nat) (f : Ctx → Ctx) : (s.mapCtx n f).cgenPast = s.cgenPast := rfl
@[simp] theorem mapCtx_keyPast (s : State) (n : Nat) (f : Ctx → Ctx) : (s.mapCtx n f).keyPast = s.keyPast := rfl
@[simp] theorem mapCtx_codes (s : State) (n : Nat) (f : Ctx → Ctx) : (s.mapCtx n f).codes = s.codes := rfl
@[simp] theorem mapCtx_self (s : State) (n : Nat) (f : Ctx → Ctx) : (s.mapCtx n f).self = s.self := rfl
@[simp] theorem mapCtx_outbox (s : State) (n : Nat) (f : Ctx → Ctx) : (s.mapCtx n f).outbox = s.outbox := rfl
@[simp] theorem mapCtx_ctlOut (s : State) (n : Nat) (f : Ctx → Ctx) : (s.mapCtx n f).ctlOut = s.ctlOut := rfl
@[simp] theorem mapCtx_outWait (s : State) (n : Nat) (f : Ctx → Ctx) : (s.mapCtx n f).outWait = s.outWait := rfl
@[simp] theorem mapCtx_unacked (s : State) (n : Nat) (f : Ctx → Ctx) : (s.mapCtx n f).unacked = s.unacked := rfl
@[simp] theorem mapCtx_pktN (s : State) (n : Nat) (f : Ctx → Ctx) : (s.mapCtx n f).pktN = s.pktN := rfl
@[simp] theorem mapCtx_farDown (s : State) (n : Nat) (f : Ctx → Ctx) : (s.mapCtx n f).farDown = s.farDown := rfl
@[simp] theorem mapCtx_spoiled (s : State) (n : Nat) (f : Ctx → Ctx) : (s.mapCtx n f).spoiled = s.spoiled := rfl
@[simp] theorem mapCtx_hbars (s : State) (n : Nat) (f : Ctx → Ctx) : (s.mapCtx n f).hbars = s.hbars := rfl
@[simp] theorem mapCtx_hbarTold (s : State) (n : Nat) (f : Ctx → Ctx) : (s.mapCtx n f).hbarTold = s.hbarTold := rfl
@[simp] theorem mapCtx_parts (s : State) (n : Nat) (f : Ctx → Ctx) : (s.mapCtx n f).parts = s.parts := rfl
@[simp] theorem mapCtx_waits (s : State) (n : Nat) (f : Ctx → Ctx) : (s.mapCtx n f).waits = s.waits := rfl
@[simp] theorem mapCtx_reqs (s : State) (n : Nat) (f : Ctx → Ctx) : (s.mapCtx n f).reqs = s.reqs := rfl
@[simp] theorem mapCtx_reqN (s : State) (n : Nat) (f : Ctx → Ctx) : (s.mapCtx n f).reqN = s.reqN := rfl
@[simp] theorem mapCtx_taskN (s : State) (n : Nat) (f : Ctx → Ctx) : (s.mapCtx n f).taskN = s.taskN := rfl
@[simp] theorem mapCtx_keyTags (s : State) (n : Nat) (f : Ctx → Ctx) : (s.mapCtx n f).keyTags = s.keyTags := rfl
@[simp] theorem mapCtx_retired (s : State) (n : Nat) (f : Ctx → Ctx) : (s.mapCtx n f).retired = s.retired := rfl
@[simp] theorem mapCtx_stuck (s : State) (n : Nat) (f : Ctx → Ctx) : (s.mapCtx n f).stuck = s.stuck := rfl
@[simp] theorem mapCtx_rac (s : State) (n : Nat) (f : Ctx → Ctx) : (s.mapCtx n f).rac = s.rac := rfl
@[simp] theorem mapCtx_epoch (s : State) (n : Nat) (f : Ctx → Ctx) : (s.mapCtx n f).epoch = s.epoch := rfl
@[simp] theorem mapCtx_codeN (s : State) (n : Nat) (f : Ctx → Ctx) : (s.mapCtx n f).codeN = s.codeN := rfl
@[simp] theorem mapCtx_queues (s : State) (n : Nat) (f : Ctx → Ctx) : (s.mapCtx n f).queues = s.queues := rfl
@[simp] theorem mapCtx_scanLast (s : State) (n : Nat) (f : Ctx → Ctx) : (s.mapCtx n f).scanLast = s.scanLast := rfl
@[simp] theorem mapCtx_scanAt (s : State) (n : Nat) (f : Ctx → Ctx) : (s.mapCtx n f).scanAt = s.scanAt := rfl
@[simp] theorem mapCtx_packets (s : State) (n : Nat) (f : Ctx → Ctx) : (s.mapCtx n f).packets = s.packets := rfl
@[simp] theorem mapCtx_nodes (s : State) (n : Nat) (f : Ctx → Ctx) : (s.mapCtx n f).nodes = s.nodes := rfl
@[simp] theorem mapCtx_readyN (s : State) (n : Nat) (f : Ctx → Ctx) : (s.mapCtx n f).readyN = s.readyN := rfl
@[simp] theorem mapCtx_reports (s : State) (n : Nat) (f : Ctx → Ctx) : (s.mapCtx n f).reports = s.reports := rfl
@[simp] theorem mapCtx_tickT (s : State) (n : Nat) (f : Ctx → Ctx) : (s.mapCtx n f).tickT = s.tickT := rfl
@[simp] theorem mapCtx_tickNew (s : State) (n : Nat) (f : Ctx → Ctx) : (s.mapCtx n f).tickNew = s.tickNew := rfl
@[simp] theorem mapCtx_tickAt (s : State) (n : Nat) (f : Ctx → Ctx) : (s.mapCtx n f).tickAt = s.tickAt := rfl
@[simp] theorem mapCtx_mail (s : State) (n : Nat) (f : Ctx → Ctx) : (s.mapCtx n f).mail = s.mail := rfl
@[simp] theorem mapCtx_mailN (s : State) (n : Nat) (f : Ctx → Ctx) : (s.mapCtx n f).mailN = s.mailN := rfl
@[simp] theorem mapCtx_gone (s : State) (n : Nat) (f : Ctx → Ctx) : (s.mapCtx n f).gone = s.gone := rfl
@[simp] theorem mapCtx_orders (s : State) (n : Nat) (f : Ctx → Ctx) : (s.mapCtx n f).orders = s.orders := rfl
@[simp] theorem mapCtx_links (s : State) (n : Nat) (f : Ctx → Ctx) : (s.mapCtx n f).links = s.links := rfl
@[simp] theorem mapCtx_lostPkgs (s : State) (n : Nat) (f : Ctx → Ctx) : (s.mapCtx n f).lostPkgs = s.lostPkgs := rfl
@[simp] theorem mapCtx_fns (s : State) (n : Nat) (f : Ctx → Ctx) : (s.mapCtx n f).fns = s.fns := rfl
@[simp] theorem mapCtx_msix (s : State) (n : Nat) (f : Ctx → Ctx) : (s.mapCtx n f).msix = s.msix := rfl
@[simp] theorem mapCtx_hostIn (s : State) (n : Nat) (f : Ctx → Ctx) : (s.mapCtx n f).hostIn = s.hostIn := rfl
@[simp] theorem mapCtx_qmcIn (s : State) (n : Nat) (f : Ctx → Ctx) : (s.mapCtx n f).qmcIn = s.qmcIn := rfl
@[simp] theorem mapCtx_power (s : State) (n : Nat) (f : Ctx → Ctx) : (s.mapCtx n f).power = s.power := rfl
@[simp] theorem mapCtx_boot (s : State) (n : Nat) (f : Ctx → Ctx) : (s.mapCtx n f).boot = s.boot := rfl

/-! A change of the core with the turn. -/

@[simp] theorem setCore_rest (s : State) (x : CoreSt) : (s.setCore x).rest = s.rest := rfl
@[simp] theorem setCore_sel (s : State) (x : CoreSt) : (s.setCore x).sel = s.sel := rfl
@[simp] theorem setCore_turn (s : State) (x : CoreSt) : (s.setCore x).turn = s.turn := rfl
@[simp] theorem setCore_now (s : State) (x : CoreSt) : (s.setCore x).now = s.now := rfl
@[simp] theorem setCore_due (s : State) (x : CoreSt) : (s.setCore x).due = s.due := rfl
@[simp] theorem setCore_arg (s : State) (x : CoreSt) : (s.setCore x).arg = s.arg := rfl
@[simp] theorem setCore_freeN (s : State) (x : CoreSt) : (s.setCore x).freeN = s.freeN := rfl
@[simp] theorem setCore_mem (s : State) (x : CoreSt) : (s.setCore x).mem = s.mem := rfl
@[simp] theorem setCore_locks (s : State) (x : CoreSt) : (s.setCore x).locks = s.locks := rfl
@[simp] theorem setCore_bars (s : State) (x : CoreSt) : (s.setCore x).bars = s.bars := rfl
@[simp] theorem setCore_errs (s : State) (x : CoreSt) : (s.setCore x).errs = s.errs := rfl
@[simp] theorem setCore_poison (s : State) (x : CoreSt) : (s.setCore x).poison = s.poison := rfl
@[simp] theorem setCore_ctxs (s : State) (x : CoreSt) : (s.setCore x).ctxs = s.ctxs := rfl
@[simp] theorem setCore_unacked (s : State) (x : CoreSt) : (s.setCore x).unacked = s.unacked := rfl
@[simp] theorem setCore_reqs (s : State) (x : CoreSt) : (s.setCore x).reqs = s.reqs := rfl

/-! A g register written. -/

@[simp] theorem putG_rest (s : State) (r : GReg) (x : Word) : (s.putG r x).rest = s.rest := rfl
@[simp] theorem putG_sel (s : State) (r : GReg) (x : Word) : (s.putG r x).sel = s.sel := rfl
@[simp] theorem putG_turn (s : State) (r : GReg) (x : Word) : (s.putG r x).turn = s.turn := rfl
@[simp] theorem putG_now (s : State) (r : GReg) (x : Word) : (s.putG r x).now = s.now := rfl
@[simp] theorem putG_due (s : State) (r : GReg) (x : Word) : (s.putG r x).due = s.due := rfl
@[simp] theorem putG_arg (s : State) (r : GReg) (x : Word) : (s.putG r x).arg = s.arg := rfl
@[simp] theorem putG_freeN (s : State) (r : GReg) (x : Word) : (s.putG r x).freeN = s.freeN := rfl
@[simp] theorem putG_mem (s : State) (r : GReg) (x : Word) : (s.putG r x).mem = s.mem := rfl
@[simp] theorem putG_locks (s : State) (r : GReg) (x : Word) : (s.putG r x).locks = s.locks := rfl
@[simp] theorem putG_bars (s : State) (r : GReg) (x : Word) : (s.putG r x).bars = s.bars := rfl
@[simp] theorem putG_errs (s : State) (r : GReg) (x : Word) : (s.putG r x).errs = s.errs := rfl
@[simp] theorem putG_poison (s : State) (r : GReg) (x : Word) : (s.putG r x).poison = s.poison := rfl
@[simp] theorem putG_ctxs (s : State) (r : GReg) (x : Word) : (s.putG r x).ctxs = s.ctxs := rfl
@[simp] theorem putG_unacked (s : State) (r : GReg) (x : Word) : (s.putG r x).unacked = s.unacked := rfl
@[simp] theorem putG_reqs (s : State) (r : GReg) (x : Word) : (s.putG r x).reqs = s.reqs := rfl

/-! A retirement. -/

@[simp] theorem retire_rest (s : State)  : (s.retire).rest = s.rest := rfl
@[simp] theorem retire_sel (s : State)  : (s.retire).sel = s.sel := rfl
@[simp] theorem retire_turn (s : State)  : (s.retire).turn = s.turn := rfl
@[simp] theorem retire_now (s : State)  : (s.retire).now = s.now := rfl
@[simp] theorem retire_due (s : State)  : (s.retire).due = s.due := rfl
@[simp] theorem retire_arg (s : State)  : (s.retire).arg = s.arg := rfl
@[simp] theorem retire_freeN (s : State)  : (s.retire).freeN = s.freeN := rfl
@[simp] theorem retire_mem (s : State)  : (s.retire).mem = s.mem := rfl
@[simp] theorem retire_locks (s : State)  : (s.retire).locks = s.locks := rfl
@[simp] theorem retire_bars (s : State)  : (s.retire).bars = s.bars := rfl
@[simp] theorem retire_errs (s : State)  : (s.retire).errs = s.errs := rfl
@[simp] theorem retire_poison (s : State)  : (s.retire).poison = s.poison := rfl
@[simp] theorem retire_ctxs (s : State)  : (s.retire).ctxs = s.ctxs := rfl
@[simp] theorem retire_unacked (s : State)  : (s.retire).unacked = s.unacked := rfl
@[simp] theorem retire_reqs (s : State)  : (s.retire).reqs = s.reqs := rfl

/-! A retirement of a private instruction. -/

@[simp] theorem retirePriv_rest (s : State) (n : BitVec 3) : (s.retirePriv n).rest = s.rest := rfl
@[simp] theorem retirePriv_sel (s : State) (n : BitVec 3) : (s.retirePriv n).sel = s.sel := rfl
@[simp] theorem retirePriv_turn (s : State) (n : BitVec 3) : (s.retirePriv n).turn = s.turn := rfl
@[simp] theorem retirePriv_now (s : State) (n : BitVec 3) : (s.retirePriv n).now = s.now := rfl
@[simp] theorem retirePriv_due (s : State) (n : BitVec 3) : (s.retirePriv n).due = s.due := rfl
@[simp] theorem retirePriv_arg (s : State) (n : BitVec 3) : (s.retirePriv n).arg = s.arg := rfl
@[simp] theorem retirePriv_freeN (s : State) (n : BitVec 3) : (s.retirePriv n).freeN = s.freeN := rfl
@[simp] theorem retirePriv_mem (s : State) (n : BitVec 3) : (s.retirePriv n).mem = s.mem := rfl
@[simp] theorem retirePriv_locks (s : State) (n : BitVec 3) : (s.retirePriv n).locks = s.locks := rfl
@[simp] theorem retirePriv_bars (s : State) (n : BitVec 3) : (s.retirePriv n).bars = s.bars := rfl
@[simp] theorem retirePriv_errs (s : State) (n : BitVec 3) : (s.retirePriv n).errs = s.errs := rfl
@[simp] theorem retirePriv_poison (s : State) (n : BitVec 3) : (s.retirePriv n).poison = s.poison := rfl
@[simp] theorem retirePriv_ctxs (s : State) (n : BitVec 3) : (s.retirePriv n).ctxs = s.ctxs := rfl
@[simp] theorem retirePriv_unacked (s : State) (n : BitVec 3) : (s.retirePriv n).unacked = s.unacked := rfl
@[simp] theorem retirePriv_reqs (s : State) (n : BitVec 3) : (s.retirePriv n).reqs = s.reqs := rfl

/-! A jump. -/

@[simp] theorem jump_rest (s : State) (x : Word) : (s.jump x).rest = s.rest := rfl
@[simp] theorem jump_sel (s : State) (x : Word) : (s.jump x).sel = s.sel := rfl
@[simp] theorem jump_turn (s : State) (x : Word) : (s.jump x).turn = s.turn := rfl
@[simp] theorem jump_now (s : State) (x : Word) : (s.jump x).now = s.now := rfl
@[simp] theorem jump_due (s : State) (x : Word) : (s.jump x).due = s.due := rfl
@[simp] theorem jump_arg (s : State) (x : Word) : (s.jump x).arg = s.arg := rfl
@[simp] theorem jump_freeN (s : State) (x : Word) : (s.jump x).freeN = s.freeN := rfl
@[simp] theorem jump_mem (s : State) (x : Word) : (s.jump x).mem = s.mem := rfl
@[simp] theorem jump_locks (s : State) (x : Word) : (s.jump x).locks = s.locks := rfl
@[simp] theorem jump_bars (s : State) (x : Word) : (s.jump x).bars = s.bars := rfl
@[simp] theorem jump_errs (s : State) (x : Word) : (s.jump x).errs = s.errs := rfl
@[simp] theorem jump_poison (s : State) (x : Word) : (s.jump x).poison = s.poison := rfl
@[simp] theorem jump_ctxs (s : State) (x : Word) : (s.jump x).ctxs = s.ctxs := rfl
@[simp] theorem jump_unacked (s : State) (x : Word) : (s.jump x).unacked = s.unacked := rfl
@[simp] theorem jump_reqs (s : State) (x : Word) : (s.jump x).reqs = s.reqs := rfl

/-! A wait. -/

@[simp] theorem park_rest (s : State) (w : Wait) : (s.park w).rest = s.rest := rfl
@[simp] theorem park_sel (s : State) (w : Wait) : (s.park w).sel = s.sel := rfl
@[simp] theorem park_turn (s : State) (w : Wait) : (s.park w).turn = s.turn := rfl
@[simp] theorem park_now (s : State) (w : Wait) : (s.park w).now = s.now := rfl
@[simp] theorem park_due (s : State) (w : Wait) : (s.park w).due = s.due := rfl
@[simp] theorem park_arg (s : State) (w : Wait) : (s.park w).arg = s.arg := rfl
@[simp] theorem park_freeN (s : State) (w : Wait) : (s.park w).freeN = s.freeN := rfl
@[simp] theorem park_mem (s : State) (w : Wait) : (s.park w).mem = s.mem := rfl
@[simp] theorem park_locks (s : State) (w : Wait) : (s.park w).locks = s.locks := rfl
@[simp] theorem park_bars (s : State) (w : Wait) : (s.park w).bars = s.bars := rfl
@[simp] theorem park_errs (s : State) (w : Wait) : (s.park w).errs = s.errs := rfl
@[simp] theorem park_poison (s : State) (w : Wait) : (s.park w).poison = s.poison := rfl
@[simp] theorem park_ctxs (s : State) (w : Wait) : (s.park w).ctxs = s.ctxs := rfl
@[simp] theorem park_unacked (s : State) (w : Wait) : (s.park w).unacked = s.unacked := rfl
@[simp] theorem park_reqs (s : State) (w : Wait) : (s.park w).reqs = s.reqs := rfl

/-! A wait after the issue. -/

@[simp] theorem parkIssued_rest (s : State) (rs : List GReg) (w : Wait) : (s.parkIssued rs w).rest = s.rest := rfl
@[simp] theorem parkIssued_sel (s : State) (rs : List GReg) (w : Wait) : (s.parkIssued rs w).sel = s.sel := rfl
@[simp] theorem parkIssued_turn (s : State) (rs : List GReg) (w : Wait) : (s.parkIssued rs w).turn = s.turn := rfl
@[simp] theorem parkIssued_now (s : State) (rs : List GReg) (w : Wait) : (s.parkIssued rs w).now = s.now := rfl
@[simp] theorem parkIssued_due (s : State) (rs : List GReg) (w : Wait) : (s.parkIssued rs w).due = s.due := rfl
@[simp] theorem parkIssued_arg (s : State) (rs : List GReg) (w : Wait) : (s.parkIssued rs w).arg = s.arg := rfl
@[simp] theorem parkIssued_freeN (s : State) (rs : List GReg) (w : Wait) : (s.parkIssued rs w).freeN = s.freeN := rfl
@[simp] theorem parkIssued_mem (s : State) (rs : List GReg) (w : Wait) : (s.parkIssued rs w).mem = s.mem := rfl
@[simp] theorem parkIssued_locks (s : State) (rs : List GReg) (w : Wait) : (s.parkIssued rs w).locks = s.locks := rfl
@[simp] theorem parkIssued_bars (s : State) (rs : List GReg) (w : Wait) : (s.parkIssued rs w).bars = s.bars := rfl
@[simp] theorem parkIssued_errs (s : State) (rs : List GReg) (w : Wait) : (s.parkIssued rs w).errs = s.errs := rfl
@[simp] theorem parkIssued_poison (s : State) (rs : List GReg) (w : Wait) : (s.parkIssued rs w).poison = s.poison := rfl
@[simp] theorem parkIssued_ctxs (s : State) (rs : List GReg) (w : Wait) : (s.parkIssued rs w).ctxs = s.ctxs := rfl
@[simp] theorem parkIssued_unacked (s : State) (rs : List GReg) (w : Wait) : (s.parkIssued rs w).unacked = s.unacked := rfl
@[simp] theorem parkIssued_reqs (s : State) (rs : List GReg) (w : Wait) : (s.parkIssued rs w).reqs = s.reqs := rfl

/-! A free value drawn. -/

@[simp] theorem freeVal_tile (s : State) (w : Nat) : ((s.freeVal w).2).tile = s.tile := rfl
@[simp] theorem freeVal_rest (s : State) (w : Nat) : ((s.freeVal w).2).rest = s.rest := rfl
@[simp] theorem freeVal_sel (s : State) (w : Nat) : ((s.freeVal w).2).sel = s.sel := rfl
@[simp] theorem freeVal_turn (s : State) (w : Nat) : ((s.freeVal w).2).turn = s.turn := rfl
@[simp] theorem freeVal_now (s : State) (w : Nat) : ((s.freeVal w).2).now = s.now := rfl
@[simp] theorem freeVal_due (s : State) (w : Nat) : ((s.freeVal w).2).due = s.due := rfl
@[simp] theorem freeVal_arg (s : State) (w : Nat) : ((s.freeVal w).2).arg = s.arg := rfl
@[simp] theorem freeVal_freeN (s : State) (w : Nat) : ((s.freeVal w).2).freeN = s.freeN + 1 := rfl
@[simp] theorem freeVal_mem (s : State) (w : Nat) : ((s.freeVal w).2).mem = s.mem := rfl
@[simp] theorem freeVal_locks (s : State) (w : Nat) : ((s.freeVal w).2).locks = s.locks := rfl
@[simp] theorem freeVal_bars (s : State) (w : Nat) : ((s.freeVal w).2).bars = s.bars := rfl
@[simp] theorem freeVal_errs (s : State) (w : Nat) : ((s.freeVal w).2).errs = s.errs := rfl
@[simp] theorem freeVal_poison (s : State) (w : Nat) : ((s.freeVal w).2).poison = s.poison := rfl
@[simp] theorem freeVal_ctxs (s : State) (w : Nat) : ((s.freeVal w).2).ctxs = s.ctxs := rfl
@[simp] theorem freeVal_unacked (s : State) (w : Nat) : ((s.freeVal w).2).unacked = s.unacked := rfl
@[simp] theorem freeVal_reqs (s : State) (w : Nat) : ((s.freeVal w).2).reqs = s.reqs := rfl

/-! The core with the turn. -/

@[simp] theorem setCore_core (s : State) (x : CoreSt) : (s.setCore x).core = x := by
  cases h : s.sel <;> simp [State.core, State.setCore, State.setTile, Tile.core, Tile.setCore, h]

@[simp] theorem setCore_setCore (s : State) (x y : CoreSt) : (s.setCore x).setCore y = s.setCore y := by
  cases h : s.sel <;> simp [State.setCore, State.setTile, Tile.setCore, h]

@[simp] theorem writeBytes_core (s : State) (k : Nat) (bs : List Byte) : (s.writeBytes k bs).core = s.core := rfl
@[simp] theorem after_core (s : State) (n : Nat) (e : Instr) (a : EvArg) : (s.after n e a).core = s.core := rfl
@[simp] theorem writeBytes_g (s : State) (k : Nat) (bs : List Byte) (r : GReg) : (s.writeBytes k bs).g r = s.g r := rfl
@[simp] theorem after_g (s : State) (n : Nat) (e : Instr) (a : EvArg) (r : GReg) : (s.after n e a).g r = s.g r := rfl

/-- A write to the core with the turn leaves the tile's other parts. -/
theorem setCore_tile (s : State) (x : CoreSt) : (s.setCore x).tile = s.tile.setCore s.sel x := rfl

@[simp] theorem tile_setCore_core (t : Tile) (c : CoreId) (x : CoreSt) : (t.setCore c x).core c = x := by cases c <;> rfl

theorem tile_setCore_core_ne (t : Tile) (c e : CoreId) (x : CoreSt) (h : e ≠ c) : (t.setCore c x).core e = t.core e := by
  cases c <;> cases e <;> first | rfl | exact absurd rfl h

@[simp] theorem tile_setCore_q (t : Tile) (c : CoreId) (x : CoreSt) : (t.setCore c x).q = t.q := by cases c <;> rfl
@[simp] theorem tile_setCore_v (t : Tile) (c : CoreId) (x : CoreSt) : (t.setCore c x).v = t.v := by cases c <;> rfl
@[simp] theorem tile_setCore_vtag (t : Tile) (c : CoreId) (x : CoreSt) : (t.setCore c x).vtag = t.vtag := by cases c <;> rfl
@[simp] theorem tile_setCore_p (t : Tile) (c : CoreId) (x : CoreSt) : (t.setCore c x).p = t.p := by cases c <;> rfl
@[simp] theorem tile_setCore_ops (t : Tile) (c : CoreId) (x : CoreSt) : (t.setCore c x).ops = t.ops := by cases c <;> rfl
@[simp] theorem tile_setCore_stop (t : Tile) (c : CoreId) (x : CoreSt) : (t.setCore c x).stop = t.stop := by cases c <;> rfl
@[simp] theorem tile_setCore_task (t : Tile) (c : CoreId) (x : CoreSt) : (t.setCore c x).task = t.task := by cases c <;> rfl
@[simp] theorem tile_setCore_ptile (t : Tile) (c : CoreId) (x : CoreSt) : (t.setCore c x).ptile = t.ptile := by cases c <;> rfl
@[simp] theorem tile_setCore_ports (t : Tile) (c : CoreId) (x : CoreSt) : (t.setCore c x).ports = t.ports := by cases c <;> rfl

/-! g registers. -/

/-- g0 reads zero (R156). -/
@[simp] theorem rg_zero (c : CoreSt) : c.rg 0 = 0 := rfl

/-- A write to g0 is discarded (R156). -/
@[simp] theorem wg_zero (c : CoreSt) (x : Word) : c.wg 0 x = c := rfl

/-- The register written reads as the value written. -/
theorem rg_wg (c : CoreSt) (r : GReg) (x : Word) (h : r ≠ 0) : (c.wg r x).rg r = x := by
  unfold CoreSt.wg CoreSt.rg
  rw [if_neg h, if_neg h]
  simp

/-- Every other register reads as before. -/
theorem rg_wg_ne (c : CoreSt) (r q : GReg) (x : Word) (h : q ≠ r) : (c.wg r x).rg q = c.rg q := by
  unfold CoreSt.wg CoreSt.rg
  by_cases e : r = 0
  · rw [if_pos e]
  · rw [if_neg e]
    have n : r.toNat ≠ q.toNat := fun t => h (BitVec.eq_of_toNat_eq t.symm)
    simp [Vector.getElem_set_ne _ _ n]

@[simp] theorem wg_pc (c : CoreSt) (r : GReg) (x : Word) : (c.wg r x).pc = c.pc := by unfold CoreSt.wg; split <;> rfl
@[simp] theorem wg_loops (c : CoreSt) (r : GReg) (x : Word) : (c.wg r x).loops = c.loops := by unfold CoreSt.wg; split <;> rfl
@[simp] theorem wg_h (c : CoreSt) (r : GReg) (x : Word) : (c.wg r x).h = c.h := by unfold CoreSt.wg; split <;> rfl
@[simp] theorem retire_rg (c : CoreSt) (n k : Nat) (r : GReg) : (c.retire n k).rg r = c.rg r := rfl
@[simp] theorem retire_h (c : CoreSt) (n k : Nat) : (c.retire n k).h = c.h := rfl
@[simp] theorem jump_rg (c : CoreSt) (n : Nat) (x : Word) (r : GReg) : (c.jump n x).rg r = c.rg r := rfl

end Sys2Proof.Laws
end

