-- ==== Sys2Proof/Laws/Mem.lean ====
section
/-! SUPPORT. The canonical form of memory, kept by every operation on it. -/

namespace Sys2Proof.Laws

open Machine

theorem mem_cells {k : Nat} {bs : List Byte} {c : Host.Cell} (h : c ∈ Mem.cells k bs) : k ≤ c.1 ∧ c.1 < k + bs.length ∧ c.2 ≠ 0 := by
  induction bs generalizing k with
  | nil => cases h
  | cons b bs ih =>
    simp only [Mem.cells] at h
    split at h
    · have := ih h
      simp only [List.length_cons]
      exact ⟨by omega, by omega, this.2.2⟩
    · rcases List.mem_cons.mp h with e | e
      · subst e
        exact ⟨Nat.le_refl _, by simp only [List.length_cons]; omega, ‹_›⟩
      · have := ih e
        simp only [List.length_cons]
        exact ⟨by omega, by omega, this.2.2⟩

theorem cells_sorted (k : Nat) (bs : List Byte) : (Mem.cells k bs).Pairwise (fun a b => a.1 < b.1) := by
  induction bs generalizing k with
  | nil => exact .nil
  | cons b bs ih =>
    simp only [Mem.cells]
    split
    · exact ih _
    · refine List.pairwise_cons.mpr ⟨fun c hc => ?_, ih _⟩
      have := (mem_cells hc).1
      show k < c.1
      omega

/-- A write of bytes keeps the canonical form. -/
theorem writeRange_wf {m : Mem} (h : Mem.wf m) (k : Nat) (bs : List Byte) : Mem.wf (Mem.writeRange m k bs) := by
  refine ⟨List.pairwise_append.mpr ⟨h.1.filter _, List.pairwise_append.mpr ⟨cells_sorted k bs, h.1.filter _, ?_⟩, ?_⟩, ?_⟩
  · intro a ha b hb
    have := (mem_cells ha).2.1
    have := of_decide_eq_true (List.mem_filter.mp hb).2
    omega
  · intro a ha b hb
    have := of_decide_eq_true (List.mem_filter.mp ha).2
    rcases List.mem_append.mp hb with e | e
    · have := (mem_cells e).1; omega
    · have := of_decide_eq_true (List.mem_filter.mp e).2; omega
  · intro c hc
    rcases List.mem_append.mp hc with e | e
    · exact h.2 c (List.mem_filter.mp e).1
    rcases List.mem_append.mp e with e | e
    · exact (mem_cells e).2.2
    · exact h.2 c (List.mem_filter.mp e).1

/-- Zeroing keeps the canonical form. -/
theorem zero_wf {m : Mem} (h : Mem.wf m) (k n : Nat) : Mem.wf (Mem.zero m k n) :=
  ⟨h.1.filter _, fun c hc => h.2 c (List.mem_filter.mp hc).1⟩

/-- The memory after reset is canonical. -/
theorem reset_wf : Mem.wf State.reset.mem := ⟨.nil, fun _ h => nomatch h⟩

theorem writeBytes_inv {s : State} (h : Inv s) (k : Nat) (bs : List Byte) : Inv (s.writeBytes k bs) := writeRange_wf h k bs

theorem zeroBytes_inv {s : State} (h : Inv s) (k n : Nat) : Inv (s.zeroBytes k n) := zero_wf h k n

theorem smash_inv {s : State} (h : Inv s) (k n : Nat) (l : List Nat) : Inv (s.smash k n l) := by
  induction l generalizing s with
  | nil => exact h
  | cons b bs ih =>
    simp only [State.smash]
    split
    · exact ih (writeBytes_inv (s := (s.freeVal 128).2) h b _)
    · exact ih h

theorem store_inv {s : State} (h : Inv s) (k : Nat) (bs : List Byte) : Inv (s.store k bs) := smash_inv (writeBytes_inv h k bs) _ _ _

theorem writeNat_inv {s : State} (h : Inv s) (k n x : Nat) : Inv (s.writeNat k n x) := writeBytes_inv h _ _

theorem storeNat_inv {s : State} (h : Inv s) (k n x : Nat) : Inv (s.storeNat k n x) := store_inv h _ _

/-- The invariant speaks of memory alone. -/
theorem inv_of_mem {s t : State} (h : Inv s) (e : t.mem = s.mem) : Inv t := by
  unfold Inv
  rw [e]
  exact h

end Sys2Proof.Laws
end

