-- ==== Sys2Proof/Laws/Ops.lean ====
section
/-! SUPPORT. What the shared operations do: one lemma for each. -/

namespace Sys2Proof.Laws

open Machine

/-- A condition that holds passes its check. -/
@[simp] theorem check_true (p : Prop) [Decidable p] (t : Trap) (h : p) : check p t = .ok () := by simp [check, h]

/-- A condition that holds is not waited for. -/
@[simp] theorem await_true (p : Prop) [Decidable p] (w : Wait) (h : p) : await p w = .ok () := by simp [await, h]

theorem find_none_of_ne {α β : Type} [DecidableEq β] (l : List α) (f : α → β) (r : β) (h : ∀ p ∈ l, f p ≠ r) :
    (l.find? fun p => f p = r) = none := by
  simpa [List.find?_eq_none] using h

theorem readyG_ok (s : State) (r : GReg) (h : ∀ p ∈ s.core.pend, p.1 ≠ r) (g : ∀ d ∈ s.core.dead, d.1 ≠ r) : readyG s r = .ok () := by
  unfold readyG
  rw [find_none_of_ne _ _ _ h, find_none_of_ne _ _ _ g]

theorem readyW_ok (s : State) (r : GReg) (h : ∀ p ∈ s.core.pend, p.1 ≠ r) : readyW s r = .ok () := by
  unfold readyW
  rw [find_none_of_ne _ _ _ h]

theorem allG_ok (f : GReg → Act Unit) (l : List GReg) (h : ∀ r ∈ l, f r = .ok ()) : allG f l = .ok () := by
  induction l with
  | nil => rfl
  | cons r rs ih =>
    simp only [allG, h r (List.mem_cons_self ..)]
    exact ih fun x hx => h x (List.mem_cons_of_mem _ hx)

/-- Available registers pass the interlocks and the early-reader check. -/
theorem hazards_ok {s : State} {rs : List GReg} {os : List Reg} {ws : List GReg} (h : Avail s rs os ws) :
    hazards s rs os ws = .ok () := by
  have a : allG (readyG s) rs = .ok () := allG_ok _ _ fun r hr => readyG_ok s r (h.read r hr).1 (h.read r hr).2
  have b : allG (readyW s) ws = .ok () := allG_ok _ _ fun r hr => readyW_ok s r (h.write r hr)
  have c : stallCheck s (rs.map .g ++ os) = .ok () := by
    refine check_true _ _ ?_
    cases hc : s.core.checkstall with
    | false => exact .inl rfl
    | true => exact .inr (List.any_eq_false.mpr fun x hx => by simp [h.landed hc x hx])
  have d : regError s (rs.map .g ++ os) = .ok () := by
    refine check_true _ _ ?_
    exact List.any_eq_false.mpr fun x hx => by simpa using h.clean x hx
  simp only [hazards, a, b, c, d]; rfl

theorem settled_ok {s : State} (h : Settled s) : settled s = .ok () := await_true _ _ h

theorem pushed_ok {s : State} {k n : Nat} (h : Clear s k n) : pushed s k n = .ok () := await_true _ _ h

/-- Available registers pass the interlocks of an instruction that may wait after its issue, at its first try and later. -/
theorem hazardsIssued_ok {s : State} {rs ws : List GReg} (h : AvailIssued s rs ws) : hazardsIssued s rs ws = .ok () := by
  rw [hazardsIssued]
  split
  · exact hazards_ok (h.first ‹_›)
  · exact allG_ok _ _ fun r hr => readyW_ok s r (h.write r hr)

/-- An instruction that may wait after its issue, with its registers available, does what its body does. -/
theorem commonIssued_ok {s : State} {rs ws : List GReg} (body : Act State) (h : AvailIssued s rs ws) :
    commonIssued s rs ws body = finishIssued s rs body := by
  rw [commonIssued, hazardsIssued_ok h]

/-- A common instruction with its registers available does what its body does. -/
theorem common_ok {s : State} {rs ws : List GReg} (body : Act State) (h : Avail s rs [] ws) : common s rs ws body = finish s body := by
  simp only [common, hazards_ok h]; rfl

theorem take_ok {q : Queue} {now : Nat} {cl : BitVec 3} (h : HeadReady q now cl) : ∃ tk, q.take now cl = .ok (tk, afterTake q now) := by
  obtain ⟨tk, a, rest, hq, ha, hc⟩ := h
  exact ⟨tk, by simp [Queue.take, hq, ha, hc, afterTake]⟩

theorem put_ok {q : Queue} {now : Nat} (x : Slot) (h : 1 ≤ q.free now) : q.put now x = .ok (afterPut q x) := by
  simp [Queue.put, h, afterPut]

theorem takeBit_ok (s : State) (yes b : Bool) (h : yes = true → HeadReady (s.tile.q.get (nbr s.sel b) s.sel) s.now 0) :
    takeBit s yes b = .ok (if yes then mapQueue s (nbr s.sel b) s.sel (afterTake · s.now) else s) := by
  cases yes with
  | false => rfl
  | true =>
    obtain ⟨tk, e⟩ := take_ok (h rfl)
    rw [takeBit, if_pos rfl, e]; rfl

theorem putBit_ok (s : State) (yes b : Bool) (x : Slot) (h : yes = true → 1 ≤ (s.tile.q.get s.sel (nbr s.sel b)).free s.now) :
    putBit s yes b x = .ok (if yes then mapQueue s s.sel (nbr s.sel b) (afterPut · x) else s) := by
  cases yes with
  | false => rfl
  | true => simp [putBit, put_ok x (h rfl), mapQueue]

@[simp] theorem mapQueue_sel (s : State) (x y : CoreId) (f : Queue → Queue) : (mapQueue s x y f).sel = s.sel := rfl
@[simp] theorem mapQueue_now (s : State) (x y : CoreId) (f : Queue → Queue) : (mapQueue s x y f).now = s.now := rfl

/-- Queues of other cores are as they were. -/
theorem mapQueue_get (s : State) (x y u v : CoreId) (f : Queue → Queue) (h : (x, y) ≠ (u, v)) :
    (mapQueue s x y f).tile.q.get u v = s.tile.q.get u v := by
  cases x <;> cases y <;> cases u <;> cases v <;> first | rfl | exact absurd rfl h

/-- Takes and reservations that can be made are made. -/
theorem tokens_ok {s : State} {k : Tok} (x : Slot) (h : TokensReady s k) : tokens s k x = .ok (withTokens s k x) := by
  have ne (c : CoreId) : nbr c false ≠ nbr c true := by cases c <;> simp [nbr]
  have nf (c : CoreId) : nbr c false ≠ c := by cases c <;> simp [nbr]
  have nt (c : CoreId) : nbr c true ≠ c := by cases c <;> simp [nbr]
  unfold tokens withTokens
  rw [takeBit_ok s k.tka false h.tka]
  simp only [bind, Except.bind]
  rw [takeBit_ok _ k.tkb true (by
    intro e
    have := h.tkb e
    split
    · rw [mapQueue_get _ _ _ _ _ _ (by simp [ne])]; exact this
    · exact this)]
  simp only []
  rw [putBit_ok _ k.pta false x (by
    intro e
    have := h.pta e
    split <;> split <;> simp_all [mapQueue_get])]
  simp only []
  rw [putBit_ok _ k.ptb true x (by
    intro e
    have := h.ptb e
    split <;> split <;> split <;> simp_all [mapQueue_get])]

/-- A private instruction whose decode check, tokens and registers pass does what its body does, and retires. -/
theorem priv_ok {s : State} {k : Tok} {x : Slot} {dec : Act Unit} {rs : List GReg} {os : List Reg} {ws : List GReg}
    {body : State → Act State} {u : State} (hd : dec = .ok ()) (ht : TokensReady s k) (ha : Avail s rs os ws)
    (hb : body (withTokens s k x) = .ok u) : priv s k x dec rs os ws body = .next (u.retirePriv k.stall) := by
  simp only [priv, hd, tokens_ok x ht, hazards_ok ha, hb, bind, Except.bind, finish]

/-- Scratch bytes that can be reached pass the checks of an access. -/
theorem accessAt_ok {s : State} {base : GReg} {a : Word} {al n acc k : Nat} (h : Reach s base a al n acc k) :
    accessAt s base a al n acc = .ok k := by
  have st : base ≠ 2 ∨ s.core.stklim.toNat ≤ a.toNat := by
    by_cases e : base = 2
    · exact .inr (h.stack e)
    · exact .inl e
  simp only [accessAt, placeAt, check_true _ _ h.aligned, scratchAt, h.key, check_true _ _ st, pushed_ok h.pushed, bind, Except.bind]
  by_cases e : acc = 2
  · simp [cleanRead, e]
  · simp [cleanRead, e, clean, check_true _ _ (h.clean e)]

theorem slotAt_ok {s : State} {a : Word} {k : Nat} (h : SlotAt s a k) : slotAt s a = .ok k := by
  simp [slotAt, check_true _ _ h.aligned, scratchAt, h.key, pushed_ok h.pushed, clean, check_true _ _ h.clean, bind, Except.bind]

theorem slotLive_ok {s : State} {a k : Nat} (h : BarAt s a k) : slotLive s a = .ok k := by
  simp [slotLive, check_true _ _ h.aligned, scratchAt, h.key, check_true _ _ h.live, bind, Except.bind]

/-- A handle that passes the checks of R88. -/
theorem handleForm_ok {s : State} {h : Handle} {far own : Bool} (w : HandleOk s h far own) : handleForm s h far own = .ok () := by
  unfold handleForm
  have e : ¬(own = true ∧ Handle.sel h ≠ 0) := fun x => x.2 (w.here x.1)
  simp only [check_true _ _ w.form, check_true _ _ w.tag, check_true _ _ e, bind, Except.bind]
  split
  · rfl
  · rename_i ne
    obtain ⟨c, u, hc, hu, hf⟩ := w.unit ne
    simp [hc, hu, check_true _ _ hf]

theorem handleAligned_ok {h : Handle} (w : HandleAligned h) : handleAligned h = .ok () :=
  check_true _ _ ⟨w.base, w.str1, w.str2, w.str3⟩

theorem ctlCheck_ok {w used : Word} {c : GReg} (h : CtlOk w used c) : ctlCheck w used c = .ok () :=
  check_true _ _ ⟨h.reserved, h.scope, h.sb, h.paths, h.named⟩

theorem barriers_ok {s : State} {c : GReg} {w : Word} {b : Option Nat × Option Nat} (h : BarsOk s c w b) : barriers s c w = .ok b := by
  unfold barriers
  by_cases e : c = 0
  · simp [e, h.1 e]
  · obtain ⟨d, hd, h0, h1⟩ := h.2 e
    rw [if_neg e]
    by_cases z : ctlSb w = 0
    · simp [slotLive_ok hd, z, h0 z, bind, Except.bind]
    · obtain ⟨k, hk, hb⟩ := h1 z
      simp [slotLive_ok hd, z, slotLive_ok hk, hb, bind, Except.bind]

theorem bteEntry_ok {s : State} (h : BteRoom s) : bteEntry s = .ok () := by
  unfold bteEntry
  exact if_pos h

end Sys2Proof.Laws
end

