-- ==== Sys2Proof/Tests/Slice0.lean ====
section
/-! SUPPORT. Tests: decoding against words written out from the spec's encodings, ill-formed terms that the checks refuse, single steps
with results worked out from the rules by hand, and a witness for each statement with hypotheses. -/

namespace Sys2Proof.Tests

open Machine Laws

/-! ### Decoding -/

/-- Token bits 1, 0, 0, 1 and stall count 5 (R132: bits 24 to 18 are 1001101). -/
def tok : Tok := { tka := true, pta := false, tkb := false, ptb := true, stall := 5 }

/-- Every word of a list decodes on its core to the instruction beside it. -/
def decodes (l : List (CoreId × Word × Instr)) : Bool := l.all fun x => decide ((decode x.1 x.2.1).toOption = some x.2.2)

/-- Every row of integer arithmetic: bits from the row's encoding, each field at a value of its own. -/
theorem test_decode_integer_arithmetic : decodes [
    (.compute, 0x0054D800, .add 5 9 22), (.compute, 0x0054D801, .sub 5 9 22), (.compute, 0x0054D802, .and 5 9 22),
    (.compute, 0x0054D803, .or 5 9 22), (.compute, 0x0054D804, .xor 5 9 22), (.compute, 0x0054D805, .sll 5 9 22),
    (.compute, 0x0054D806, .srl 5 9 22), (.compute, 0x0054D807, .sra 5 9 22), (.compute, 0x0054D808, .slt 5 9 22),
    (.compute, 0x0054D809, .sltu 5 9 22), (.compute, 0x0054D80A, .min 5 9 22), (.compute, 0x0054D80B, .max 5 9 22),
    (.compute, 0x0054D80C, .minu 5 9 22), (.compute, 0x0054D80D, .maxu 5 9 22), (.compute, 0x0054D80E, .add1s 5 9 22),
    (.compute, 0x0054D80F, .add2s 5 9 22), (.compute, 0x0054D810, .add3s 5 9 22), (.compute, 0x0254D800, .mul 5 9 22),
    (.compute, 0x0254D801, .mulh 5 9 22), (.compute, 0x0254D802, .mulhu 5 9 22), (.compute, 0x0254D803, .mulhsu 5 9 22),
    (.compute, 0x0254D804, .div 5 9 22), (.compute, 0x0254D805, .divu 5 9 22), (.compute, 0x0254D806, .rem 5 9 22),
    (.compute, 0x0254D807, .remu 5 9 22), (.compute, 0x0454DA3C, .addi 5 9 23100), (.compute, 0x0654DA3C, .andi 5 9 23100),
    (.compute, 0x0854DA3C, .ori 5 9 23100), (.compute, 0x0A54DA3C, .xori 5 9 23100), (.compute, 0x0C54DA3C, .slti 5 9 23100),
    (.compute, 0x0E54DA3C, .sltiu 5 9 23100), (.compute, 0x10548013, .slli 5 9 19), (.compute, 0x10548033, .srli 5 9 19),
    (.compute, 0x10548053, .srai 5 9 19)] = true := by decide

/-- Every row of immediates and scratch access: bits from the row's encoding, each field at a value of its own. -/
theorem test_decode_immediates_and_scratch_access : decodes [
    (.compute, 0x125A5C3E, .lui 5 678974), (.compute, 0x145A5C3E, .auipc 5 678974), (.compute, 0x1654DA3C, .lb 5 9 23100),
    (.compute, 0x1854DA3C, .lbu 5 9 23100), (.compute, 0x1A54DA3C, .lh 5 9 23100), (.compute, 0x1C54DA3C, .lhu 5 9 23100),
    (.compute, 0x1E54DA3C, .lw 5 9 23100), (.compute, 0x2054DA3C, .sb 5 9 23100), (.compute, 0x2254DA3C, .sh 5 9 23100),
    (.compute, 0x2454DA3C, .sw 5 9 23100), (.compute, 0x2654DA3C, .lld 5 9 23100), (.compute, 0x2854DA3C, .sul 5 9 23100)] = true := by decide

/-- Every row of scratch atomics and control: bits from the row's encoding, each field at a value of its own. -/
theorem test_decode_scratch_atomics_and_control : decodes [
    (.compute, 0x2A54D800, .amoAdd 5 9 22), (.compute, 0x2A54D801, .amoMin 5 9 22), (.compute, 0x2A54D802, .amoMax 5 9 22),
    (.compute, 0x2A54D803, .amoAnd 5 9 22), (.compute, 0x2A54D804, .amoOr 5 9 22), (.compute, 0x2A54D805, .amoXor 5 9 22),
    (.compute, 0x2A54D806, .amoSwap 5 9 22), (.compute, 0x2A54D807, .amoCas 5 9 22), (.compute, 0x2C54DA3C, .beq 5 9 23100),
    (.compute, 0x2E54DA3C, .bne 5 9 23100), (.compute, 0x3054DA3C, .blt 5 9 23100), (.compute, 0x3254DA3C, .bge 5 9 23100),
    (.compute, 0x3454DA3C, .bltu 5 9 23100), (.compute, 0x3654DA3C, .bgeu 5 9 23100), (.compute, 0x385A5C3E, .jal 5 678974),
    (.compute, 0x3A54DA3C, .jalr 5 9 23100), (.compute, 0x3C501A3C, .loop 5 6716), (.compute, 0x3E0B553A, .loopi 725 314),
    (.compute, 0x40028000, .lbrk 5), (.compute, 0x40028001, .lbrkZ 5)] = true := by decide

/-- Every row of tokens, barriers, fences, CSRs and handles: bits from the row's encoding, each field at a value of its own. -/
theorem test_decode_tokens_barriers_fences_CSRs_and_handles : decodes [
    (.compute, 0x42001398, .qput 1 3 19), (.compute, 0x42029800, .qputReg 5 1), (.compute, 0x42503300, .qtake 5 1 3),
    (.compute, 0x4254B800, .qtakeReg 5 9 1), (.compute, 0x42505000, .qpeek 5 1), (.compute, 0x42507000, .qcount 5 1),
    (.compute, 0x4454D800, .barInit 5 9 22), (.compute, 0x4454D801, .barExpect 5 9 22), (.compute, 0x4454D809, .barExpectClr 5 9 22),
    (.compute, 0x44028002, .barArrive 5), (.compute, 0x4402A403, .barWait 5 9), (.compute, 0x4454D804, .barWaitchk 5 9 22),
    (.compute, 0x4454D805, .barTest 5 9 22), (.compute, 0x44028006, .barRetire 5), (.compute, 0x46000003, .fenceRel 3),
    (.compute, 0x4600000B, .fenceAcq 3), (.compute, 0x46000013, .fenceAr 3), (.compute, 0x46000018, .fenceAck), (.compute, 0x48000003, .hbar 3),
    (.compute, 0x4A500305, .csrR 5 773), (.compute, 0x4A549305, .csrW 5 9 773), (.compute, 0x4A54A305, .csrS 5 9 773),
    (.compute, 0x4A54B305, .csrC 5 9 773), (.compute, 0x4C328000, .hld 3 5), (.compute, 0x4C328001, .hst 3 5),
    (.compute, 0x4C301412, .hset 3 5 2), (.compute, 0x4C518013, .hget 5 3 2), (.compute, 0x4C350004, .hmov 3 10), (.compute, 0x50000000, .nop),
    (.compute, 0x50000001, .ecall), (.compute, 0x50000002, .ebreak), (.compute, 0x50000003, .done), (.compute, 0x50000004, .yield)] = true := by decide

/-- Every row of cop functions: bits from the row's encoding, each field at a value of its own. -/
theorem test_decode_cop_functions : decodes [
    (.compute, 0x4E54DA00, .allreduce 5 9 22 2), (.compute, 0x4E54DA01, .allgather 5 9 22 2), (.compute, 0x4E54DA02, .reducescatter 5 9 22 2),
    (.compute, 0x4E54DA03, .alltoall 5 9 22 2), (.compute, 0x4E54DA04, .bcast 5 9 22 2), (.compute, 0x4E54DA05, .cbar 5 9 22 2),
    (.compute, 0x4E54DA06, .cstat 5 9 22 2), (.compute, 0x4E54DA20, .ptabSet 5 9 22 2), (.compute, 0x4E54DA21, .ptabGet 5 9 22 2),
    (.compute, 0x4E54DA22, .placeConv 5 9 22 2), (.compute, 0x4E54DA23, .meshSet 5 9 22 2), (.compute, 0x4E54DA30, .rsPlan 5 9 22 2),
    (.compute, 0x4E54DA31, .rsStart 5 9 22 2), (.compute, 0x4E54DA32, .rsResume 5 9 22 2), (.compute, 0x4E54DA33, .rsStatus 5 9 22 2),
    (.compute, 0x4E54DA34, .rsAbort 5 9 22 2), (.compute, 0x4E54DA40, .futInit 5 9 22 2), (.compute, 0x4E54DA41, .futResolve 5 9 22 2),
    (.compute, 0x4E54DA42, .futReg 5 9 22 2), (.compute, 0x4E54DA43, .futPoison 5 9 22 2), (.compute, 0x4E54DA44, .futRead 5 9 22 2),
    (.compute, 0x4E54DA50, .ctxCreate 5 9 22 2), (.compute, 0x4E54DA51, .ctxGrant 5 9 22 2), (.compute, 0x4E54DA52, .ctxRevoke 5 9 22 2),
    (.compute, 0x4E54DA53, .ctxDestroy 5 9 22 2), (.compute, 0x4E54DA54, .ctxBudget 5 9 22 2), (.compute, 0x4E54DA55, .ctxKey 5 9 22 2),
    (.compute, 0x4E54DA56, .ctxScrub 5 9 22 2), (.compute, 0x4E54DA57, .ctxReceipt 5 9 22 2), (.compute, 0x4E54DA60, .nodeLaunch 5 9 22 2),
    (.compute, 0x4E54DA61, .nodeStatus 5 9 22 2), (.compute, 0x4E54DA68, .logArm 5 9 22 2), (.compute, 0x4E54DA69, .logRead 5 9 22 2),
    (.compute, 0x4E54DA6A, .timeRead 5 9 22 2)] = true := by decide

/-- Every row of the transfer map: bits from the row's encoding, each field at a value of its own. -/
theorem test_decode_the_transfer_map : decodes [
    (.load, 0x8134E8A9, .dmaLd tok 3 10 5 9), (.load, 0x8334E8A9, .dmaSt tok 3 10 5 9), (.load, 0x8534E8A3, .dmaCp tok 3 10 5 3),
    (.load, 0x8534E8B9, .dmaCpMc tok 3 10 5 9), (.load, 0x8734E8A6, .dmaIx tok 3 10 5 3), (.load, 0x8934E8A6, .dmaSx tok 3 10 5 3),
    (.load, 0x8B34E8A6, .dmaRd tok 3 10 5 3), (.load, 0x8D34E8A6, .dmaWr tok 3 10 5 3), (.load, 0x8F34A64B, .stRel tok 5 3 9 3),
    (.load, 0x9134A64B, .ldAcq tok 5 3 9 3), (.load, 0x9334A648, .ratAdd tok 5 3 9), (.load, 0x9334A649, .ratMin tok 5 3 9),
    (.load, 0x9334A64A, .ratMax tok 5 3 9), (.load, 0x9334A64B, .ratAnd tok 5 3 9), (.load, 0x9334A64C, .ratOr tok 5 3 9),
    (.load, 0x9334A64D, .ratXor tok 5 3 9), (.load, 0x9334A64E, .ratSwap tok 5 3 9), (.load, 0x9334A64F, .ratCas tok 5 3 9),
    (.load, 0x9534E8A6, .rvat tok 3 10 5 3), (.load, 0x9734C0A6, .ldPlace tok 3 5 3), (.load, 0x99340CA6, .stPlace tok 3 5 3),
    (.load, 0x9B34A000, .dmaProg tok 5), (.load, 0x9B34A9B1, .dmaProgRec tok 5 9 22)] = true := by decide

/-- Every row of vector arithmetic: bits from the row's encoding, each field at a value of its own. -/
theorem test_decode_vector_arithmetic : decodes [
    (.compute, 0x81347529, .vadd tok 7 20 41), (.compute, 0x83347529, .vsub tok 7 20 41), (.compute, 0x85347529, .vmul tok 7 20 41),
    (.compute, 0x87347529, .vmin tok 7 20 41), (.compute, 0x89347529, .vmax tok 7 20 41), (.compute, 0x8B347500, .vabs tok 7 20),
    (.compute, 0x8D347500, .vneg tok 7 20), (.compute, 0x8F347529, .vand tok 7 20 41), (.compute, 0x91347529, .vor tok 7 20 41),
    (.compute, 0x93347529, .vxor tok 7 20 41), (.compute, 0x95347500, .vnot tok 7 20), (.compute, 0x97347529, .vsll tok 7 20 41),
    (.compute, 0x99347529, .vsrl tok 7 20 41), (.compute, 0x9B347529, .vsra tok 7 20 41), (.compute, 0x9D347500, .vclz tok 7 20),
    (.compute, 0x9F347500, .vpopc tok 7 20), (.compute, 0xA13431D4, .vcmpEq tok 3 7 20), (.compute, 0xA134B1D4, .vcmpNe tok 3 7 20),
    (.compute, 0xA13531D4, .vcmpLt tok 3 7 20), (.compute, 0xA135B1D4, .vcmpLe tok 3 7 20), (.compute, 0xA13631D4, .vcmpGt tok 3 7 20),
    (.compute, 0xA136B1D4, .vcmpGe tok 3 7 20), (.compute, 0xA3347500, .vredsum tok 7 20), (.compute, 0xA5347500, .vredmax tok 7 20),
    (.compute, 0xA7347500, .vredmin tok 7 20)] = true := by decide

/-- Every row of vector permutes and memory: bits from the row's encoding, each field at a value of its own. -/
theorem test_decode_vector_permutes_and_memory : decodes [
    (.compute, 0xA9347529, .vperm tok 7 20 41), (.compute, 0xAB347505, .vbcast tok 7 20 5), (.compute, 0xAB3470A5, .vbcastG tok 7 2 5),
    (.compute, 0xAD347505, .vslideDn tok 7 20 5), (.compute, 0xAD347525, .vslideUp tok 7 20 5), (.compute, 0xAF347529, .vzip tok 7 20 41),
    (.compute, 0xB1347529, .vunzip tok 7 20 41), (.compute, 0xB3347502, .vcvt tok 7 20 2), (.compute, 0xB5347500, .vmov tok 7 20),
    (.compute, 0xB7347005, .vrdacc tok 7 5), (.compute, 0xC1347529, .vfma tok 7 20 41), (.compute, 0xC3347529, .vfsh tok 7 20 41),
    (.compute, 0xC5347529, .vmac tok 7 20 41), (.compute, 0xC7347503, .vsel tok 7 20 3), (.compute, 0xD1347162, .vld tok 7 5 2 2),
    (.compute, 0xD1347160, .vldTg tok 7 5 2), (.compute, 0xD3347160, .vst tok 7 5 2), (.compute, 0xD3347161, .vstTg tok 7 5 2),
    (.compute, 0xD5347149, .vstm tok 7 5 9), (.compute, 0xD7347154, .vldx tok 7 5 20)] = true := by decide

/-- Every row of matrix and scalar floating point: bits from the row's encoding, each field at a value of its own. -/
theorem test_decode_matrix_and_scalar_floating_point : decodes [
    (.compute, 0xE13400CA, .mma tok 3 10), (.compute, 0xE33470CA, .mmaGx tok 7 3 10), (.compute, 0xE5340000, .rzero tok),
    (.compute, 0xE7340000, .rnext tok), (.compute, 0xE9343149, .epi tok 3 5 9), (.compute, 0xEB3401C0, .mscaleRow tok 7),
    (.compute, 0xEB3411C0, .mscaleCol tok 7), (.compute, 0xED345256, .fadd tok 5 9 22), (.compute, 0xEF345256, .fsub tok 5 9 22),
    (.compute, 0xF1345256, .fmul tok 5 9 22), (.compute, 0xF3345256, .ffma tok 5 9 22), (.compute, 0xF5345256, .fmin tok 5 9 22),
    (.compute, 0xF5345A56, .fmax tok 5 9 22), (.compute, 0xF5365256, .fcmp tok 5 9 22), (.compute, 0xF7345256, .fdiv tok 5 9 22),
    (.compute, 0xF7345A40, .fsqrt tok 5 9), (.compute, 0xF7365240, .fcvtWS tok 5 9), (.compute, 0xF7365241, .fcvtWuS tok 5 9),
    (.compute, 0xF7365242, .fcvtSW tok 5 9), (.compute, 0xF7365243, .fcvtSWu tok 5 9), (.compute, 0xF7365244, .fcvtBfS tok 5 9),
    (.compute, 0xF7365245, .fcvtSBf tok 5 9), (.compute, 0xF7365246, .fcvtHS tok 5 9), (.compute, 0xF7365247, .fcvtSH tok 5 9)] = true := by decide

/-- Every row of predicates and ports: bits from the row's encoding, each field at a value of its own. -/
theorem test_decode_predicates_and_ports : decodes [
    (.compute, 0xF9343181, .pand tok 3 6 1), (.compute, 0xF9343381, .por tok 3 6 1), (.compute, 0xF9343580, .pnot tok 3 6),
    (.compute, 0xF9343780, .pmov tok 3 6), (.compute, 0xF93478C0, .ppack tok 7 3), (.compute, 0xF9343A07, .punpack tok 3 7),
    (.compute, 0xFB340028, .valloc tok 40), (.compute, 0xFB341028, .vshrink tok 40), (.compute, 0xFD37C149, .pcfg tok 60 5 9)] = true := by decide

/-- Reserved words: each check of R127 refuses, under its own name. -/
theorem test_decode_reserved :
    ([(.load, 0x0000_0011), (.load, 0x0000_0020), (.load, 0x5200_0000), (.load, 0x4400_0010), (.load, 0x4E00_0045), (.load, 0x4E00_0344),
      (.load, 0x4E50_0044), (.load, 0x4600_0005), (.load, 0x3C00_4000), (.load, 0x3E00_0000), (.load, 0x8600_0000), (.load, 0x9C00_0000),
      (.compute, 0x8003_8000), (.compute, 0xB200_000B), (.compute, 0xFA00_0009), (.compute, 0xFC00_0000), (.compute, 0x8A00_0001)]
      : List (CoreId × Word)).map (fun x => match decode x.1 x.2 with | .ok _ => none | .error e => some e) =
    [some .field, some .field, some .op, some .field, some .fn7, some .mode, some .mode, some .scope, some .offset, some .offset, some .pair,
      some .op, some .vcode, some .tag, some .count, some .port, some .field] := by decide

/-! ### Well-formedness: an ill-formed term for each check -/

theorem test_ill_formed_field : illFormed (.hset 1 2 13) = some .field ∧ illFormed (.hget 1 2 15) = some .field := by decide
theorem test_ill_formed_mode : illFormed (.cbar 0 4 5 3) = some .mode ∧ illFormed (.cbar 4 5 6 0) = some .mode := by decide
theorem test_ill_formed_scope : illFormed (.fenceRel 5) = some .scope ∧ illFormed (.hbar 7) = some .scope := by decide
theorem test_ill_formed_offset : illFormed (.loop 4 0) = some .offset ∧ illFormed (.loop 4 (-1)) = some .offset ∧ illFormed (.loopi 3 0) = some .offset := by
  decide
theorem test_ill_formed_pair : illFormed (.dmaIx tok 1 2 3 0) = some .pair ∧ illFormed (.stRel tok 1 0 3 4) = some .pair := by decide
theorem test_ill_formed_vcode : illFormed (.vadd tok 56 1 2) = some .vcode ∧ illFormed (.vadd tok 1 60 2) = some .vcode ∧
    illFormed (.vfma tok 60 1 2) = some .vcode := by decide
theorem test_ill_formed_tag : illFormed (.vcvt tok 1 2 0) = some .tag ∧ illFormed (.vld tok 1 2 0 11) = some .tag := by decide
theorem test_ill_formed_count : illFormed (.valloc tok 0) = some .count ∧ illFormed (.vshrink tok 12) = some .count := by decide
theorem test_ill_formed_port : illFormed (.pcfg tok 55 1 2) = some .port ∧ illFormed (.pcfg tok 62 1 2) = some .port := by decide
theorem test_well_formed : wellFormed (.vadd tok 61 59 62) = true ∧ wellFormed (.valloc tok 56) = true ∧ wellFormed (.loop 4 1) = true := by decide

/-! ### States to test on -/

/-- A resident task at the first word of its code, with the turn on core c and the registers gs; every other register zero. -/
def ready (c : CoreId) (gs : List (GReg × Word) := []) : State := gs.foldl (fun s x => s.putG x.1 x.2) (State.reset.placeWord c 0)

/-- A state with an event's operand. -/
def ev (s : State) (a : EvArg) : State := { s with arg := a }

/-- Where nothing is interlocked, early or in error, every register is available. -/
theorem avail {s : State} {rs : List GReg} {os : List Reg} {ws : List GReg}
    (h : s.core.pend = [] ∧ s.core.dead = [] ∧ s.core.checkstall = false ∧ s.core.bad = []) : Avail s rs os ws := by
  obtain ⟨a, b, c, d⟩ := h
  exact ⟨by simp [a, b], by simp [a], by simp [c], by simp [d]⟩

/-- The same of an instruction that may wait after its issue, at its first try. -/
theorem issued {s : State} {rs ws : List GReg}
    (h : s.core.pend = [] ∧ s.core.dead = [] ∧ s.core.checkstall = false ∧ s.core.bad = []) : AvailIssued s rs ws :=
  ⟨fun _ => avail h, by simp [h.1]⟩

/-- Checks that pass, by evaluation. -/
theorem passes {x : Act Unit} (h : x.toBool = true) : x = .ok () := by cases x with | error e => cases h | ok u => rfl

/-- With no token bit set the tokens are ready. -/
theorem no_tokens {s : State} {k : Tok} (h : k = { tka := false, pta := false, tkb := false, ptb := false, stall := k.stall }) : TokensReady s k := by
  rw [h]
  exact ⟨nofun, nofun, nofun, nofun⟩

/-- No token bit, stall count 0. -/
def quiet : Tok := { tka := false, pta := false, tkb := false, ptb := false, stall := 0 }

/-- The next state of an instruction or event, where a check on it holds. -/
def then_ (o : Host.Outcome State Fault Refusal) (f : State → Bool) : Bool :=
  match o with
  | .next t => f t
  | .fault _ => false
  | .refused _ => false

/-! ### Witnesses: integer arithmetic, control, registers -/

theorem witness_IntegerArithmetic :
    Avail (ready .load [(5, 7), (6, 3)]) [5, 6] [] [4] ∧ (ready .load [(5, 7)]).g 6 = 0 ∧
    ((ready .load [(5, 0x80000000), (6, 0xFFFFFFFF)]).g 5 = 0x80000000 ∧ (ready .load [(5, 0x80000000), (6, 0xFFFFFFFF)]).g 6 = 0xFFFFFFFF) ∧
    ((ready .load [(5, 7), (6, 3)]).g 6 ≠ 0 ∧ ¬((ready .load [(5, 7), (6, 3)]).g 5 = 0x80000000 ∧ (ready .load [(5, 7), (6, 3)]).g 6 = 0xFFFFFFFF)) ∧
    Avail (ready .store [(5, 7)]) [5] [] [0] ∧ Avail (ready .compute) [] [] [31] :=
  ⟨avail (by decide), by decide, by decide, by decide, avail (by decide), avail (by decide)⟩

/-- A core with n loop frames, the innermost first. -/
def loops (s : State) (l : List LoopFrame) : State := s.setCore { s.core with loops := l }

theorem witness_ControlFlow :
    (Avail (ready .load [(5, 7)]) [5, 6] [] [] ∧ Avail (ready .load) [] [] [1] ∧ Avail (ready .load) [5] [] [0]) ∧
    (Avail (ready .load) [5] [] [] ∧ (ready .load).g 5 = 0) ∧
    ((ready .load [(5, 1)]).g 5 ≠ 0 ∧ (loops (ready .load [(5, 1)]) (List.replicate 3 ⟨0x10000, 0x10010, 2⟩)).core.loops.length < 4) ∧
    (Avail (loops (ready .load [(5, 1)]) (List.replicate 4 ⟨0x10000, 0x10010, 2⟩)) [5] [] [] ∧
      (loops (ready .load [(5, 1)]) (List.replicate 4 ⟨0x10000, 0x10010, 2⟩)).core.loops.length = 4) ∧
    (loops (ready .load) [⟨0x10000, 0x10010, 2⟩]).core.loops = ⟨0x10000, 0x10010, 2⟩ :: [] :=
  ⟨⟨avail (by decide), avail (by decide), avail (by decide)⟩, ⟨avail (by decide), by decide⟩, by decide, ⟨avail (by decide), by decide⟩, by decide⟩

theorem witness_RetirementAndBackEdge :
    let f (n : Word) : LoopFrame := ⟨0x10000, 0x10000, n⟩
    let g : LoopFrame := ⟨0x10000, 0x10010, 2⟩
    let at_ (l : List LoopFrame) : State := loops (ready .load) l
    ((at_ [f 2]).core.loops = f 2 :: [] ∧ (f 2).stop = (at_ [f 2]).core.pc ∧ 1 < (f 2).count.toNat) ∧
    ((at_ [f 1, g]).core.loops = f 1 :: [g] ∧ (f 1).stop = (at_ [f 1, g]).core.pc ∧ (f 1).count.toNat ≤ 1 ∧ g.stop ≠ (at_ [f 1, g]).core.pc) ∧
    ((at_ [f 1, f 2]).core.loops = f 1 :: f 2 :: [] ∧ (f 2).stop = (at_ [f 1, f 2]).core.pc ∧ 1 < (f 2).count.toNat) ∧
    ((at_ [g]).core.loops = [g] ∧ g.stop ≠ (at_ [g]).core.pc) := by decide

theorem witness_RegisterFiles : (5 : GReg) ≠ 0 ∧ (6 : GReg) ≠ 5 ∧ (255 : Nat) < 256 ∧ (3 : HReg) ≠ 2 := by decide

/-! ### Witnesses: scratch, locks, tokens, barriers -/

/-- Scratch of the tile that holds the task. -/
def mem0 : Nat := tileKey 0

theorem reach {s : State} {base : GReg} {a : Word} {al n acc k : Nat}
    (h : a.toNat % al = 0 ∧ scratchKey s a.toNat n = some k ∧ base ≠ 2 ∧ s.poisoned k n = false ∧ s.tile.pushes = []) :
    Reach s base a al n acc k :=
  ⟨h.1, h.2.1, fun e => absurd e h.2.2.1, fun _ => by simp [h.2.2.2.2], fun _ => h.2.2.2.1⟩

theorem slotAt {s : State} {a : Word} {k : Nat}
    (h : a.toNat % 16 = 0 ∧ scratchKey s a.toNat 16 = some k ∧ s.poisoned k 16 = false ∧ s.tile.pushes = []) : SlotAt s a k :=
  ⟨h.1, h.2.1, fun _ => by simp [h.2.2.2], h.2.2.1⟩

theorem witness_ScalarLoadsAndStores :
    let s := ready .load [(5, 0x1FFFFC)]
    Avail s [5] [] [4] ∧ Reach s 5 0x1FFFFF 1 1 1 (mem0 + 0x1FFFFF) ∧ Reach s 5 0x1FFFFE 2 2 1 (mem0 + 0x1FFFFE) ∧
    Reach s 5 0x1FFFFC 4 4 1 (mem0 + 0x1FFFFC) ∧ Avail s [4, 5] [] [] ∧ Reach s 5 0x1FFFFF 1 1 2 (mem0 + 0x1FFFFF) ∧
    Reach s 5 0x1FFFFE 2 2 2 (mem0 + 0x1FFFFE) ∧ Reach s 5 0x1FFFFC 4 4 2 (mem0 + 0x1FFFFC) ∧ (∀ b ∈ s.bars, mem0 + 4 ≤ b ∨ b + 16 ≤ mem0) :=
  ⟨avail (by decide), reach (by decide), reach (by decide), reach (by decide), avail (by decide), reach (by decide), reach (by decide),
    reach (by decide), by decide⟩

theorem witness_ScalarAccessFaults :
    (Avail (ready .load [(5, 2)]) [5] [] [4] ∧ AvailIssued (ready .load [(5, 2)]) [5] [4] ∧ (ready .load [(5, 2)]).opd 5 = 2 ∧
      Avail (ready .load [(5, 2)]) [4, 5] [] [] ∧ ((ready .load [(5, 2)]).g 5).toNat % 4 ≠ 0) ∧
    (((ready .load [(5, 0x200000)]).g 5).toNat % 4 = 0 ∧ scratchKey (ready .load [(5, 0x200000)]) 0x200000 4 = none) ∧
    (let s := (ready .load [(2, 0xFC)]).setCore { (ready .load [(2, 0xFC)]).core with stklim := 0x100 }
     scratchKey s 0xFC 4 ≠ none ∧ 0xFC < s.core.stklim.toNat) :=
  ⟨⟨avail (by decide), issued (by decide), by decide, avail (by decide), by decide⟩, by decide, by decide⟩

/-- The lock bit of scratch word 0, held by a core. -/
def held (c : CoreId) : Lock := { bank := mem0, bit := 0, tile := 0, core := c, since := 0 }

theorem witness_LocksAndScratchAtomics :
    let s := ready .load [(5, 0)]
    let t : State := { s with locks := [held .load] }
    let u : State := { s with locks := [held .store] }
    let l := lockOf mem0
    (AvailIssued s [5] [4] ∧ Reach s 5 0 4 4 1 mem0 ∧ s.heldLock = none ∧ s.lockBlocked l = false ∧ Settled s) ∧
    (let w := u.parkIssued [5, 6] .other
     AvailIssued w [5, 6] [4] ∧ w.core.latch ≠ [] ∧ w.opd 5 = 0 ∧ Reach w 5 0 4 4 4 mem0 ∧ w.lockBlocked l = true) ∧
    (AvailIssued u [5, 6] [4] ∧ Reach u 5 0 4 4 4 mem0 ∧ Reach u 5 0 4 4 1 mem0 ∧ u.heldLock = none ∧ u.lockBlocked l = true) ∧
    (Avail t [4, 5] [] [] ∧ Reach t 5 0 4 4 2 mem0 ∧ t.heldLock = some (held .load) ∧ ((held .load).bank, (held .load).bit) = l ∧
      t.core.lost = false ∧ t.lockBlocked l = false) ∧
    (∀ x, s.heldLock = some x → (x.bank, x.bit) ≠ l) ∧
    (let v := s.setCore { s.core with lost := true }
     Avail v [4, 5] [] [] ∧ Reach v 5 0 4 4 2 mem0 ∧ v.core.lost = true) ∧ AvailIssued s [5, 6, 4] [4] :=
  ⟨⟨issued (by decide), reach (by decide), by decide, by decide, nofun⟩, ⟨issued (by decide), by decide, by decide, reach (by decide), by decide⟩,
    ⟨issued (by decide), reach (by decide), reach (by decide), by decide, by decide⟩,
    ⟨avail (by decide), reach (by decide), by decide, by decide, by decide, by decide⟩, (by intro x h; exact nomatch (show none = some x from h)),
    ⟨avail (by decide), reach (by decide), by decide⟩, issued (by decide)⟩

/-- The queue from the load core to the compute core with given slots. -/
def queued (s : State) (l : List Slot) : State := s.setTile { s.tile with q := { s.tile.q with lc := { slots := l } } }

/-- A later cycle. -/
def later (s : State) (n : Nat) : State := { s with now := n }

theorem witness_TokenInstructions :
    let s := ready .compute [(5, 0)]
    let q (l : List Slot) := ((later (queued s l) 1).tile.q.get .load .compute).slots
    (Avail (queued s []) [] [] [] ∧ Avail (queued s []) [5] [] [4] ∧ 1 ≤ ((ready .load).tile.q.get .load .compute).free 0) ∧
    ((queued (ready .load) (List.replicate 16 (.pending (.mma 0)))).tile.q.get .load .compute).free 0 = 0 ∧
    (q [.filled 0x21 0] = .filled 0x21 0 :: [] ∧ 0 < (later s 1).now ∧ tokenClass 0x21 = 1) ∧
    (q [.filled 0x21 1] = .filled 0x21 1 :: [] ∧ (later s 1).now ≤ 1) ∧
    q [.poisoned (.mma 0) { cls := .memError }] = .poisoned (.mma 0) { cls := .memError } :: [] ∧
    q [.pending (.mma 0)] = .pending (.mma 0) :: [] ∧ q [] = [] :=
  ⟨⟨avail (by decide), avail (by decide), by decide⟩, by decide, by decide, by decide, by decide, by decide, by decide⟩

theorem witness_BarrierSlots :
    let x : Bar := { phase := false, err := false, live := true, isOpen := true, ecode := 0, pend := 1, bytes := 4, chunk := 0 }
    (65535 < 2 ^ 16 ∧ 2 ^ 16 ≤ 65536) ∧ (x.pend + 65534 < 2 ^ 16 ∧ x.bytes + 5 < 2 ^ 32) ∧ 2 ^ 16 ≤ x.pend + 65535 ∧
    2 ^ 32 ≤ x.bytes + (2 ^ 32 - 4) ∧ ({ x with pend := 0 } : Bar).pend = 0 ∧ 0 < x.pend ∧ x.bytes < 5 ∧ 4 ≤ x.bytes ∧
    (x.ecode < 8 ∧ x.pend < 2 ^ 16 ∧ x.bytes < 2 ^ 32) := by decide

/-- A state with a slot at scratch address 0. -/
def slot0 (s : State) (b : Bar) : State := { s.putBar mem0 b with bars := if b.live then [mem0] else [] }

/-- A slot that waits for one arrival. -/
def open1 : Bar := { phase := false, err := false, live := true, isOpen := true, ecode := 0, pend := 1, bytes := 0, chunk := 1 }

/-- A port push of the compute stream that has not landed. -/
def pushing (s : State) : State := s.setTile { s.tile with pushes := [{ at_ := 9, key := mem0 + 4096, val := 0 }] }

/-- An operation that names the slot at scratch address 0. -/
def naming0 : Op where
  core := .load
  seq := 0
  opc := 0
  kind := .copy
  hd := 0
  hs := 0
  dbar := some mem0
  sbar := none
  pc := 0
  done := 0
  total := 1
  running := true
  fault := none
  reported := false
  broken := false
  credited := 0
  acked := []
  srcDone := false
  paths := []
  precise := false
  remote := none
  recv := 0
  ask := none
  granted := false
  free := none

theorem witness_BarrierInstructions :
    let s (b : Bar) := slot0 (ready .load [(5, 0), (6, 1), (7, 0)]) b
    (SlotAt (s open1) ((s open1).g 5) mem0 ∧ SlotAt (s open1) ((s open1).opd 5) mem0 ∧ Avail (s open1) [5] [] [] ∧ Settled (s open1) ∧
      ((s open1).bar mem0).live = true ∧ ((s open1).bar mem0).err = false ∧ (s open1).core.wait ≠ .barGone) ∧
    (let t := pushing (slot0 (ready .compute [(5, 0)]) open1)
     t.sel = .compute ∧ t.tile.pushes ≠ [] ∧ t.tile.pushes.any (fun p => decide (p.key < mem0 + 16 ∧ mem0 < p.key + 256)) = false ∧
       (t.bar mem0).live = true) ∧
    (let t := (s open1).parkIssued [7, 5, 6] (.bar mem0 true)
     AvailIssued t [7, 5, 6] [] ∧ t.core.latch ≠ [] ∧ t.opd 6 = 1 ∧ SlotAt t (t.opd 5) mem0) ∧
    ((s open1).park .barGone).core.wait = .barGone ∧
    ((s { open1 with live := false }).bar mem0).live = false ∧ ((s { open1 with err := true }).bar mem0).err = true ∧
    (AvailIssued (s open1) [7, 5, 6] [] ∧ ((s open1).bar mem0).chunk &&& ((s open1).g 7 ++ (s open1).g 6) = (s open1).g 7 ++ (s open1).g 6) ∧
    (¬(((s open1).bar mem0).chunk &&& ((s open1).g 6 ++ (s open1).g 6) = (s open1).g 6 ++ (s open1).g 6)) ∧
    (((s open1).bar mem0).phase ≠ ((s open1).g 6).getLsbD 0 ∧ ¬((s open1).bar mem0).phase ≠ ((s open1).g 7).getLsbD 0) ∧
    ((s open1).tile.naming mem0 = [] ∧ (∀ r ∈ (s open1).reqs, r.tid ≠ (s open1).tile.task.id ∨ (r.dbar ≠ some mem0 ∧ r.sbar ≠ some mem0))) ∧
    (let t := (s open1).setTile { (s open1).tile with ops := [naming0] }
     (∃ p ∈ t.tile.naming mem0, p.fault = none) ∧ ∀ p ∈ t.tile.naming mem0, p.fault = none ∨ p.reported = true) :=
  ⟨⟨slotAt (by decide), slotAt (by decide), avail (by decide), nofun, by decide, by decide, by decide⟩, by decide,
    ⟨issued (by decide), by decide, by decide, slotAt (by decide)⟩, by decide, by decide, by decide, ⟨issued (by decide), by decide⟩, by decide,
    by decide, by decide, by decide⟩

/-! ### Witnesses: fences, CSRs, handles, traps -/

/-- A remote write of a core of task 0 on tile 0, not yet acknowledged. -/
def sent (c : CoreId) : Sent where
  pkt := { type := 0, vlane := 0, src := 0, dst := 5, stile := 0, score := 0, ogrp := 0, path := 0, len := 4, addr := 0, ctx := 0, sctx := 0
           rop := 0, operand := 0, compare := 0, counts := [], status := 0, id := 0, data := [] }
  tid := 0
  tile := 0
  core := c
  own := .rel
  write := true

/-- A fault that waits for the stream's report point. -/
def waiting (s : State) : State := s.setCore { s.core with late := [{ cls := .xlateNone }] }

theorem witness_FencesAndHardwareBarriers :
    let s := ready .load
    let none_ : Sent → Bool := fun _ => false
    let t : State := { s with unacked := [sent .load] }
    let b := s.setCore { s.core with relBad := some { cls := .ordBroken } }
    let g := s.setTile { s.tile with task := { s.tile.task with gang := true } }
    (Avail s [] [] [] ∧ s.tile.unreported .load = none ∧ s.core.relBad = none ∧ s.podCovered none_ (fun _ => false) = true ∧ s.ownRemote = false) ∧
    (Avail t [] [] [] ∧ t.tile.unreported .load = none ∧ t.core.relBad = none ∧ t.podCovered none_ (fun _ => false) = false ∧ t.ownRemote = true) ∧
    (Avail b [] [] [] ∧ b.core.relBad = some { cls := .ordBroken }) ∧
    (Avail (waiting s) [] [] [] ∧ (waiting s).tile.unreported .load = some { cls := .xlateNone }) ∧
    (s.tile.task.gang = false ∧ g.tile.task.gang = true ∧ g.core.hbarIn = none ∧
      ((g.relDone.hbarArrive 4).hbarTell 4).hbarComplete 4 = true ∧ ((s.relDone.hbarArrive 0).hbarTell 0).hbarComplete 0 = false ∧
      (let d := s.setTile (s.tile.mapCores fun c => { c with fin := true })
       ((d.relDone.hbarArrive 0).hbarTell 0).hbarComplete 0 = true)) ∧
    (let t := { g with unacked := [sent .load] }
     t.core.hbarIn = none ∧ t.podCovered none_ (fun _ => false) = false) ∧
    (Settled s ∧ ¬Settled (pushing (ready .compute)) ∧ (pushing (ready .compute)).core.relBad = none ∧
      (pushing (ready .compute)).tile.unreported .compute = none) :=
  ⟨⟨avail (by decide), by decide⟩, ⟨avail (by decide), by decide⟩, ⟨avail (by decide), by decide⟩, ⟨avail (by decide), by decide⟩, by decide, by decide,
    nofun, fun h => absurd (h rfl) (by decide), by decide, by decide⟩

theorem witness_CsrInstructions :
    (Avail (ready .compute [(5, 3)]) [] [] [4] ∧ Avail (ready .compute [(5, 3)]) [5] [] [4] ∧ (ready .compute).sel = .compute ∧
      (0x0C2 : BitVec 12).toNat = 0x0C2 ∧ (5 : GReg) ≠ 0) ∧
    ¬(ready .load).sel = .compute ∧ (0 : Nat) = (0x10 : Word).toNat % 16 ∧ 8 < (9 : Word).toNat % 16 ∧ Rm.code .rne = (8 : Word).toNat % 8 :=
  ⟨⟨avail (by decide), avail (by decide), by decide⟩, by decide⟩

/-- A handle: FMT, LEVEL, BASE, EXT0, EXT1; the other extents 1, the strides 0. -/
def handle (fmt level base n0 n1 : Nat) : Handle :=
  BitVec.ofNat 256 (base + level * 2 ^ 48 + fmt * 2 ^ 50 + n0 * 2 ^ 54 + n1 * 2 ^ 70 + 2 ^ 86 + 2 ^ 102)

/-- Handles put in registers. -/
def handles (s : State) (l : List (HReg × Handle)) : State := l.foldl (fun s x => s.putH x.1 x.2) s

theorem witness_HandleInstructions :
    let s := handles (ready .compute [(5, 0x100)]) [(1, handle 3 0 0 16 1)]
    let f := (mem0 : Nat) + 0x100
    let l := s.setTile { s.tile with mmas := [{ id := 0, a := none, b := 1, ha := 0, hb := 0, slot := 0, steps := 0, gather := false, lanes := 0 }] }
    (Avail s [5] [] [] ∧ Reach s 5 0x100 32 32 1 f ∧ (fld 50 4 (BitVec.ofNat 256 (leNat (Mem.readRange s.mem f 32))) : BitVec 4).toNat ≤ 10 ∧
      ¬(s.sel = .compute ∧ s.tile.locked 1 = true)) ∧
    (l.sel = .compute ∧ l.tile.locked 1 = true) ∧
    10 < (fld 50 4 (BitVec.ofNat 256 (leNat (Mem.readRange (s.writeNat f 32 (11 * 2 ^ 50)).mem f 32))) : BitVec 4).toNat ∧
    (Reach s 5 0x100 32 32 2 f ∧ Reg.h 1 ∉ s.core.bad) ∧ (10 < ((ready .load [(5, 0xFB)]).g 5).toNat % 16 ∧ ¬10 < ((ready .load [(5, 0xFA)]).g 5).toNat % 16) ∧
    Avail s [] [] [4] ∧ Avail s [] [] [] :=
  ⟨⟨avail (by decide), reach (by decide), by decide, by decide⟩, by decide, by decide, ⟨reach (by decide), by decide⟩, by decide, avail (by decide),
    avail (by decide)⟩

theorem witness_SystemInstructions :
    let s := ready .load
    (Avail s [] [] [] ∧ s.tile.unreported .load = none ∧ Settled s ∧ s.tile.task.gang = false ∧ (∃ c, c ≠ s.sel ∧ (s.tile.core c).fin = false)) ∧
    (Avail (pushing (ready .compute)) [] [] [] ∧ (pushing (ready .compute)).tile.unreported .compute = none ∧ ¬Settled (pushing (ready .compute))) ∧
    (Avail (waiting s) [] [] [] ∧ (waiting s).tile.unreported .load = some { cls := .xlateNone }) :=
  ⟨⟨avail (by decide), by decide, nofun, by decide, .compute, by decide⟩, ⟨avail (by decide), by decide, fun h => absurd (h rfl) (by decide)⟩,
    avail (by decide), by decide⟩

theorem witness_TakingATrap :
    let s := (ready .load).takeTrap (some .load) { cls := .brk }
    s.tile.stop = some { trap := { cls := .brk }, core := some .load, captured := false } ∧ (ready .load).tile.stop = none := by decide

/-! ### Witnesses: cop requests -/

theorem copReady {s : State} {d a b : GReg} {m : BitVec 2} (n : Nat) (k : Nat)
    (h : s.core.pend = [] ∧ s.core.dead = [] ∧ s.core.checkstall = false ∧ s.core.bad = [])
    (r : (s.g a).toNat % 16 = 0 ∧ scratchKey s (s.g a).toNat n = some k ∧ a ≠ 2 ∧ s.poisoned k n = false ∧ s.tile.pushes = [])
    (q : s.reqs = [] ∧ s.core.latch = []) (z : n ≠ 0) : CopReady s d a b m n (Mem.readRange s.mem k n) :=
  ⟨issued h, fun e => absurd e z, fun _ _ => ⟨k, reach r, rfl⟩, fun _ e => absurd q.2 e, .inr (by simp [q.1])⟩

theorem copReady0 {s : State} {d a b : GReg} {m : BitVec 2}
    (h : s.core.pend = [] ∧ s.core.dead = [] ∧ s.core.checkstall = false ∧ s.core.bad = []) (q : s.reqs = []) : CopReady s d a b m 0 [] :=
  ⟨issued h, fun _ => rfl, fun e => absurd rfl e, fun e => absurd rfl e, .inr (by simp [q])⟩

/-- A state whose request block at scratch 0 holds bytes from a number, for ga = g5 and gb = g6. -/
def block (n x y : Nat) : State := (ready .load [(5, 0), (6, BitVec.ofNat 32 y)]).writeNat mem0 n x

/-- The bytes of that block. -/
def blockOf (n x y : Nat) : List Byte := Mem.readRange (block n x y).mem mem0 n

theorem block_ready (n x y : Nat) (m : BitVec 2) (h : scratchKey (block n x y) 0 n = some mem0 ∧ (block n x y).g 5 = 0 ∧
    (block n x y).poisoned mem0 n = false ∧ (block n x y).tile.pushes = [] ∧ n ≠ 0) (c : (block n x y).core.pend = [] ∧ (block n x y).core.dead = [] ∧
    (block n x y).core.checkstall = false ∧ (block n x y).core.bad = []) (q : (block n x y).reqs = [] ∧ (block n x y).core.latch = []) :
    CopReady (block n x y) 0 5 6 m n (blockOf n x y) :=
  copReady n mem0 c (by rw [h.2.1]; exact ⟨by decide, h.1, by decide, h.2.2.1, h.2.2.2.1⟩) q h.2.2.2.2

theorem witness_CopIssue :
    (CopReady (ready .load) 0 5 6 0 0 [] ∧ (ready .load).g 5 = 0 ∧ (ready .load).g 6 = 0) ∧
    (CopReady (block 64 0 4095) 0 5 6 1 64 (blockOf 64 0 4095) ∧ ((block 64 0 4095).g 6).toNat < 4096) ∧
    (CopReady (block 32 4095 0) 0 5 6 1 32 (blockOf 32 4095 0) ∧ (block 32 4095 0).g 6 = 0 ∧ blockNat (blockOf 32 4095 0) 0 2 < 4096 ∧
      blockZero (blockOf 32 4095 0) 12 32 = true ∧ createArgs 0 0 (blockOf 32 (2 ^ 16) 0) = true ∧
      grantArgs 0 0 (blockOf 32 0 0) = true ∧ monitorArgs 0 0 (blockOf 32 (64 * 2 ^ 128) 0) = true ∧ budgetArgs 0 0 [] = true) ∧
    (CopReady (block 16 0 0) 0 5 6 1 16 (blockOf 16 0 0) ∧ blockZero (blockOf 16 0 0) 12 16 = true) ∧
    (let s := slot0 (ready .load [(5, 16)]) open1
     let t : State := { s.writeNat (mem0 + 16) 16 4 with bars := [mem0 + 16] }
     CopReady t 0 5 6 0 0 [] ∧ BarAt t 16 (mem0 + 16) ∧ t.g 5 ≠ 0) ∧
    ((ready .load [(5, 17)]).g 5).toNat % 16 ≠ 0 ∧ Reach (ready .load [(5, 64)]) 5 64 16 64 2 (mem0 + 64) ∧
    (let s : State := { block 8 (2 ^ 44) 0 with ctxs := [{ Ctx.keystone with pmap := [{ l := 1, p := 5, rcref := 0 }] }] }
     CopReady s 0 5 6 0 8 (Mem.readRange s.mem mem0 8) ∧ PkgIs s 1 { l := 1, p := 5, rcref := 0 } ∧
       blockNat (Mem.readRange s.mem mem0 8) 0 8 = 2 ^ 44) ∧
    (let s := (block 64 0 0).parkCop 5 6 (blockOf 64 1 0)
     CopReady s 0 5 6 1 64 (blockOf 64 1 0) ∧ s.core.latch ≠ [] ∧ (s.opd 6).toNat < 4096) :=
  ⟨⟨copReady0 (by decide) rfl, by decide⟩, ⟨block_ready _ _ _ _ (by decide) (by decide) ⟨rfl, rfl⟩, by decide⟩,
    ⟨block_ready _ _ _ _ (by decide) (by decide) ⟨rfl, rfl⟩, by decide⟩, ⟨block_ready _ _ _ _ (by decide) (by decide) ⟨rfl, rfl⟩, by decide⟩,
    ⟨copReady0 (by decide) rfl, ⟨by decide, by decide, by decide⟩, by decide⟩, by decide, reach (by decide),
    ⟨copReady 8 mem0 (by decide) (by decide) ⟨rfl, rfl⟩ (by decide), rfl, by decide⟩,
    ⟨issued (by decide), fun e => absurd e (by decide), fun _ e => absurd e (by decide), fun _ _ => rfl, .inl rfl⟩, by decide⟩

theorem witness_CollectivesIssue :
    let s := block 32 0x40 0
    let g (s : State) := s.setTile { s.tile with task := { s.tile.task with gang := true } }
    (CopReady s 0 5 6 1 32 (blockOf 32 0x40 0) ∧ collOk 5 (blockOf 32 0x40 0) (s.g 6) = true ∧ blockNat (blockOf 32 0x40 0) 8 4 = 0 ∧
      s.tile.task.gang = false) ∧
    ((g s).tile.task.gang = true ∧ (g s).core.relBad = none ∧ (g s).podCovered (fun _ => false) (fun _ => false) = true) ∧
    (let t : State := { g s with unacked := [sent .load] }
     t.core.relBad = none ∧ t.podCovered (fun _ => false) (fun _ => false) = false) ∧
    (let x := 0x10 + (handle 3 0 0x100 16 1).toNat * 2 ^ 256 + (handle 3 0 0x200 16 1).toNat * 2 ^ 256 * 2 ^ 256
     let b := blockOf 96 x 0
     CopReady (block 96 x 0) 0 5 6 1 96 b ∧ collOk 0 b 0 = true ∧ Handle.formOk (blockSrc b) = true ∧ Handle.fmt (blockSrc b) ≠ 0 ∧
       Handle.sel (blockSrc b) = 0 ∧ Handle.formOk (blockDst b) = true ∧ Handle.fmt (blockDst b) ≠ 0 ∧ Handle.sel (blockDst b) = 0) :=
  ⟨⟨block_ready _ _ _ _ (by decide) (by decide) ⟨rfl, rfl⟩, by decide⟩, by decide, by decide,
    block_ready _ _ _ _ (by decide) (by decide) ⟨rfl, rfl⟩, by decide⟩

/-- A request of the load core of task 0. -/
def req (n mode : Nat) (gd : GReg) : Req where
  n := n
  tid := 0
  tile := 0
  core := .load
  cnum := 0
  fn7 := 6
  mode := mode
  gd := gd
  pc := 0x10000
  precise := false
  ga := 0
  gb := 0
  block := []
  dbar := none
  sbar := none
  ep := none
  mark := 0

theorem witness_CopReplyModes :
    let s := ready .load
    ((req 1 1 4).n = s.reqN ∧ (req 1 1 4).precise = s.core.precise ∧ (req 1 1 4).mode = 1) ∧ (req 1 0 0).mode ≠ 1 ∧ (req 1 2 4).gd ≠ 0 := by decide
/-! ### Witnesses: transfers, releases and acquires, remote atomics -/

theorem handleOk {s : State} {h : Handle} {far own : Bool} (a : Handle.formOk h = true ∧ Handle.fmt h ≠ 0 ∧ Handle.sel h = 0) :
    HandleOk s h far own := ⟨a.1, a.2.1, fun _ => a.2.2, fun e => absurd a.2.2 e⟩

theorem handleAligned {h : Handle} (a : Handle.base h % Handle.width h = 0) (b : Handle.ext h 2 = 1 ∧ Handle.ext h 3 = 1)
    (c : Handle.ext h 1 ≤ 1 ∨ Handle.str h 1 % (Handle.width h : Int) = 0) : HandleAligned h :=
  ⟨a, fun e => c.elim (fun c => absurd e (by omega)) id, fun e => absurd e (by omega), fun e => absurd e (by omega)⟩

/-- INT32 handles of 16 elements: h1 in the tile, h2 global, h3 a table of four rows in the tile, h4 FP32 of 32 elements in the tile, h5 the
same in the package. -/
def moves (c : CoreId) (gs : List (GReg × Word) := []) : State :=
  { handles (ready c gs) [(1, handle 1 0 0x100 16 1), (2, handle 1 3 0x40000 16 1), (3, handle 1 0 0x200 4 4), (4, handle 5 0 0x400 32 1),
      (5, handle 5 3 0x80 32 1)] with
    ctxs := [{ Ctx.keystone with pmap := [{ l := 1, p := 5, rcref := 0 }, { l := 0, p := 0, rcref := 0 }]
                                 tmap := [{ l := 0, p := 0 }, { l := 1, p := 1 }]
                                 wins := [{ page := 0, parentPage := 0, count := 16, r := true, w := true, x := true }] }] }

theorem witness_TransfersAccepted :
    let s := moves .load [(5, 0), (6, 0), (7, 0), (8, 1), (9, 0x01000000)]
    (TokensReady s quiet ∧ BteRoom s ∧ Settled s ∧ Avail s [0, 5] [] [] ∧ CtlOk (s.g 5) useCopy 0 ∧ BarsOk s 0 (s.g 5) (none, none) ∧
      (Reg.h 1 ∉ s.core.bad ∧ Reg.h 2 ∉ s.core.bad)) ∧
    (HandleOk s (s.h 1) true false ∧ HandleOk s (s.h 2) true false ∧ Handle.bytes (s.h 1) = Handle.bytes (s.h 2) ∧ HandleAligned (s.h 1) ∧
      HandleAligned (s.h 2) ∧ Handle.level (s.h 1) ≠ 3 ∧ Handle.level (s.h 2) = 3) ∧
    (Handle.ext (s.h 3) 2 = 1 ∧ Handle.ext (s.h 3) 3 = 1 ∧ Handle.ext (s.h 3) 0 * Handle.width (s.h 3) ≠ 0 ∧
      Handle.bytes (s.h 1) % (Handle.ext (s.h 3) 0 * Handle.width (s.h 3)) = 0 ∧ HandleAligned (s.h 3) ∧ HandleOk s (s.h 3) true false ∧
      (s.g (pairHi 3)).toNat % 4 = 0 ∧ scratchKey s (s.g (pairHi 3)).toNat 16 = some mem0 ∧ CtlOk (s.g (pairLo 3)) useIx 0) ∧
    (CtlOk (s.g 9) useMc 0 ∧ HandleOk s (s.h 1) false true ∧ ctlFirst (s.g 9) + ctlCount (s.g 9) ≤ unitCount (Handle.level (s.h 1)) ∧
      ∀ j, j < ctlCount (s.g 9) → ∃ t u, s.ctx? s.tile.task.cnum = some t ∧ t.unitOf (Handle.level (s.h 1)) (ctlFirst (s.g 9) + j) = some u) ∧
    (CtlOk (s.g 0) useRd 0 ∧ CtlOk (s.g 0) useWr 0 ∧ (s.g 8).toNat < 4096 ∧ PkgIs s (s.g 8).toNat { l := 1, p := 5, rcref := 0 }) ∧
    (Handle.format (s.h 4) = .fp32 ∧ Handle.fmt (s.h 4) = Handle.fmt (s.h 5) ∧ Handle.base (s.h 5) % 128 = 0 ∧
      (Handle.ext (s.h 5) 0 * Handle.width (s.h 5) = 128 ∧ Handle.ext (s.h 5) 1 = 1 ∧ Handle.ext (s.h 5) 2 = 1 ∧ Handle.ext (s.h 5) 3 = 1) ∧
      (Handle.ext (s.h 4) 0 * Handle.width (s.h 4) = 128 ∧ Handle.ext (s.h 4) 1 = 1 ∧ Handle.ext (s.h 4) 2 = 1 ∧ Handle.ext (s.h 4) 3 = 1)) ∧
    (CtlOk (s.g 0) useStPlace 0 ∧ fld 21 11 (s.g 7) = (0 : BitVec 11) ∧ fld 12 3 (s.g 7) ≠ (7 : BitVec 3) ∧ fld 12 9 (s.g 7) = (0 : BitVec 9)) ∧
    (let t := { slot0 s open1 with bars := [mem0] }
     BarsOk t 7 (t.g 7) (some mem0, none) ∧ CtlOk (t.g 5) useCopy 7) := by
  refine ⟨⟨no_tokens rfl, ?_, nofun, avail (by decide), ⟨by decide, by decide, by decide, by decide, by decide⟩,
      ⟨fun _ => rfl, fun h => absurd rfl h⟩, by decide⟩,
    ⟨handleOk (by decide), handleOk (by decide), by decide, handleAligned (by decide) (by decide) (by decide), handleAligned (by decide) (by decide) (by decide), by decide⟩,
    ⟨by decide, by decide, by decide, by decide, handleAligned (by decide) (by decide) (by decide), handleOk (by decide), by decide, by decide,
      ⟨by decide, by decide, by decide, by decide, by decide⟩⟩,
    ⟨⟨by decide, by decide, by decide, by decide, by decide⟩, handleOk (by decide), by decide, ?_⟩,
    ⟨⟨by decide, by decide, by decide, by decide, by decide⟩, ⟨by decide, by decide, by decide, by decide, by decide⟩, by decide, rfl⟩,
    ⟨by decide, by decide, by decide, by decide, by decide⟩, ⟨⟨by decide, by decide, by decide, by decide, by decide⟩, by decide⟩,
    ⟨fun h => absurd h (by decide), fun _ => ⟨mem0, ⟨by decide, by decide, by decide⟩, fun _ => rfl, fun h => absurd h (by decide)⟩⟩,
    ⟨by decide, by decide, by decide, by decide, by decide⟩⟩
  · show (List.filter _ []).length < 16
    decide
  · intro j hj
    have c : ctlCount ((moves .load [(5, 0), (6, 0), (7, 0), (8, 1), (9, 0x01000000)]).g 9) = 2 := by decide
    replace hj : j < ctlCount ((moves .load [(5, 0), (6, 0), (7, 0), (8, 1), (9, 0x01000000)]).g 9) := hj
    rw [c] at hj
    match j, hj with
    | 0, _ => exact ⟨_, 0, rfl, rfl⟩
    | 1, _ => exact ⟨_, 1, rfl, rfl⟩

/-- An operation of the load core that copies 16 elements. -/
def copyOp (q : BitVec 16) (done : Nat) : Op :=
  { naming0 with seq := q, opc := 2, hd := handle 1 0 0x100 16 1, hs := handle 1 0 0x200 16 1, dbar := none, pc := 0x10000, done := done, total := 16 }

/-- A tile with BTE operations. -/
def withOps (s : State) (l : List Op) : State := s.setTile { s.tile with ops := l }

theorem witness_EngineAcceptanceAndProgress :
    0 < (copyOp 0 0).total ∧
    (let s := withOps (ready .load) (List.replicate 16 (copyOp 0 0))
     16 ≤ (s.tile.ops.filter fun p => p.core == s.sel).length ∧ ∀ p ∈ s.tile.ops, p.core = s.sel → p.reported = false → p.fault = none) ∧
    (let s := ready .load [(6, 3), (7, 0x40)]
     TokensReady s quiet ∧ Avail s [] [] [4] ∧ Avail s [6, 7] [] [4] ∧ (s.g 7).toNat % 16 = 0 ∧ (s.g 7).toNat < 2 ^ 21 ∧
       scratchKey s (s.g 7).toNat 16 = some (mem0 + 0x40) ∧ s.tile.op? .load (fld 0 16 (s.g 6)) = none ∧
       (withOps s [copyOp 3 0]).tile.op? .load (fld 0 16 (s.g 6)) = some (copyOp 3 0)) :=
  ⟨by decide, by decide, no_tokens rfl, avail (by decide), avail (by decide), by decide⟩

theorem witness_WordReleaseAcquire :
    let s := moves .load [(4, 9), (6, 0x40), (7, 0x0000_1000), (8, 0x10)]
    let t := moves .load [(4, 9), (6, 0x40), (7, 0), (8, 0)]
    let u := moves .load [(4, 9), (6, 0x40), (7, 0x0000_1000), (8, 0x0000_0009)]
    (TokensReady s quiet ∧ Avail s (4 :: wordRegs s 3 8) [] [] ∧ fld 7 25 (s.g 8) = (0 : BitVec 25) ∧ fld 5 2 (s.g 8) ≠ (3 : BitVec 2) ∧
      wcFlag (s.g 8) = false ∧ wcLocal (s.g 8) = true ∧ Reach s (pairLo 3) (s.g (pairLo 3)) 4 4 2 (mem0 + 0x40) ∧
      s.podCovered (fun _ => false) (fun _ => false) = true ∧ s.brokenOwn (fun _ => false) = none) ∧
    (wcLocal (t.g 8) = false ∧ fld 24 8 (t.g (pairHi 3)) = (0 : BitVec 8) ∧ (t.g (pairLo 3)).toNat % 4 = 0 ∧
      PkgIs t 0 { l := 0, p := 0, rcref := 0 } ∧ (0 : BitVec 12) = t.self ∧ t.xlate 0 0x40 2 = .ok 0x40 ∧ t.xlate 0 0x40 1 = .ok 0x40 ∧
      t.poisoned 0x40 4 = false ∧ fld 0 4 (t.g 8) = (0 : BitVec 4)) ∧
    (PkgIs u 1 { l := 1, p := 5, rcref := 0 } ∧ (5 : BitVec 12) ≠ u.self ∧ wcFlag (u.g 8) = true ∧ fld 0 3 (u.g 8) ≠ (0 : BitVec 3) ∧
      u.flagOk .load { l := 1, p := 5, rcref := 0 } 1 = true) :=
  ⟨⟨no_tokens rfl, avail (by decide), by decide, by decide, by decide, by decide, reach (by decide), by decide⟩,
    ⟨by decide, by decide, by decide, rfl, rfl, rfl, rfl, by decide⟩, ⟨rfl, by decide⟩⟩

theorem witness_RemoteAtomicsAccepted :
    let s := moves .store [(4, 9), (6, 0x40), (7, 0x0000_1000), (8, 1)]
    TokensReady s quiet ∧ BteRoom s ∧ fld 24 8 (s.g (pairHi 3)) = (0 : BitVec 8) ∧ PkgIs s 1 { l := 1, p := 5, rcref := 0 } ∧
    (s.g (pairLo 3)).toNat % 4 = 0 ∧ Avail s [pairLo 3, pairHi 3, 8] [] [4] ∧ Avail s [pairLo 3, pairHi 3, 8, 4] [] [4] :=
  ⟨no_tokens rfl, (by show (List.filter _ []).length < 16; decide), by decide, rfl, by decide, avail (by decide), avail (by decide)⟩
/-! ### Witnesses: vectors, predicates, floating point, the array -/

/-- Vector registers with values and tags, on the compute core. -/
def vectors (l : List (Fin 56 × BitVec 2048 × Fmt)) (gs : List (GReg × Word) := []) : State :=
  let s := ready .compute gs
  s.setTile (l.foldl (fun t x => { t with v := t.v.set x.1 x.2.1, vtag := t.vtag.set x.1 x.2.2 }) s.tile)

theorem witness_VectorIntegerAndLogic :
    let s := vectors [(1, 7, .int8), (2, 9, .int8)]
    Fmt.isInt .int8 = true ∧ s.tile.srcTags [1, 2] = [.int8, .int8] ∧ s.tile.srcTags [1] = [.int8] ∧
    (∃ xs key w, VecReady s quiet 7 [1, 2] [] [] 2 xs key w) ∧ ∃ xs key w, VecReady s quiet 7 [1] [] [] 2 xs key w :=
  ⟨rfl, rfl, rfl, ⟨_, _, _, by decide, no_tokens rfl, avail (by decide), ⟨_, rfl, rfl⟩, rfl⟩, ⟨_, _, _, by decide, no_tokens rfl, avail (by decide), ⟨_, rfl, rfl⟩, rfl⟩⟩

theorem witness_VectorFloatingPoint :
    let s := vectors [(1, 7, .bf16), (2, 9, .bf16), (3, 9, .bf16)]
    Fmt.isFp .bf16 = true ∧ s.tile.srcTags [1, 2] = [.bf16, .bf16] ∧ s.tile.srcTags [1] = [.bf16] ∧ s.tile.srcTags [1, 2, 3] = [.bf16, .bf16, .bf16] ∧
    (∃ xs key w, VecReady s quiet 3 [1, 2] [] [] 4 xs key w) ∧ (∃ xs key w, VecReady s quiet 3 [1] [] [] 4 xs key w) ∧
    ∃ xs key w, VecReady s quiet 3 [1, 2, 3] [] [] 5 xs key w :=
  ⟨rfl, rfl, rfl, rfl, ⟨_, _, _, by decide, no_tokens rfl, avail (by decide), ⟨_, rfl, rfl⟩, rfl⟩,
    ⟨_, _, _, by decide, no_tokens rfl, avail (by decide), ⟨_, rfl, rfl⟩, rfl⟩, ⟨_, _, _, by decide, no_tokens rfl, avail (by decide), ⟨_, rfl, rfl⟩, rfl⟩⟩

theorem witness_VectorComparesAndLanes :
    let s := vectors [(1, 7, .uint8), (2, 9, .uint8), (3, 9, .int32), (4, 0, .int32), (5, 0, .int32), (6, 0, .uint8)]
    (s.tile.srcTags [1, 2] = [.uint8, .uint8] ∧ ∃ xs w, VecReady s quiet 62 [1, 2] [] [] 2 xs none w) ∧
    (s.tile.srcTags [1, 6] = [.uint8, .uint8] ∧ ∃ xs key w, VecReady s quiet 6 [1, 6] [] [.p 3] 1 xs key w) ∧
    (s.tile.srcTags [3, 4, 5] = [.int32, .int32, .int32] ∧ ∃ xs key w, VecReady s quiet 5 [3, 4, 5] [] [] 2 xs key w) ∧
    ((∃ g, s.tile.srcTags [1, 2, 5] = [.uint8, .uint8, g]) ∧ s.tile.srcTag 5 = some .int32 ∧
      ∃ xs key w, VecReady s quiet 5 [1, 2, 5] [] [] 5 xs key w) :=
  ⟨⟨rfl, _, _, by decide, no_tokens rfl, avail (by decide), ⟨_, rfl, rfl⟩, rfl⟩, ⟨rfl, _, _, _, by decide, no_tokens rfl, avail (by decide), ⟨_, rfl, rfl⟩, rfl⟩,
    ⟨rfl, _, _, _, by decide, no_tokens rfl, avail (by decide), ⟨_, rfl, rfl⟩, rfl⟩,
    ⟨_, rfl⟩, rfl, ⟨_, _, _, by decide, no_tokens rfl, avail (by decide), ⟨_, rfl, rfl⟩, rfl⟩⟩

theorem witness_VectorReductions :
    let s := vectors [(1, 7, .int16), (2, 9, .fp16)]
    (s.tile.srcTags [1] = [.int16] ∧ Fmt.isInt .int16 = true ∧ s.tile.vgrp.toNat ≤ 8 ∧ ∃ xs key w, VecReady s quiet 7 [1] [] [] 8 xs key w) ∧
    (s.tile.srcTags [2] = [.fp16] ∧ Fmt.isFp .fp16 = true ∧ ∃ xs key w, VecReady s quiet 7 [2] [] [] 8 xs key w) :=
  ⟨⟨rfl, rfl, by decide, _, _, _, by decide, no_tokens rfl, avail (by decide), ⟨_, rfl, rfl⟩, rfl⟩,
    rfl, rfl, _, _, _, by decide, no_tokens rfl, avail (by decide), ⟨_, rfl, rfl⟩, rfl⟩

theorem witness_VectorPermutesAndConversions :
    let s := vectors [(1, 7, .fp16), (2, 9, .int16), (3, 9, .fp16)] [(5, 3)]
    (s.tile.srcTags [1, 2] = [.fp16, .int16] ∧ Fmt.isInt .int16 = true ∧ Fmt.width .fp16 = Fmt.width .int16 ∧
      ∃ xs key w, VecReady s quiet 7 [1, 2] [] [] 2 xs key w) ∧
    (s.tile.srcTags [1] = [.fp16] ∧ ∃ xs key w, VecReady s quiet 7 [1] [5] [] 2 xs key w) ∧
    (s.tile.srcTags [1, 3] = [.fp16, .fp16] ∧ ∃ xs key w, VecReady s quiet 7 [1, 3] [] [] 2 xs key w) ∧
    (Fmt.ofCode (10 : BitVec 4).toNat = some .ds8 ∧ (∃ xs key w, VecReady s quiet 7 [] [5] [] 2 xs key w) ∧
      ∃ xs key w, VecReady s quiet 7 [1] [] [] 4 xs key w) ∧ ∃ xs key w, VecReady s quiet 7 [1] [] [] 1 xs key w :=
  ⟨⟨rfl, rfl, rfl, _, _, _, by decide, no_tokens rfl, avail (by decide), ⟨_, rfl, rfl⟩, rfl⟩,
    ⟨rfl, _, _, _, by decide, no_tokens rfl, avail (by decide), ⟨_, rfl, rfl⟩, rfl⟩, ⟨rfl, _, _, _, by decide, no_tokens rfl, avail (by decide), ⟨_, rfl, rfl⟩, rfl⟩,
    ⟨rfl, ⟨_, _, _, by decide, no_tokens rfl, avail (by decide), ⟨_, rfl, rfl⟩, rfl⟩, _, _, _, by decide, no_tokens rfl, avail (by decide), ⟨_, rfl, rfl⟩, rfl⟩,
    _, _, _, by decide, no_tokens rfl, avail (by decide), ⟨_, rfl, rfl⟩, rfl⟩

/-- Port pi0 at a scratch address. -/
def port0 (a : Word) : State :=
  let s := ready .compute
  s.setTile { s.tile with ports := s.tile.ports.set 0 { addr := a, fmt := .int8 } }

theorem witness_VectorOperands :
    (isPort 56 = true ∧ ((port0 0x1FFF00).tile.port 56).next.toNat % 4 = 0 ∧ ((port0 0x1FFF00).tile.port 56).next.toNat + 256 ≤
      min (2 ^ 21) (port0 0x1FFF00).tile.task.limit ∧ (port0 0x1FFF00).poisoned (mem0 + 0x1FFF00) 256 = false) ∧
    ((port0 2).tile.port 56).next.toNat % 4 ≠ 0 ∧ (isVReg 8 = true ∧ (ready .compute).tile.vallot.toNat ≤ (8 : VCode).toNat) ∧
    ((55 : VCode).toNat < 56 ∧ 0 < 1) := by decide

theorem witness_FixedLatencyLanding :
    let at_ (l : List Flight) : State := ev ((ready .compute).setCore { (ready .compute).core with flight := l }) (.core 0 .compute)
    ((at_ []).tile.ptile = 0 ∧ (at_ []).arg = .core 0 .compute ∧ ((at_ []).tile.core .compute).fin = false) ∧
    (∀ f ∈ ((at_ [⟨.g 5 1, 1⟩]).tile.core .compute).flight, (at_ [⟨.g 5 1, 1⟩]).now < f.at_) ∧
    (((at_ [⟨.g 5 1, 0⟩]).tile.core .compute).flight = [⟨.g 5 1, 0⟩] ∧ 0 ≤ (at_ [⟨.g 5 1, 0⟩]).now) ∧
    ((at_ [⟨.v 5 1 .int8, 0⟩]).tile.core .compute).flight = [⟨.v 5 1 .int8, 0⟩] ∧
    ((at_ [⟨.p 5 1, 0⟩]).tile.core .compute).flight = [⟨.p 5 1, 0⟩] :=
  ⟨⟨rfl, rfl, by decide⟩, by decide, by decide, rfl, rfl⟩

theorem witness_VectorMemory :
    let s := vectors [(1, 7, .int32)] [(5, 0x1FFF00), (6, 256), (7, 0)]
    (Fmt.ofCode (3 : BitVec 4).toNat = some .int8 ∧ Reach s 5 0x1FFF00 4 256 1 (mem0 + 0x1FFF00) ∧
      ∃ p w, VecReady s quiet 7 [] [5] [] 6 [] p w) ∧
    (isVReg 7 = true ∧ Reach s 5 0x1FFF00 4 4 1 (mem0 + 0x1FFF00) ∧ (∃ w, VecReady s quiet 62 [] [5] [] 6 [] none w) ∧
      (7 : VCode).toNat < s.tile.vallot.toNat ∧ Fmt.ofCode (leNat (Mem.readRange s.mem (mem0 + 0x1FFF00) 4) % 16) = some .empty ∧
      Fmt.ofCode (leNat (Mem.readRange (s.writeNat (mem0 + 0x1FFF00) 4 11).mem (mem0 + 0x1FFF00) 4) % 16) = none) ∧
    (∃ xs w, VecReady s quiet 62 [1] [5] [] 0 xs none w ∧ Reach w 5 0x1FFF00 4 256 2 (mem0 + 0x1FFF00)) ∧ s.tile.srcTags [1] = [.int32] ∧
    (∃ xs w, VecReady s quiet 62 [1] [7, 6] [] 0 xs none w) ∧ min ((vectors [] [(6, 300)]).g 6).toNat 256 = 256 ∧
    ((∃ xs p w, VecReady s quiet 7 [1] [7] [] 8 xs p w) ∧ (s.g 7).toNat % 4 = 0 ∧ Reach s 7 (s.g 7 + 28) 1 4 1 (mem0 + 28)) :=
  ⟨⟨rfl, reach (by decide), _, _, by decide, no_tokens rfl, avail (by decide), ⟨_, rfl, rfl⟩, rfl⟩,
    ⟨rfl, reach (by decide), ⟨_, by decide, no_tokens rfl, avail (by decide), ⟨_, rfl, rfl⟩, rfl⟩, by decide⟩,
    ⟨_, _, ⟨by decide, no_tokens rfl, avail (by decide), ⟨_, rfl, rfl⟩, rfl⟩, reach (by decide)⟩, rfl,
    ⟨_, _, by decide, no_tokens rfl, avail (by decide), ⟨_, rfl, rfl⟩, rfl⟩, by decide,
    ⟨_, _, _, by decide, no_tokens rfl, avail (by decide), ⟨_, rfl, rfl⟩, rfl⟩, by decide, reach (by decide)⟩

theorem witness_Predicates :
    let s := vectors [(1, 7, .int32)]
    TokensReady s quiet ∧ Avail s [] [.p 1, .p 2] [] ∧ (∃ xs key w, VecReady s quiet 7 [] [] ((predsFrom 1).map .p) 2 xs key w) ∧
    (∃ xs w, VecReady s quiet 62 [1] [] [] 0 xs none w) ∧ s.tile.srcTags [1] = [.int32] ∧ (7 : PReg) ≠ 0 ∧ (1 : PReg).toNat ≤ (7 : PReg).toNat :=
  ⟨no_tokens rfl, avail (by decide), ⟨_, _, _, by decide, no_tokens rfl, avail (by decide), ⟨_, rfl, rfl⟩, rfl⟩,
    ⟨_, _, by decide, no_tokens rfl, avail (by decide), ⟨_, rfl, rfl⟩, rfl⟩, rfl, by decide, by decide⟩

theorem witness_AllotmentAndPorts :
    let s := ready .compute [(5, 8), (6, 11)]
    TokensReady s quiet ∧ Avail s [] [] [] ∧ Avail s [5, 6] [] [] ∧ (56 ≤ (61 : VCode).toNat ∧ (61 : VCode).toNat < 62) ∧
    s.tile.vallot < (16 : BitVec 6) ∧ (s.g 5).toNat = 8 ∧ 8 < (s.g 6).toNat ∧ Fmt.ofCode ((s.g 6).toNat % 16) = none ∧
    Fmt.ofCode ((s.g 5).toNat % 16) = some .e4m3 :=
  ⟨no_tokens rfl, avail (by decide), avail (by decide), by decide⟩

theorem witness_ScalarFloatingPoint :
    let s := ready .compute [(5, 0x3F800000), (6, 0x7FC00000)]
    TokensReady s quiet ∧ Avail s [5, 6] [] [4] ∧ Avail s [5, 6, 4] [] [4] ∧ Avail s [5] [] [4] :=
  ⟨no_tokens rfl, avail (by decide), avail (by decide), avail (by decide)⟩

/-- The ring counters. -/
def ring (s : State) (hd tl : BitVec 4) : State := s.setTile { s.tile with ringHd := hd, ringTl := tl }

theorem witness_RingAndAccumulator :
    let s := ring (handles (vectors [(1, 7, .fp32)] [(5, 0x3C1), (6, 0)]) [(1, handle 5 0 0x100 64 64)]) 8 0
    (TokensReady s quiet ∧ Avail s [] [] [] ∧ (s.tile.ringHd - s.tile.ringTl).toNat = 8) ∧
    ((ring s 3 3).tile.ringHd - (ring s 3 3).tile.ringTl).toNat = 0 ∧
    (((ring s 0 9).tile.ringHd - (ring s 0 9).tile.ringTl).toNat ≠ 8 ∧ ∀ e ∈ s.tile.epis, e.slot.toNat % 8 ≠ s.tile.ringHd.toNat % 8) ∧
    ((∃ xs w, VecReady s quiet 62 [1] [] [] 0 xs none w) ∧ s.tile.srcTag 1 = some .fp32 ∧ s.tile.ringHd ≠ s.tile.ringTl ∧
      s.tile.working 7 = false ∧ s.tile.working s.tile.newest = false ∧ slotClean s 7 64 (List.range 64) = .ok ()) ∧
    (s.setTile { s.tile with mmas := [{ id := 0, a := none, b := 1, ha := 0, hb := 0, slot := 7, steps := 0, gather := false, lanes := 0 }] }).tile.working
      s.tile.newest = true ∧
    (isVReg 7 = true ∧ Avail s [5] [] [] ∧ (s.g 5).toNat < 1024 ∧ (s.g 5).toNat / 64 % 8 < (s.tile.ringHd - s.tile.ringTl).toNat ∧
      s.tile.working 7 = false ∧ ∀ a n, s.poisoned a n = false) ∧
    (Avail s [6, 6] [.h 1] [] ∧ fld 0 3 (s.g 6) ≤ (4 : BitVec 3) ∧ HandleOk s (s.h 1) false true ∧ Handle.level (s.h 1) = 0 ∧ Handle.ro (s.h 1) = false ∧
      Handle.ext (s.h 1) 0 = 64 ∧ Handle.ext (s.h 1) 1 = 64 ∧ Handle.ext (s.h 1) 2 = 1 ∧ epiParams (s.g 6) 64 = [] ∧
      Handle.base (s.h 1) % Handle.width (s.h 1) = 0 ∧ spansOk s 2 ((List.range 64).map fun i => (rowAt (s.h 1) i, 64 * Handle.width (s.h 1))) = .ok () ∧
      spansOk s 1 [] = .ok () ∧ spansClean s [] = .ok () ∧ slotClean s 0 64 (List.range 64) = .ok () ∧ s.tile.epis.length < 8) :=
  ⟨⟨no_tokens rfl, avail (by decide), by decide⟩, by decide, by decide,
    ⟨⟨_, _, by decide, no_tokens rfl, avail (by decide), ⟨_, rfl, rfl⟩, rfl⟩, rfl, by decide, by decide, by decide, rfl⟩, by decide,
    ⟨by decide, avail (by decide), by decide, by decide, by decide, fun _ _ => rfl⟩,
    avail (by decide), by decide, handleOk (by decide), by decide, by decide, by decide, by decide, by decide, by decide, by decide, rfl, rfl, rfl,
    rfl, by decide⟩

theorem witness_MatrixProducts :
    let s := ring (handles (vectors [(1, 0xFFFFFFFF, .int32)]) [(1, handle 6 0 0x100 16 1), (2, handle 6 0 0x200 16 64)]) 1 0
    (TokensReady s quiet ∧ Avail s [] [.h 1, .h 2] [] ∧ HandleOk s (s.h 1) false true ∧ HandleOk s (s.h 2) false true ∧
      pairCycles (Handle.format (s.h 1)) (Handle.format (s.h 2)) = some 16 ∧ Handle.ext (s.h 1) 0 = 16 ∧ Handle.ext (s.h 2) 0 = 16 ∧
      Handle.ext (s.h 2) 1 = 64 ∧ Handle.ext (s.h 1) 1 = 1 ∧ Handle.base (s.h 1) % 4 = 0 ∧
      (let l := rowSpans (s.h 1) 1 [0] ++ rowSpans (s.h 2) 1 (List.range 64)
       spansOk s 1 l = .ok () ∧ spansClean s l = .ok ()) ∧
      s.tile.ringHd ≠ s.tile.ringTl ∧ slotClean s 0 64 [0] = .ok () ∧ s.tile.mmas.length < 5) ∧
    ((1 : VCode).toNat < s.tile.vallot.toNat ∧ s.tile.srcTag 1 = some .int32 ∧ elemAt .int32 (s.tile.v[1]) 0 = 2 ^ 32 - 1 ∧
      elemAt .int32 (s.tile.v[1]) 1 < Handle.ext (s.h 1) 1) :=
  ⟨⟨no_tokens rfl, avail (by decide), handleOk (by decide), handleOk (by decide), by decide, by decide, by decide, by decide, by decide, by decide,
    ⟨passes (by decide +kernel), passes (by decide +kernel)⟩, by decide, rfl, by decide⟩, by decide, rfl, by decide +kernel, by decide +kernel⟩
/-! ### Witnesses: engines, cop engines, stops, queues -/

theorem witness_EngineEvents :
    let s (l : List Op) (a : EvArg) := ev (withOps (ready .load) l) a
    let one : Op := { copyOp 3 15 with dbar := some mem0 }
    (OpLive (s [copyOp 3 15] (.credit 0 .load 3 1)) .load 3 (copyOp 3 15) ∧ (copyOp 3 15).remote = none ∧ (copyOp 3 15).done < (copyOp 3 15).total ∧
      ∃ w, moveElem (s [copyOp 3 15] (.credit 0 .load 3 1)) (copyOp 3 15) [0] 15 = .ok w) ∧
    (let o := { copyOp 3 0 with hd := handle 1 0 0x200000 16 1 }
     OpLive (s [o] (.credit 0 .load 3 1)) .load 3 o ∧ ∃ x, moveElem (s [o] (.credit 0 .load 3 1)) o [0] 0 = .error x) ∧
    (let o : Op := { copyOp 3 0 with kind := .rat 0 0 0x40 1 0 5, total := 1 }
     let t := { withOps (moves .load) [o] with arg := .credit 0 .load 3 1 }
     OpLive t .load 3 o ∧ ∃ w old, t.atomicWord 0 0x40 0 1 0 = .ok (w, old)) ∧
    (OpLive (s [{ one with srcDone := true }] (.op 0 .load 3)) .load 3 { one with srcDone := true } ∧
      OpLive (slot0 (s [{ one with sbar := some mem0 }] (.op 0 .load 3)) open1) .load 3 { one with sbar := some mem0 } ∧
      ((slot0 (s [{ one with sbar := some mem0 }] (.op 0 .load 3)) open1).bar mem0).live = true) ∧
    (OpLive (s [copyOp 3 16] (.op 0 .load 3)) .load 3 (copyOp 3 16) ∧ (copyOp 3 16).done = (copyOp 3 16).total ∧ (copyOp 3 15).done ≠ (copyOp 3 15).total) ∧
    (OpLive (slot0 (s [one] (.fault 0 .load 3 .memError 1 0 15)) open1) .load 3 one ∧ one.dbar = some mem0 ∧ one.sbar = none) ∧
    (let m : Mma := { id := 1, a := none, b := 1, ha := handle 6 0 0 32 1, hb := 0, slot := 0, steps := 0, gather := false, lanes := 0 }
     let e : Epi := { id := 2, h := handle 5 0 0 1 1, cmd := 0, bias := 0, slot := 0, lfsr := 1 }
     let t := (ready .compute).setTile { (ready .compute).tile with mmas := [m, m], epis := [e, { e with slot := 1 }] }
     t.tile.halted = false ∧ t.tile.mmas = [m, m] ∧ m.steps + 1 < m.blocks ∧ ({ m with steps := 1 } : Mma).blocks ≤ 1 + 1 ∧
       t.tile.epis = [e, { e with slot := 1 }] ∧ (∃ n ∈ t.tile.mmas, n.slot = e.slot) ∧ (∀ n ∈ t.tile.mmas, n.slot ≠ 1) ∧ ((ready .load).takeTrap none { cls := .brk }).tile.halted = true) ∧
    (let t : State := { later (ready .load) 4096 with locks := [held .load], rac := [(8, 12000)] }
     (t.locks.find? fun l => l.bank = mem0 ∧ l.bit = 0) = some (held .load) ∧ (held .load).since + 4096 ≤ t.now ∧ (held .load).tile = t.tile.ptile ∧
       (later t 4095).now < (held .load).since + 4096) :=
  ⟨⟨⟨rfl, rfl, rfl⟩, rfl, by decide, _, rfl⟩, ⟨⟨rfl, rfl, rfl⟩, _, rfl⟩, ⟨⟨rfl, rfl, rfl⟩, _, _, rfl⟩, ⟨⟨rfl, rfl, rfl⟩, ⟨rfl, rfl, rfl⟩, by decide⟩,
    ⟨⟨rfl, rfl, rfl⟩, by decide, by decide⟩, ⟨⟨rfl, rfl, rfl⟩, rfl, rfl⟩,
    ⟨rfl, rfl, by decide, by decide, rfl, ⟨_, .head _, rfl⟩, by decide, rfl⟩, by decide⟩

/-- A state with one request and the number of it as the event's operand. -/
def asked (s : State) (r : Req) : State := { s with reqs := [r], arg := .num r.n }

/-- An episode of the load streams at .die, on tile 0. -/
def episode : EpKey := { cnum := 0, node := 0, run := 0, scope := 3, unit := 0, core := .load, ep := 1 }

/-- A job with its next transfer and the last write of its record. -/
def job (st wnext : Nat) (done : List Nat) : Job :=
  { n := 1, st := st, srec := 0, drec := 0, prog := 0x1000, plan := List.replicate 70 { q := 0, p := 0, lo := [], ext := [] }, width := 4, sver := 0, dver := 0
    done := done, wnext := wnext }

/-- A state in which context 0 has a job. -/
def working (j : Job) : State :=
  let s := moves .load
  { s with ctxs := s.ctxs.map fun c => { c with jobs := [j] } }

/-- A collective's part. -/
def part (fn7 : Nat) (root : Word) (data : List Byte) : Part :=
  { pkg := 0, tile := 0, fn7 := fn7, ctl := 0x40, root := root, srcFmt := 1, dstFmt := 1, srcBytes := 4, dstBytes := 4, data := data }

theorem witness_CopEngineEvents :
    let s := ready .load
    let r := req 1 1 5
    ((asked s r).arg = .num 1 ∧ ((asked s r).reqs.find? fun r => r.n == 1) = some r ∧ r.phase = 0 ∧ (asked s r).copBehind r = false ∧
      ∃ u st data, copFn r.fn7 r (asked s r) = (u, .done st data)) ∧
    (let t : State := { s with reqs := [req 0 0 0, r], arg := .num 1 }
     (t.reqs.find? fun r => r.n == 1) = some r ∧ r.mode < 3 ∧ t.copBehind r = true) ∧
    (let q := { r with phase := 9 }
     let t := (asked s q).setCore { (asked s q).core with hold := some (.reply 1) }
     (t.reqs.find? fun r => r.n == 1) = some q ∧ q.phase = 9 ∧ q.raise = none ∧ q.dbar = none ∧ q.sbar = none ∧ t.tile.resident = true ∧
       t.tile.task.id = q.tid ∧ t.tile.halted = false ∧ (t.tile.core q.core).fin = false ∧ (t.tile.core q.core).hold = some (.reply 1)) ∧
    (let q := { r with mode := 2, phase := 9 }
     let t := (asked s q).setCore { (asked s q).core with pend := [(5, .reply 1)] }
     q.status = 0 ∧ (t.tile.core q.core).hold = none ∧ (q.gd, Hold.reply 1) ∈ (t.tile.core q.core).pend) ∧
    (let q := { r with mode := 0, gd := 0, phase := 9, status := 2 }
     ((asked s q).tile.core q.core).hold = none ∧ ∀ p ∈ ((asked s q).tile.core q.core).pend, p.2 ≠ .reply 1 ∧ ∀ w, p.2 ≠ .cop 1 w) ∧
    (let g (s : State) := s.setTile { s.tile with task := { s.tile.task with gang := true } }
     let q := { r with fn7 := 5, phase := 1, ep := some episode }
     let t := ev (asked (g s) q) (.ep episode)
     t.epFull episode = true ∧ t.epReqs episode = [q] ∧ episode ∉ t.gone ∧ episode.scope ≠ 4 ∧ t.toldBy episode t.self = none ∧
       (ev (g s) (.ep episode)).epFull episode = false ∧ ∃ p, t.partOf q = some p ∧ p.2 = none ∧ collCheck (rankParts [p.1]) = 0 ∧
         collUnread (rankParts [p.1]) = false) ∧
    collCheck (rankParts [{ part 0 0 [] with tile := 1 }, part 1 0 []]) ≠ 0 ∧
    ((working (job 2 0 [])).job? 0 1 = some (job 2 0 []) ∧ (job 2 0 []).nextX < (job 2 0 []).wnext + 64 ∧ (working (job 2 0 [])).now < (job 2 0 []).wtime + 3000) ∧
    ((job 2 0 (List.range 64)).wnext + 64 ≤ (job 2 0 (List.range 64)).nextX ∧
      ∃ u, (working (job 2 0 (List.range 64))).gwrite 0 0x1000 (job 2 0 (List.range 64)).record = .ok u) ∧
    (3 ∉ (job 2 0 []).done ∧ 3 ∈ (job 2 0 [3]).done) :=
  ⟨⟨rfl, rfl, rfl, rfl, _, _, _, rfl⟩, ⟨rfl, by decide, rfl⟩, ⟨rfl, rfl, rfl, rfl, rfl, rfl, rfl, rfl, rfl, rfl⟩, by decide, ⟨rfl, fun _ h => nomatch h⟩,
    ⟨by decide, by decide, by decide, by decide, rfl, by decide, _, rfl, rfl, rfl, rfl⟩, by decide, by decide, ⟨by decide, _, rfl⟩, by decide⟩

theorem witness_CollectiveResults :
    ((part 0 0 [1, 0, 0, 0]).fn7 = 0 ∧ collRed (part 0 0 []).ctl = 0 ∧ Fmt.ofCode (part 0 0 []).dstFmt.toNat = some .int32) ∧
    (part 1 0 []).fn7 = 1 ∧ ((part 4 1 []).fn7 = 4 ∧ [part 4 1 [], part 4 1 [7]][(1 : Word).toNat]? = some (part 4 1 [7])) := by decide

/-- A state whose load core has raised ebreak, and its capture. -/
def stopped : State := ev ((ready .load).takeTrap (some .load) { cls := .brk }) (.tile 0)

/-- A trap record of that stop, in slot 0 of quad 0, handled by a context; its run is under way or not. -/
def record (h : Option Nat) (run : Bool) : Mail :=
  { n := 0, quad := h.map fun _ => 0, slot := h.map fun _ => 0, trap := { cls := .brk }, tid := some 0, tile := some 0, core := some .load, fctx := 1
    passed := none, hctx := h, found := none, writes := [], record := 0, running := if run then some (0, 0, 0) else none }

/-- A child of the keystone. -/
def child : Ctx := { Ctx.keystone with cnum := 1, depth := 1 }

/-- The stopped task of the child under a handler's run. -/
def handled (t : Trap) : State :=
  let s := (ready .load).takeTrap (some .load) t
  { s with mail := [{ record (some 0) true with trap := t }], ctxs := [.keystone, child], arg := .quad 0 }

theorem witness_StopsAndHandlers :
    (stopped.arg = .tile stopped.tile.ptile ∧ stopped.tile.stop = some { trap := { cls := .brk }, core := some .load, captured := false } ∧
      stopped.tile.resident = true ∧ ∀ c h, (stopped.tile.core c).hold = some h → ∀ i r k, h ≠ .packet i r k) ∧
    ((stopped.setCore { stopped.core with hold := some (.packet 1 5 quiet) }).tile.core .load).hold = some (.packet 1 5 quiet) ∧
    ((ready .load).setTile { (ready .load).tile with tumbler := 4096 }).tile.tumbler = 4096 ∧
    (let s : State := { stopped with mail := [record none false], ctxs := [.keystone, child] }
     s.mail = [record none false] ∧ s.ctx? 1 = some child ∧ child.parent = 0 ∧ child.destroyed = false) ∧
    (let s : State := { moves .load with mail := [record (some 0) false], arg := .quad 0 }
     let m := { record (some 0) false with found := some (0, some (0x40, 0x1000)) }
     s.running 0 = none ∧ (s.mail.find? fun m => m.quad == some 0) = some (record (some 0) false) ∧
       ({ s with mail := [m] }.mail.find? fun m => m.quad == some 0) = some m ∧ s.xlate 0 0x40 3 = .ok 0x40 ∧ s.poisoned 0x40 2 = false ∧
       s.xlate 0 (2 ^ 44) 3 = .error .xlateNone) ∧
    ((handled { cls := .brk }).running 0 = some (record (some 0) true) ∧ (record (some 0) true).tid = some (handled { cls := .brk }).tile.task.id ∧
      (handled { cls := .brk }).tile.resident = true ∧ ((handled { cls := .brk }).tile.core .load).fin = false ∧
      (handled { cls := .brk }).tile.namedOp { cls := .brk } = none) ∧
    (let t : Trap := { cls := .memError, async := true, engine := 1, op := some ⟨0, .load, 3, 2, 0, 0⟩ }
     let s := withOps (handled t) [{ copyOp 3 0 with running := false, fault := some t, reported := true }]
     s.tile.namedOp t = some { copyOp 3 0 with running := false, fault := some t, reported := true }) ∧
    (let s : State := pushing stopped
     s.tile.pushes = [{ at_ := 9, key := mem0 + 4096, val := 0 }] ∧ s.bars = []) ∧
    ((handled { cls := .brk }).tile.heldFault = none ∧ (record (some 0) true).writes = []) :=
  ⟨⟨rfl, rfl, rfl, by intro c h e; cases c <;> exact nomatch (show none = some h from e)⟩, rfl, rfl, ⟨rfl, rfl, rfl, rfl⟩,
    ⟨rfl, rfl, rfl, rfl, rfl, rfl⟩, ⟨rfl, rfl, rfl, rfl, rfl⟩, by decide +kernel, ⟨rfl, rfl⟩, rfl, rfl⟩

theorem witness_HandlerAccesses :
    (let m := record (some 0) true
     let s : State := { moves .load with mail := [m], arg := .qmc 0 .load 0x40 4 [] }
     let t : State := { s with ctxs := [.keystone, child] }
     s.running 0 = some m ∧ m.slot = some 0 ∧ (s.gread 0 0x40 4).toBool = true ∧ (t.gread 1 0x40 4).toBool = false ∧
       m.tid = some s.tile.task.id ∧ s.tile.resident = true ∧ (s.gwrite 0 0x40 [1]).toBool = true ∧ (t.gwrite 1 0x40 [1]).toBool = false) ∧
    (let m := { record (some 0) true with tid := none, slot := some 31 }
     ({ ready .load with mail := [m] } : State).running 0 = some m ∧ m.slot = some 31 ∧ m.tid = none ∧
       0xE0000000 + 0x400000 * 31 + 0x228000 ≤ 0xF0000000) ∧
    (let m := { record (some 0) true with writes := [(163840 + 0x1FFFFF, 7)] }
     let s : State := { handled { cls := .brk } with mail := [m] }
     s.running 0 = some m ∧ m.tid = some s.tile.task.id ∧ s.tile.resident = true ∧ (s.tile.core .load).fin = false ∧
       s.tile.namedOp { cls := .brk } = none ∧ s.tile.heldFault = none ∧
       m.writes = ([7].mapIdx fun i b => (163840 + 0x1FFFFF + i, b)) ∧ 163840 + 0x1FFFFF < 163840 + s.tile.task.limit ∧ s.bars = []) ∧
    leNat (leBytes 32 (10 * 2 ^ 50)) / 2 ^ 50 % 16 ≤ 10 := by decide +kernel

/-- A NOP, NODE or GRAPH packet, and its record in a queue. -/
def packet (opc : Nat) (st : Nat) : Pkt := { q := 3, idx := 9, pkt := BitVec.ofNat 512 opc, st := st, cnum := 0, nodes := [] }

/-- A queue in host memory, enabled. -/
def queue (hold : Bool) : QSt := { n := 3, desc := BitVec.ofNat 256 (3 + (if hold then 4 else 0) + 4 * 2 ^ 8 + 0x8000 * 2 ^ 64 + 0x4000 * 2 ^ 128 + 0x5000 * 2 ^ 192), rd := 9, wr := 9, ival := 64, due := 0 }

theorem witness_QueuesAndNodes :
    (let s : State := { moves .load with packets := [packet 1 1], arg := .cmd 3 1 }
     s.startedPkt 3 1 = some (packet 1 1) ∧ s.isLost 0 = false ∧ (s.decrement 0 0 none none).2 = .zero ∧
       ({ s with ctxs := s.ctxs.map fun c => { c with lost := true } } : State).isLost 0 = true) ∧
    (let s : State := { (moves .load).writeNat 0x4C 2 1 with arg := .node 0 0x40 none }
     (match s.gread 0 0x40 64, s.gatomic 0 0x4C 2 with
      | .ok (_, bs), .ok (u, k) => k == 0x4C && nodeField (BitVec.ofNat 512 (leNat bs)) 96 16 == 1 && (u.nodeRec 0 0x40).st == 0
      | _, _ => false) = true) ∧
    (let s : State := { moves .load with packets := [packet 0 3], queues := [queue false], arg := .num2 3 9 }
     (s.packets.find? fun x => x.q = 3 ∧ x.idx = 9 ∧ x.st = 3) = some (packet 0 3) ∧ pktSig (packet 0 3).pkt = false ∧ (queue false).host = true) ∧
    (let s : State := { moves .load with queues := [queue false], arg := .num 3 }
     let k := hostKey 0x4000
     s.nextDue = some (queue false) ∧ s.scanAt ≤ s.now ∧ (queue false).ok = true ∧ (queue false).host = true ∧ 0 < (queue false).ival ∧
       (queue false).widx = 0x4000 ∧ leNat (Mem.readRange (s.writeNat k 8 9).mem k 8) = 9 ∧ leNat (Mem.readRange (s.writeNat k 8 10).mem k 8) = 10 ∧
       pktOk 0 = true ∧ ({ s with scanAt := 12 } : State).now < 12 ∧ ({ s with queues := [] } : State).nextDue = none) ∧
    ((queue true).enabled = true ∧ (queue true).hold = true ∧ ((queue false).enabled && (queue false).host && (queue false).hold) = false) :=
  ⟨by decide +kernel, by decide +kernel, by decide +kernel, by decide +kernel, by decide +kernel⟩
/-! ### Witnesses: tasks, code, fabric, power, host -/

/-- Node 0x40 of context 0 in the launcher's table. -/
def node (st : Nat) (left : Nat) (place : List Nat) : NodeRec where
  cnum := 0
  addr := 0
  st := st
  ended := false
  run := 0
  img := BitVec.ofNat 512 (2 ^ 160)
  readyAt := 0
  order := 0
  src := none
  place := place
  left := left
  a0 := 0
  dead := false

/-- A task with every stream done. -/
def finished (s : State) : State := ev (s.setTile (s.tile.mapCores fun c => { c with fin := true })) (.tile 0)

/-- A save area in the keystone's memory for context 1, whose tile 0 it holds. -/
def saver : Ctx := { child with save := 0x10000, saveKB := 4096, tmap := [{ l := 0, p := 0 }], out := true, deadline := some 0 }

/-- An image in slot 0 of context 1's save area. -/
def image : Image := { slot := 0, gen := 1, valid := false, tile := .empty 0, bars := [], errs := [], disp := none, writes := [] }

theorem witness_TasksAndSaves :
    (let s : State := { ready .load with nodes := [] }
     s.waitingWork = [] ∧ ({ s with nodes := [node 1 1 [0]] } : State).waitingWork = [.node 0 0 0 0 0] ∧ nodeGang (node 1 1 [0]).img = false ∧ s.runnable 0 = true) ∧
    ((ready .load).taskDone = false ∧ (finished (ready .load)).taskDone = true ∧ (finished (ready .load)).tile.stop = none ∧
      ¬(((finished (ready .load)).nodeRec 0 0).st = 2) ∧
      (let s : State := { finished (ready .load) with nodes := [node 2 1 []] }
       (s.nodeRec 0 0).st = 2 ∧ (s.nodeRec 0 0).run = s.tile.task.run ∧ (s.nodeRec 0 0).left = 1)) ∧
    (let s := (ready .load).setTile { (ready .load).tile with drain := some 0 }
     s.tile.drain = some 0 ∧ 0 ≤ s.now ∧ s.tile.resident = true ∧ s.tile.saving = none) ∧
    (let s : State := ev (ready .load) (.tile 0)
     let t : State := { s.setTile { s.tile with saving := some 0, task := { s.tile.task with cnum := 1, limit := 0 } } with ctxs := [.keystone, saver] }
     t.tile.saving = some 0 ∧ t.tile.resident = true ∧ t.tile.unsettled = false ∧ t.ctx? 1 = some saver ∧ saver.freeSlot = some 0 ∧
       t.savePoisoned t.tile = false) ∧
    (let x := { saver with saved := [image] }
     let s : State := { State.reset with ctxs := [.keystone, x], arg := .num 1 }
     s.ctx? 1 = some x ∧ (s.tiles.any fun t => t.resident && t.task.cnum == 1 && (t.saving.isSome || x.out)) = false ∧
       (∃ i ∈ x.saved, i.valid = false) ∧ x.areaFits = true) ∧
    (let s : State := { (ready .load).setTile { (ready .load).tile with task := { (ready .load).tile.task with cnum := 1 } } with ctxs := [.keystone, saver], arg := .num 1 }
     s.ctx? 1 = some saver ∧ saver.out = true ∧ saver.deadline = some 0 ∧ 0 ≤ s.now ∧ s.lateDies saver = [0] ∧
       ({ s with tile := .empty 0 } : State).lateDies saver = []) ∧
    (let x := { saver with saved := [{ image with valid := true }], out := false, deadline := none }
     let s : State := { State.reset with ctxs := [.keystone, x], arg := .num2 1 0 }
     s.ctx? 1 = some x ∧ (x.saved.find? fun i => i.slot == 0 && i.valid) = some { image with valid := true } ∧ s.runnable 1 = true ∧ x.lost = false ∧
       x.held = [] ∧ x.held.length < 3584) := by
  refine ⟨by decide +kernel, by decide +kernel, by decide, ⟨rfl, rfl, rfl, rfl, by decide, by decide⟩, ⟨rfl, by decide, ⟨image, List.mem_singleton.mpr rfl, rfl⟩, by decide⟩,
    ⟨rfl, rfl, rfl, by decide, by decide, by decide⟩, rfl, rfl, by decide, rfl, rfl, by decide⟩

/-- The context with its one image committed in generation 1, and a state whose save area says so. -/
def waiter : Ctx := { saver with saved := [{ image with valid := true }], out := false, deadline := none, gen := 1 }

/-- The save area of that context: GEN 1 in its header, and slot 0's entry of the directory. -/
def kept : State :=
  { (State.reset.writeNat 0x10000 8 1).writeNat 0x11000 16 (dirEntry 0 0 0 true) with ctxs := [.keystone, waiter], arg := .num2 1 0 }

theorem witness_Restoring :
    kept.ctx? 1 = some waiter ∧ (waiter.saved.find? fun i => i.slot == 0 && i.valid) = some { image with valid := true } ∧
    ({ image with valid := true } : Image).tile.task.gang = false ∧ waiter.held = [] ∧
    kept.restoreTile waiter { image with valid := true } [] = some (0, 0) ∧
    ∃ v h w d y b t z, kept.gread 0 0x10000 4096 = .ok (v, h) ∧ v.gread 0 0x11000 16 = .ok (w, d) ∧ w.gread 0 0x20000 163840 = .ok (y, b) ∧
      leNat (h.take 8) = 1 ∧ leNat (h.drop 26) = 0 ∧ leNat d = dirEntry 0 0 0 true ∧
      y.gwrite 0 0x11000 (leBytes 16 (dirEntry 0 0 0 false)) = .ok t ∧ t.gwrite 0 0x12000 (List.replicate 16 0) = .ok z :=
  ⟨rfl, rfl, rfl, rfl, by decide +kernel, _, _, _, _, _, _, _, _, rfl, rfl, rfl, by decide +kernel, by decide +kernel, by decide +kernel, rfl, rfl⟩

/-- A write of a remote word that is in flight, and what waits for a restoration. -/
theorem witness_WaitsAcrossPackages :
    (let s := moves .load
     s.relPending { l := 1, p := 5, rcref := 0 } 0 = false ∧
       ({ s with unacked := [sent .load] } : State).relPending { l := 1, p := 5, rcref := 0 } 0 = true ∧
       s.countsFull .load { l := 1, p := 5, rcref := 0 } 0 0 = false) ∧
    (let s : State := { State.reset with due := [⟨0, .restore, .num2 1 0⟩] }
     s.settling = true ∧ State.reset.settling = false) ∧
    ((ready .load).inFlight 0 = false ∧ (ready .load).countsReady = true) := by decide +kernel

theorem witness_SliceTick :
    let s : State := { State.reset with ctxs := [.keystone, child] }
    0 < s.tickNew ∧ s.ctx? 1 = some child ∧ child.cnum = 1 ∧ child.parent = 0 ∧ s.ctx? 0 = some .keystone ∧ (∀ t ∈ s.tiles, t.resident = false) :=
  ⟨by decide, rfl, rfl, rfl, rfl, by decide⟩

/-- A generation of one page whose image lies at 0 in the keystone's space. -/
def code (hash : List (List Byte)) : Code := { cnum := 0, ident := 1, gen := 1, slot := 0, size := 4, checked := [], image := 0, hash := hash }

theorem witness_CodePages :
    let s (h : List (List Byte)) : State := { moves .load with codes := [code h], arg := .fetch 0 .load 0 }
    let bs := List.replicate 65536 0
    ((s []).tile.halted = false ∧ (s []).tile.resident = true ∧ (s []).codeOf (s []).tile.task = some (code []) ∧ (code []).quarantined = false) ∧
    ((code [Config.shake256 bs 32]).hash[0]? = some (Config.shake256 bs 32) ∧ (code []).hash[0]? ≠ some (Config.shake256 bs 32)) ∧
    (let t : State := { State.reset with codes := [{ code [] with unload := some 1 }] }
     t.olderTask 1 = false ∧ (moves .load).olderTask 1 = true) :=
  ⟨⟨rfl, rfl, rfl, rfl⟩, ⟨rfl, nofun⟩, by decide⟩

/-- A packet of a type to this package. -/
def pkt (type : BitVec 4) : Packet := { (sent .load).pkt with type := type, src := 5, dst := 0, addr := 0x40, data := [1, 0, 0, 0], id := 7, operand := 4 }

/-- A link. -/
def link (n : Nat) : Link := { n := n, enabled := true, failTx := false, failRx := false, keyexh := false, counter := 2 ^ 48 - 16, cur := some (7, 9), next := none, olds := [], tries := 3, failed := 0,
                                blocks := [{ counter := 0, switch := false, wire := .pkt (pkt 0) }], low := false }

theorem witness_FabricArrivals :
    let s : State := { moves .load with links := [link 4] }
    ((pkt 0).dst = s.self ∧ s.malformed (pkt 0) = false ∧ s.linkOpen (pkt 0) = true ∧ (moves .load).linkOpen (pkt 0) = false ∧
      (s.bound (pkt 0).src (pkt 0).ctx (pkt 0).sctx).isSome = true ∧ s.tableFull (pkt 0) = false) ∧
    (s.gwriteRuns 0 (packetSpans (pkt 0) 4) [1, 0, 0, 0]).toBool = true ∧ (s.greadRuns 0 (packetSpans (pkt 1) 4)).toBool = true ∧
    (s.bound 5 1 0).isNone = true ∧ (s.orderOf (pkt 0)).flags = [] ∧ s.converting = false ∧
    (let f := { pkt 4 with counts := [1, 0, 0, 0], ogrp := 1 }
     let reached (t : State) : Bool := ((t.orderOf f).applied.zip f.counts).all fun x => decide (x.2 ≤ x.1)
     let e : OrderEntry := { src := 5, tile := 0, core := 0, group := 1, applied := [1, 0, 0, 0], broken := false, flags := [] }
     s.malformed f = false ∧ (s.orderOf f).broken = false ∧ reached s = false ∧ reached { s with orders := [e] } = true ∧
       (({ s with orders := [{ e with broken := true }] } : State).orderOf f).broken = true ∧ (5 : BitVec 12) ∉ s.lostPkgs ∧ s.usable 5 ≠ []) ∧
    (let f := { pkt 5 with counts := [1, 0, 0, 0], ogrp := 1, data := [] }
     let reached (t : State) : Bool := ((t.orderOf f).applied.zip f.counts).all fun x => decide (x.2 ≤ x.1)
     let e : OrderEntry := { src := 5, tile := 0, core := 0, group := 1, applied := [1, 0, 0, 0], broken := false, flags := [] }
     let u : State := { s with orders := [e] }
     s.malformed f = false ∧ s.linkOpen f = true ∧ s.tableFull f = false ∧ u.tableFull f = false ∧ (u.orderOf f).flags = [] ∧
       (u.orderOf f).broken = false ∧ reached u = true ∧ reached s = false ∧
       (({ s with orders := [{ e with broken := true }] } : State).orderOf f).broken = true) ∧
    (s.malformed (pkt 9) = true ∧ s.linkOpen (pkt 9) = true ∧ ({ pkt 0 with spare := 1 } : Packet).spare ≠ 0) ∧
    (let t : State := { s with orders := List.replicate 8192 { src := 9, tile := 0, core := 0, group := 1, applied := [], broken := false, flags := [] } }
     t.tableFull { pkt 0 with ogrp := 2 } = true ∧ t.tableFull { pkt 5 with ogrp := 2 } = true) := by decide +kernel

theorem witness_PacketLayout :
    (pkt 0).type ≠ 3 ∧ (pkt 0).type ≠ 6 ∧ (pkt 0).spare = 0 ∧ ({ pkt 4 with counts := [1, 2, 3, 4] } : Packet).counts = [1, 2, 3, 4] := by decide

theorem witness_FabricAnswersAndLinks :
    (let u := { sent .load with pkt := { pkt 0 with src := 0, dst := 5 } }
     let s : State := { ready .load with unacked := [u], links := [link 4] }
     s.linkOpen (pkt 3) = true ∧ s.malformed (pkt 3) = false ∧ s.sent? (pkt 3) = some u ∧ s.sent? { pkt 3 with id := 8 } = none ∧ u.own = .rel ∧ u.write = true ∧ s.tile.resident = true ∧ s.tile.task.id = u.tid ∧
       s.tile.halted = false ∧ (s.tile.core u.core).fin = false ∧ (∀ d, (s.tile.core d).relMark = none)) ∧
    (let u := { sent .load with pkt := { pkt 0 with src := 0, dst := 5 }, again := true }
     ({ ready .load with unacked := [u] } : State).unacked.find? (fun v => v.pkt.id == 7 && v.pkt.dst == 5 && v.again) = some u) ∧
    (let u := { sent .load with pkt := { pkt 1 with src := 0, dst := 5 }, own := .acq, write := false }
     let s : State := { ready .load with unacked := [u], links := [link 4] }
     let t := s.setCore { s.core with hold := some (.packet 7 5 quiet) }
     t.linkOpen (pkt 2) = true ∧ t.malformed (pkt 2) = false ∧ t.sent? (pkt 2) = some u ∧ (t.tile.core u.core).hold = some (.packet u.pkt.id 5 quiet)) ∧
    (let o := { copyOp 3 0 with remote := some { l := 1, p := 5, rcref := 0 }, dbar := some mem0 }
     let s := slot0 (withOps (ready .load) [o]) open1
     s.tile.op? .load 3 = some o ∧ o.acked = [] ∧ o.parts = [(0, 64)] ∧ (s.bar mem0).live = true) ∧
    ((moves .load).bound 5 0 0).isSome = true ∧ ((moves .load).bound 5 1 0).isNone = true ∧
    (let s : State := { State.reset with links := [link 2] }
     (s.links.find? fun l => l.n == 2) = some (link 2) ∧ (∀ b ∈ (link 2).blocks, ∃ p, b.wire = .pkt p) ∧ s.spoiled = [] ∧ s.reqs = [] ∧
       (farEnd 0 4).isSome = true ∧ ({ s with links := [link 4] } : State).usable 5 ≠ [] ∧ { link 2 with enabled := false }.enabled = false ∧ (link 2).enabled = true ∧ (link 2).failRx = false ∧ (link 2).failTx = false ∧ 3 ≤ (link 2).tries ∧
       2 ^ 48 ≤ { link 2 with counter := 2 ^ 48 }.counter ∧ (link 2).next = none ∧ (link 2).keyexh = false ∧ { link 2 with tries := 2 }.tries < 3 ∧
       { link 2 with counter := 2 ^ 48 - 1 }.counter < 2 ^ 48 ∧ (5 : BitVec 12) ∉ s.lostPkgs ∧ (5 : BitVec 12) ≠ s.self) :=
  ⟨⟨by decide +kernel, by decide +kernel, rfl, rfl, rfl, rfl, rfl, rfl, rfl, rfl, fun d => by cases d <;> rfl⟩, rfl,
    ⟨by decide +kernel, by decide +kernel, rfl, rfl⟩, ⟨rfl, rfl, rfl, by decide⟩, rfl, rfl, rfl,
    by intro b h; rw [List.mem_singleton.mp h]; exact ⟨_, rfl⟩, by decide +kernel⟩

theorem witness_PowerErrorsAndBoot :
    let p := Power.up
    (p.limit = p.set ∧ p.hot = false) ∧ ({ p with hot := true } : Power).hot = true ∧ ({ p with limit := 2700000 } : Power).limit ≠ p.set ∧
    ((∃ x ∈ [30, 115], 115 ≤ x) ∧ (∃ x ∈ [30, 105], 105 ≤ x) ∧ ∀ x ∈ [30, 99], x < 100) ∧
    (({ p with cool := some 0 } : Power).cool = some 0 ∧ 0 + millisecond ≤ (later State.reset 3000000).now) ∧
    (struck 0 31).isSome = true ∧ (State.reset.power.on = true ∧ State.reset.power.dies = true ∧ ({ p with on := false } : Power).on = false ∧ ({ p with dies := false } : Power).dies = false) ∧
    (State.reset.boot.ready = false ∧ State.reset.boot.err < 8 ∧ State.reset.imageNat 0 4 ≠ 1 ∧ State.reset.bootCheck = 1) ∧
    (let s := (((State.reset.writeNat windowKey 4 1).writeNat (windowKey + 4) 4 3137).writeNat (windowKey + 16) 4 1857).writeNat (windowKey + 24) 4 1857
     s.imageNat 0 4 = 1 ∧ s.imageNat 4 4 = 3137 ∧ layoutOk (s.imageNat 4 4) (s.imageNat 16 4) (s.imageNat 20 4) (s.imageNat 24 4) (s.imageNat 28 4) = true ∧
       s.boot.minSvn ≤ s.imageNat 8 4 ∧ (s.imageNat 12 1).testBit s.boot.life = false) := by decide +kernel

theorem witness_HostAccessesAndRegisters :
    let s := moves .load
    let piece (a m : Nat) : Prop := a % 65536 + m ≤ 65536 ∧ a + m ≤ 768 * 2 ^ 30 ∧ 0 < m
    ((s.fnCtx 0).isSome = true ∧ (s.func 0).on = true ∧ 0x40 + 4 ≤ 2 ^ (s.func 0).aplog ∧ (s.gwrite 0 0x40 [1, 2, 3, 4]).toOption.isSome = true ∧
      (s.gread 0 (2 ^ 44) 4).toOption.isNone = true) ∧
    (piece 0x20000 4 ∧ s.hdmGranted 0x20000 = false ∧ s.bars = [] ∧ s.converting = false ∧ s.poisoned 0x20000 4 = false ∧ (s.func 1).on = false) ∧
    (60 < 64 ∧ (s.func 0).bell ≠ 1 ∧ s.boot.ready = false ∧ 2 ^ 24 ≤ 0x1FFFFFC ∧ 0x1FFFFFC < 2 ^ 25) ∧
    (let t : State := { s with boot := { s.boot with ready := true } }
     t.boot.ready = true ∧ (t.ctx? 0).isSome = true ∧ (0x103 : Word).getLsbD 8 = true ∧ mapRule [{ l := 0, p := 0 }, { l := 1, p := 1 }, { l := 3, p := 3 }] = true) := by
  decide +kernel

/-- A mailbox command: OPCODE and the byte arguments from byte 8 on. -/
def cmd (op arg : Nat) : BitVec 512 := BitVec.ofNat 512 (op + arg * 2 ^ 64)

theorem witness_MailboxCommands :
    let s : State := { moves .load with boot := { Boot.up with ready := true, life := 1 } }
    (s.boot.ready = true ∧ (s.fnCtx 0).isSome = true ∧ (s.mailTarget .keystone 0).isSome = true ∧ (s.mailTarget .keystone 9).isNone = true) ∧
    (opcodeOf (cmd 4 0) = 4 ∧ cmdClear [(8, 8)] (cmd 4 (2 ^ 38)) = true ∧ cmdClear [(8, 4)] (cmd 5 (2 ^ 32)) = false ∧
      cmdNat (cmd 4 (2 ^ 38)) 8 8 % 2 ^ (s.func 0).aplog = 0 ∧ cmdNat (cmd 4 1) 8 8 % 2 ^ (s.func 0).aplog ≠ 0) ∧
    (50 ≤ cmdNat (cmd 5 50) 8 4 ∧ cmdNat (cmd 5 100000) 8 4 ≤ 100000 ∧ cmdNat (cmd 5 49) 8 4 < 50) ∧
    (1 ≤ cmdNat (cmd 12 (96 + 256 * 38)) 8 1 ∧ cmdNat (cmd 12 (96 + 256 * 38)) 8 1 ≤ 96 ∧ cmdNat (cmd 12 (96 + 256 * 38)) 9 1 ≤ 38 ∧ (s.func 96).on = false) ∧
    (cmdNat (cmd 1 4095) 8 2 < 4096 ∧ s.boot.life ≠ 0 ∧ (∀ q ∈ s.queues, q.n ≠ 4095) ∧ 4095 ∉ child.queues ∧ child.cnum ≠ 0) ∧
    (opcodeOf (cmd 0 0) = 0 ∧ 13 ≤ opcodeOf (cmd 13 0)) ∧
    (let h : List Byte := [1, 0, 1, 0, 5, 0, 0, 0, 4, 0, 0, 0] ++ List.replicate 4084 0
     headerOk h = true ∧ headerOk (List.replicate 4096 0) = false) ∧
    ((∃ z ∈ ({ s with ctxs := [.keystone, { child with paused := true }] } : State).lineage 1, z.paused = true) ∧ ∀ z ∈ s.lineage 0, z.paused = false) ∧
    (s.boot.keyed = false ∧ s.outWait = [] ∧ cmdNat (cmd 9 4095) 8 2 < 4096 ∧ cmdNat (cmd 10 46) 8 1 < 47 ∧ forward 0 1 = true ∧ forward 1 1 = false) := by
  decide +kernel

/-- RESUME finds a committed area; RESUME of an area with a reserved bit set, and of one never written; a transition that needs no signature. -/
theorem witness_ResumeAndLifecycle :
    let h (gen res : Nat) : List Byte := leBytes 4096 (gen + 1000 * 2 ^ 64 + 50 * 2 ^ 128 + res * 2 ^ 208)
    let d := List.replicate 4096 (0 : Byte)
    (numAt (h 1 0) 8 0 = waiter.gen ∧ waiter.gen ≠ 0 ∧ leNat ((h 1 0).drop 24) = 0 ∧ ∀ j, j < 256 → blockNat d (16 * j) 16 / 2 ^ 80 % 2 = 0) ∧
    leNat ((h 1 1).drop 26) ≠ 0 ∧ (leNat ((h 0 0).drop 26) = 0 ∧ numAt (h 0 0) 8 0 = 0 ∧ ∀ j, j < 256 → blockNat d (16 * j) 16 < 2 ^ 81) ∧
    (let s : State := { State.reset with boot := { Boot.up with life := 1 } }
     forward s.boot.life 2 = true ∧ s.authorised 2 0 = true ∧ forward s.boot.life 0 = false) := by decide +kernel

/-! ### Witnesses: the machine as a whole -/

theorem witness_StepRunsTheDecodedInstruction :
    let s := ready .load
    (∀ d ds, s.due = d :: ds → s.now < d.at_) ∧ s.mayIssue = true ∧ State.reset.mayIssue = false ∧ (s.codeOf s.tile.task).isSome = true ∧
    ((decode .load 0x50000000).toOption = some .nop ∧ (decode .load 0x11).toOption = none) ∧
    (let t : State := { s with due := [⟨0, .fixedLatencyWrite, .none⟩] }
     t.due = ⟨0, .fixedLatencyWrite, .none⟩ :: [] ∧ 0 ≤ t.now ∧ t.power.on = true ∧ t.power.dies = true) :=
  ⟨fun d ds h => (nomatch (show [] = d :: ds from h)), rfl, rfl, rfl, by decide, rfl, by decide, rfl, rfl⟩

theorem witness_DecodeAndEncodeAgree :
    illFormed (.vadd tok 61 59 62) = none ∧ encode (.vadd tok 61 59 62) = some 0x8137_DEFE ∧ isTransfer (.vadd tok 61 59 62) = false ∧
    (decode .compute 0x8137_DEFE).toOption = some (.vadd tok 61 59 62) := by decide

theorem witness_StepKeepsMemoryCanonical : Inv (ready .load) ∧ then_ (step (ready .load)) (fun t => Mem.read t.mem 0 == 0) = true :=
  ⟨writeNat_inv (s := _) reset_wf _ _ _, by decide⟩

theorem witness_MemoryOperations :
    ([7, 8] : List Byte)[1]? = some 8 ∧ (3 < 4 ∨ 4 + 2 ≤ 3) ∧ Mem.wf (Mem.writeRange [] 4 [7, 8]) ∧ Mem.read (Mem.writeRange [] 4 [7, 8]) 5 = 8 :=
  ⟨by decide, by decide, writeRange_wf reset_wf _ _, by decide⟩

/-- The frames' instructions run. -/
theorem witness_Frames :
    then_ (exec (.add 4 5 6) (ready .load [(5, 7), (6, 3)])) (fun t => t.g 4 == 10) = true ∧
    then_ (exec (.sw 6 5 4) (ready .load [(5, 0x100), (6, 3)])) (fun t => Mem.read t.mem (mem0 + 0x104) == 3) = true ∧
    (ready .load).core.fin = false ∧ (ready .load).tile.ops = [] ∧ isPort 7 = false ∧
    then_ (exec (.timeRead 0 5 6 0) (ready .load [(5, 0x100)])) (fun t => t.reqs.length == 1) = true := by decide +kernel
/-! ### Single steps: results worked out by hand from the rules named -/

/-- The value of g4 after an instruction. -/
def g4 (i : Instr) (s : State) (x : Word) : Bool := then_ (exec i s) fun t => t.g 4 == x

/-- R159: the overflowing quotient and the remainder of a zero divisor. -/
theorem test_divide : g4 (.div 4 5 6) (ready .load [(5, 0x80000000), (6, 0xFFFFFFFF)]) 0x80000000 = true ∧
    g4 (.rem 4 5 6) (ready .load [(5, 0xFFFFFFF9)]) 0xFFFFFFF9 = true ∧ g4 (.div 4 5 6) (ready .load [(5, 0xFFFFFFF9), (6, 2)]) 0xFFFFFFFD = true := by decide

/-- R158, R160: arithmetic shift, wrap, signed and unsigned compares. -/
theorem test_arithmetic : g4 (.sra 4 5 6) (ready .load [(5, 0x80000000), (6, 0x24)]) 0xF8000000 = true ∧
    g4 (.addi 4 5 0x7FFF) (ready .load) 0xFFFFFFFF = true ∧ g4 (.slti 4 5 0x7FFF) (ready .load [(5, 0xFFFFFFFE)]) 1 = true ∧
    g4 (.sltiu 4 5 0x7FFF) (ready .load [(5, 5)]) 1 = true ∧ g4 (.add2s 4 5 6) (ready .load [(5, 0x40000001), (6, 3)]) 7 = true := by decide

/-- R168: the jump's target is read before the link is written, and its low bits are dropped. -/
theorem test_jalr : then_ (exec (.jalr 5 5 7) (ready .load [(5, 0x20000)])) (fun t => t.core.pc == 0x20004 && t.g 5 == 0x10004) = true := by decide

/-- R170, R171: a loop of count 2 over one instruction runs it twice. -/
theorem test_loop : then_ (exec (.loopi 2 1) (ready .load)) (fun t =>
    t.core.pc == 0x10004 && then_ (exec .nop t) fun u => u.core.pc == 0x10004 && then_ (exec .nop u) fun v => v.core.pc == 0x10008) = true := by decide

/-- R163, R5: the bytes of a word lie least significant first, and a byte is read with its sign. -/
theorem test_memory : then_ (exec (.sw 6 5 4) (ready .load [(5, 0x100), (6, 0x1234F680)])) (fun t =>
    Mem.read t.mem (mem0 + 0x105) == 0xF6 && g4 (.lb 4 5 4) t 0xFFFFFF80 && g4 (.lhu 4 5 4) t 0xF680) = true := by decide

/-- R156: g0 stays zero. -/
theorem test_g0 : then_ (exec (.addi 0 0 5) (ready .load)) (fun t => t.g 0 == 0) = true := by decide

/-- R37, R163: a stack access below STKLIM and a misaligned word raise their traps. -/
theorem test_traps : then_ (exec (.lw 4 5 2) (ready .load [(5, 0x100)])) (fun t =>
    decide (t.tile.stop = some { trap := { cls := .misalign, access := 1, addr := 0x102 }, core := some .load, captured := false })) = true := by decide

/-- R49, R44: a token put in one cycle is taken in the next. -/
theorem test_tokens : then_ (exec (.qput 0 1 3) (ready .load)) (fun t =>
    then_ (exec (.qtake 4 0 1) { later t 1 with sel := .compute }) fun u => u.g 4 == 0x23) = true := by decide

/-- R220: INT8 addition wraps in each element. -/
theorem test_vadd : then_ (exec (.vadd quiet 3 1 2) (vectors [(1, 0x7F7F, .int8), (2, 0x0102, .int8)])) (fun t =>
    t.core.flight.any fun f => decide (f = ⟨.v 3 0x8081 .int8, 2⟩)) = true := by decide +kernel

/-- R69, R241: 1.0 + 2^-24 rounds to even. -/
theorem test_fadd : then_ (exec (.fadd quiet 4 5 6) (ready .compute [(5, 0x3F800000), (6, 0x33800000)])) (fun t =>
    t.core.flight.any fun f => decide (f = ⟨.g 4 0x3F800000, 4⟩)) = true := by decide +kernel

/-- R242: fcvt of −1.5 to an integer under RNE is −2. -/
theorem test_fcvt : then_ (exec (.fcvtWS quiet 4 5) (ready .compute [(5, 0xBFC00000)])) (fun t =>
    t.core.flight.any fun f => decide (f = ⟨.g 4 0xFFFFFFFE, 4⟩)) = true := by decide +kernel

/-- R404: the classes of the answers of other packages are those that the number names. -/
theorem test_status_classes : [TrapClass.opReserved, .xlateNone, .memError, .ordBroken].map (fun c => statusClass (BitVec.ofNat 8 (refusal c))) =
    [.opReserved, .xlateNone, .memError, .ordBroken] := by decide

/-- The words of two instructions, placed where the first step fetches, run. -/
theorem test_first_step : then_ (step (State.reset.withFetchWord 32 0x0421_7FE0)) (fun t => t.tile.lc.rg 2 == 0xFFFFFFE0 || t.tile.cc.rg 2 == 0xFFFFFFE0) = true ∧
    then_ (step (State.reset.withFetchWord 32 0x0000_0011)) (fun t => t.tile.stop.isSome) = true := by decide

end Sys2Proof.Tests
end

section
/-! SUPPORT. What a read of memory gives after a write and after zeroing, and that a canonical memory is known by its reads (O56). -/

namespace Sys2Proof.Laws

open Machine

/-- Two bytes written: the byte below, both of them, and one of them zeroed. -/
theorem read_two_bytes_written :
    Mem.read (Mem.writeRange [] 4 [7, 8]) 3 = 0 ∧ Mem.read (Mem.writeRange [] 4 [7, 8]) 4 = 7 ∧
    Mem.read (Mem.writeRange [] 4 [7, 8]) 5 = 8 ∧ Mem.read (Mem.zero (Mem.writeRange [] 4 [7, 8]) 4 1) 4 = 0 := by decide +kernel

-- Each lemma is checked before the next is begun: many at once, beside the tests above, need more memory than a check has.
set_option Elab.async false

/-! ### One read -/

theorem read_eq (m : Mem) (a : Nat) : Mem.read m a = ((m.find? fun c => c.1 == a).map (·.2)).getD 0 := by
  unfold Mem.read
  split <;> simp [*]

theorem read_cons (c : Host.Cell) (m : Mem) (a : Nat) : Mem.read (c :: m) a = if c.1 = a then c.2 else Mem.read m a := by
  by_cases h : c.1 = a <;> simp [read_eq, h]

theorem read_absent {m : Mem} {a : Nat} (h : ∀ c ∈ m, c.1 ≠ a) : Mem.read m a = 0 := by
  rw [read_eq, List.find?_eq_none.mpr fun c hc => by simpa using h c hc]
  rfl

theorem read_append_of_absent_left {m n : Mem} {a : Nat} (h : ∀ c ∈ m, c.1 ≠ a) : Mem.read (m ++ n) a = Mem.read n a := by
  rw [read_eq, read_eq, List.find?_append, List.find?_eq_none.mpr fun c hc => by simpa using h c hc]
  rfl

theorem read_append_of_absent_right {m n : Mem} {a : Nat} (h : ∀ c ∈ n, c.1 ≠ a) : Mem.read (m ++ n) a = Mem.read m a := by
  have none : n.find? (fun c => c.1 == a) = none := List.find?_eq_none.mpr fun c hc => by simpa using h c hc
  rw [read_eq, read_eq, List.find?_append, none, Option.or_none]

theorem read_filter_key (m : Mem) (p : Nat → Bool) (a : Nat) :
    Mem.read (m.filter fun c => p c.1) a = if p a then Mem.read m a else 0 := by
  induction m with
  | nil => simp [read_absent]
  | cons c m ih => by_cases hc : p c.1 <;> by_cases ha : c.1 = a <;> simp_all [read_cons]

theorem read_cells (k : Nat) (bs : List Byte) (j : Nat) : Mem.read (Mem.cells k bs) (k + j) = (bs[j]?).getD 0 := by
  induction bs generalizing k j with
  | nil => rfl
  | cons b bs ih =>
    have later : ∀ c ∈ Mem.cells (k + 1) bs, c.1 ≠ k := fun c hc => by have := (mem_cells hc).1; omega
    unfold Mem.cells
    cases j with
    | zero =>
      split
      · next hb => simpa [hb] using read_absent later
      · simp [read_cons]
    | succ j =>
      have hj : Mem.read (Mem.cells (k + 1) bs) (k + (j + 1)) = (bs[j]?).getD 0 := by rw [← ih (k + 1) j]; congr 1; omega
      split <;> simp [read_cons, hj]

/-! ### Reads after a write and after zeroing -/

theorem read_writeRange_inside (m : Mem) (k : Nat) {bs : List Byte} {j : Nat} {b : Byte} (h : bs[j]? = some b) :
    Mem.read (Mem.writeRange m k bs) (k + j) = b := by
  have hj : j < bs.length := (List.getElem?_eq_some_iff.mp h).1
  unfold Mem.writeRange
  rw [read_append_of_absent_left, read_append_of_absent_right, read_cells, h, Option.getD_some]
  · intro c hc
    have := of_decide_eq_true (List.mem_filter.mp hc).2
    omega
  · intro c hc
    have := of_decide_eq_true (List.mem_filter.mp hc).2
    omega

theorem read_writeRange_outside (m : Mem) {k a : Nat} {bs : List Byte} (h : a < k ∨ k + bs.length ≤ a) :
    Mem.read (Mem.writeRange m k bs) a = Mem.read m a := by
  have hcells : ∀ c ∈ Mem.cells k bs, c.1 ≠ a := fun c hc => by obtain ⟨h1, h2, _⟩ := mem_cells hc; omega
  unfold Mem.writeRange
  obtain h | h := h
  · rw [read_append_of_absent_right, read_filter_key m (fun i => decide (i < k)), if_pos (decide_eq_true h)]
    intro c hc
    obtain hc | hc := List.mem_append.mp hc
    · exact hcells c hc
    · have := of_decide_eq_true (List.mem_filter.mp hc).2
      omega
  · rw [read_append_of_absent_left, read_append_of_absent_left hcells, read_filter_key m (fun i => decide (k + bs.length ≤ i)),
      if_pos (decide_eq_true h)]
    intro c hc
    have := of_decide_eq_true (List.mem_filter.mp hc).2
    omega

theorem read_zero (m : Mem) (k n a : Nat) : Mem.read (Mem.zero m k n) a = if k ≤ a ∧ a < k + n then 0 else Mem.read m a := by
  refine (read_filter_key m (fun i => decide (i < k ∨ k + n ≤ i)) a).trans ?_
  by_cases h : k ≤ a ∧ a < k + n
  · rw [if_pos h, if_neg (by simp; omega)]
  · rw [if_neg h, if_pos (by simp; omega)]

/-! ### Extensionality -/

theorem mem_iff_read {m : Mem} (h : Mem.wf m) (c : Host.Cell) : c ∈ m ↔ c.2 ≠ 0 ∧ Mem.read m c.1 = c.2 := by
  obtain ⟨sorted, nonzero⟩ := h
  induction m with
  | nil => simpa [Mem.read] using fun h e => h e.symm
  | cons d m ih =>
    obtain ⟨first, sorted⟩ := List.pairwise_cons.mp sorted
    have ih := ih sorted fun c hc => nonzero c (List.mem_cons_of_mem d hc)
    rw [List.mem_cons, ih, read_cons]
    by_cases hd : d.1 = c.1
    · have absent : Mem.read m c.1 = 0 := read_absent fun e he => by have := first e he; omega
      have hd2 := nonzero d List.mem_cons_self
      rw [if_pos hd, absent]
      constructor
      · rintro (rfl | ⟨h, e⟩)
        · exact ⟨hd2, rfl⟩
        · exact absurd e.symm h
      · rintro ⟨_, e⟩
        exact .inl (Prod.ext hd.symm e.symm)
    · rw [if_neg hd]
      exact or_iff_right fun e => hd (congrArg Prod.fst e).symm

theorem nodup_of_wf {m : Mem} (h : Mem.wf m) : m.Nodup := h.1.imp fun hab e => by subst e; omega

theorem eq_of_read_eq {m n : Mem} (hm : Mem.wf m) (hn : Mem.wf n) (h : ∀ a, Mem.read m a = Mem.read n a) : m = n := by
  have perm : m.Perm n := (List.perm_ext_iff_of_nodup (nodup_of_wf hm) (nodup_of_wf hn)).mpr fun c => by
    rw [mem_iff_read hm, mem_iff_read hn, h]
  exact perm.eq_of_pairwise (fun a b _ _ (hab : a.1 < b.1) (hba : b.1 < a.1) => absurd hab (by omega)) hm.1 hn.1

/-- Settles O56: a write is the cells below it, its own cells and the cells above it, so a read finds its key in one of the
three; a canonical memory lists exactly the keys that do not read 0, in order. -/
theorem memoryOperations : Obligations.MemoryOperations := fun m k n _ =>
  ⟨fun _ _ h => read_writeRange_inside m k h, fun _ h => read_writeRange_outside m h, read_zero m k n,
    fun hm _ hn h => eq_of_read_eq hm hn h⟩

end Sys2Proof.Laws
end

section
/-! SUPPORT. No step leaves the canonical form of memory (O55): one lemma for each function of the model, in the order of its files, and
the step's outcome from them. What a lemma's name ends in says which kind it is.

`_mem`    a function that leaves memory as it was
`_canon`  a function that gives a canonical memory from a canonical one
`_ok`     an access or a part of an instruction, which gives a state or stops: the state it gives is canonical
`_next`   an instruction, an event or the step: the next state, if there is one, is canonical
`_inv`    a function that takes another one, which keeps the canonical form -/

namespace Sys2Proof

open Machine

-- Each lemma is checked before the next is begun: many at once, beside the tests above, need more memory than a check has.
set_option Elab.async false

/-- The canonical form of memory, under a name that `simp` does not take apart. -/
def Canon (m : Mem) : Prop := Mem.wf m

theorem Inv.canon {s : State} (h : Inv s) : Canon s.mem := h

namespace Laws

/-- What a computation gives, if it gives anything, satisfies `P`. -/
def Ok {ε α : Type} (P : α → Prop) (r : Except ε α) : Prop := ∀ a, r = .ok a → P a

/-- The next state, if there is one, is canonical. -/
def NextInv (o : Host.Outcome State Fault Refusal) : Prop := ∀ t, o = .next t → Inv t

@[simp] theorem inv_iff {s : State} : Inv s ↔ Canon s.mem := Iff.rfl

@[simp] theorem ok_ok {ε α : Type} {P : α → Prop} {a : α} : Ok P (.ok a : Except ε α) ↔ P a :=
  ⟨fun h => h a rfl, fun h _ e => by cases e; exact h⟩

@[simp] theorem ok_error {ε α : Type} {P : α → Prop} {e : ε} : Ok P (.error e : Except ε α) := fun _ h => nomatch h

@[simp] theorem ok_ite {ε α : Type} {P : α → Prop} {c : Prop} [Decidable c] {x y : Except ε α} :
    Ok P (if c then x else y) ↔ (c → Ok P x) ∧ (¬c → Ok P y) := by split <;> simp [*]

theorem Ok.bind {ε α β : Type} {P : α → Prop} {Q : β → Prop} {x : Except ε α} {f : α → Except ε β} (hx : Ok P x)
    (hf : ∀ a, P a → Ok Q (f a)) : Ok Q (x >>= f) := by
  cases x with
  | error e => exact ok_error
  | ok a => exact hf a (hx a rfl)

@[simp] theorem ok_bind {ε α β : Type} {Q : β → Prop} {x : Except ε α} {f : α → Except ε β} :
    Ok Q (x >>= f) ↔ ∀ a, x = .ok a → Ok Q (f a) := by
  cases x with
  | error e => exact ⟨fun _ _ he => (nomatch he), fun _ => ok_error⟩
  | ok a => exact ⟨fun h b e => by cases e; exact h, fun h => h a rfl⟩

@[simp] theorem nextInv_next {t : State} : NextInv (.next t) ↔ Canon t.mem :=
  ⟨fun h => h t rfl, fun h _ e => by cases e; exact h⟩

@[simp] theorem nextInv_ite {c : Prop} [Decidable c] {x y : Host.Outcome State Fault Refusal} :
    NextInv (if c then x else y) ↔ (c → NextInv x) ∧ (¬c → NextInv y) := by split <;> simp [*]

@[simp] theorem ite_mem {c : Prop} [Decidable c] {a b : State} : (if c then a else b).mem = if c then a.mem else b.mem :=
  apply_ite State.mem c a b

@[simp] theorem ite_fst {α : Type} {c : Prop} [Decidable c] {a b : State × α} : (if c then a else b).1 = if c then a.1 else b.1 :=
  apply_ite Prod.fst c a b

@[simp] theorem canon_ite {c : Prop} [Decidable c] {a b : Mem} : Canon (if c then a else b) ↔ (c → Canon a) ∧ (¬c → Canon b) := by
  split <;> simp [*]

theorem canon_mem_ite {c : Prop} [Decidable c] {a b : State} (ha : Inv a) (hb : Inv b) : Canon (if c then a else b).mem := by
  split <;> assumption

theorem canon_fst_ite {α : Type} {c : Prop} [Decidable c] {x y : State × α} (hx : Inv x.1) (hy : Inv y.1) :
    Canon (if c then x else y).1.mem := by
  split <;> assumption

theorem foldl_inv {α : Type} {f : State → α → State} {l : List α} {s : State} (hf : ∀ t x, Inv t → Inv (f t x)) (h : Inv s) :
    Inv (l.foldl f s) := by
  induction l generalizing s with
  | nil => exact h
  | cons x l ih => exact ih (hf s x h)

theorem foldl_canon {α : Type} {f : State → α → State} {l : List α} {s : State} (hf : ∀ t x, Inv t → Inv (f t x)) (h : Inv s) :
    Canon (l.foldl f s).mem := foldl_inv hf h

/-- Two states with one memory. -/
def SameMem (t s : State) : Prop := t.mem = s.mem

@[simp] theorem sameMem_iff {s t : State} : SameMem t s ↔ t.mem = s.mem := Iff.rfl

@[simp] theorem foldl_mem {α : Type} {f : State → α → State} {l : List α} {s : State} (hf : ∀ t x, SameMem (f t x) t) :
    (l.foldl f s).mem = s.mem := by
  induction l generalizing s with
  | nil => rfl
  | cons x l ih => exact ih.trans (hf s x)

theorem swap_mem {s t : State} {pt : BitVec 8} (e : s.swap pt = some t) : t.mem = s.mem := by
  unfold State.swap at e
  split at e
  · cases e; rfl
  · split at e
    · exact nomatch e
    · cases e; rfl

theorem onCore_canon {s t : State} {pt : BitVec 8} {c : CoreId} {f : State → State} (e : s.onCore pt c f = some t)
    (hf : ∀ u, Inv u → Inv (f u)) (h : Inv s) : Canon t.mem := by
  unfold State.onCore at e
  split at e
  · exact nomatch e
  · next u hu =>
    obtain ⟨v, hv, rfl⟩ := Option.map_eq_some_iff.mp e
    have hu : Inv u := inv_iff.mpr (by rw [swap_mem hu]; exact h)
    show Canon v.mem
    rw [swap_mem hv]
    exact hf _ hu

@[simp] theorem zero_canon {m : Mem} (h : Canon m) (k n : Nat) : Canon (Mem.zero m k n) := zero_wf h k n

@[simp] theorem writeRange_canon {m : Mem} (h : Canon m) (k : Nat) (bs : List Byte) : Canon (Mem.writeRange m k bs) := writeRange_wf h k bs

section
variable (s : State)

@[simp] theorem mapTile_mem (pt f) : (s.mapTile pt f).mem = s.mem := rfl
@[simp] theorem post_mem (t f st c) : (s.post t f st c).mem = s.mem := rfl
@[simp] theorem notify_mem (t f) : (s.notify t f).mem = s.mem := rfl
@[simp] theorem takeTrap_mem (c t) : (s.takeTrap c t).mem = s.mem := by unfold State.takeTrap; split <;> rfl
@[simp] theorem yields_mem (k n) : (s.yields k n).mem = s.mem := rfl
end

section
variable {s : State} (h : Inv s)
include h

@[simp] theorem writeNat_canon (k n x) : Canon (s.writeNat k n x).mem := writeNat_inv h k n x
@[simp] theorem spoil_canon (k n) : Canon (s.spoil k n).mem := smash_inv h k n _
@[simp] theorem store_canon (k bs) : Canon (s.store k bs).mem := store_inv h k bs
@[simp] theorem storeNat_canon (k n x) : Canon (s.storeNat k n x).mem := storeNat_inv h k n x

theorem finish_next {a : Act State} (ha : Ok Inv a) : NextInv (finish s a) := by
  match a with
  | .ok t => exact fun u e => by cases e; exact ha t rfl
  | .error (.wait w) => simpa [finish] using h.canon
  | .error (.trap t) => simp [finish, h.canon]

theorem finishIssued_next {rs : List GReg} {a : Act State} (ha : Ok Inv a) : NextInv (finishIssued s rs a) := by
  match a with
  | .ok t => exact fun u e => by cases e; exact ha t rfl
  | .error (.wait w) => simpa [finishIssued] using h.canon
  | .error (.trap t) => simp [finishIssued, h.canon]

theorem common_next {rs ws : List GReg} {a : Act State} (ha : Ok Inv a) : NextInv (common s rs ws a) :=
  finish_next h (ok_bind.mpr fun _ _ => ha)

theorem commonIssued_next {rs ws : List GReg} {a : Act State} (ha : Ok Inv a) : NextInv (commonIssued s rs ws a) := by
  unfold commonIssued
  split
  · exact finish_next h ok_error
  · exact finishIssued_next h ha

@[simp] theorem takeBit_inv_ok (yes b) : Ok Inv (takeBit s yes b) := by
  unfold takeBit
  split
  · split
    · simpa using h.canon
    · exact ok_error
  · simpa using h.canon

@[simp] theorem putBit_inv_ok (yes b x) : Ok Inv (putBit s yes b x) := by
  unfold putBit
  split
  · split
    · simpa using h.canon
    · exact ok_error
  · simpa using h.canon

@[simp] theorem tokens_inv_ok (k x) : Ok Inv (tokens s k x) := by
  refine (takeBit_inv_ok h _ _).bind fun t ht => ?_
  refine (takeBit_inv_ok ht _ _).bind fun u hu => ?_
  exact (putBit_inv_ok hu _ _ _).bind fun v hv => putBit_inv_ok hv _ _ _

theorem priv_next {k x dec rs os ws} {body : State → Act State} (hb : ∀ t, Inv t → Ok Inv (body t)) :
    NextInv (priv s k x dec rs os ws body) := by
  refine finish_next h (ok_bind.mpr fun _ _ => ?_)
  refine (tokens_inv_ok h k x).bind fun t ht => ok_bind.mpr fun _ _ => ?_
  exact (hb t ht).bind fun u hu => by simpa using hu.canon
end

/-! ### Integer arithmetic -/

section
variable {s : State} (h : Inv s)
include h

theorem alu_next {f d a b} : NextInv (alu f d a b s) := common_next h (by simp [h.canon])
theorem aluImm_next {f d a} : NextInv (aluImm f d a s) := common_next h (by simp [h.canon])
theorem execLui_next (d i) : NextInv (execLui d i s) := common_next h (by simp [h.canon])
theorem execAuipc_next (d i) : NextInv (execAuipc d i s) := common_next h (by simp [h.canon])
end

/-! ### Registers and handles -/

section
variable (s : State)

@[simp] theorem putH_mem (r x) : (s.putH r x).mem = s.mem := rfl
end

section
variable {s : State} (h : Inv s)
include h

@[simp] theorem putBar_canon (k b) : Canon (s.putBar k b).mem := by simp [State.putBar, h.canon]
@[simp] theorem engineBar_canon (k f) : Canon (s.engineBar k f).mem := by unfold State.engineBar; split <;> simp [h.canon]
@[simp] theorem engineErr_canon (k e t) : Canon (s.engineErr k e t).mem := by unfold State.engineErr; split <;> simp [h.canon]
end

/-! ### Barriers -/

section
variable (s : State)

@[simp] theorem forgetErr_mem (k) : (s.forgetErr k).mem = s.mem := rfl
end

section
variable {s : State} (h : Inv s)
include h

theorem execBarInit_next (c a b) : NextInv (execBarInit c a b s) := common_next h (by simp [h.canon])
theorem barExpect_next {clr c a b} : NextInv (barExpect clr c a b s) := common_next h (by simp [h.canon])
theorem execBarArrive_next (a) : NextInv (execBarArrive a s) := common_next h (by simp [h.canon])
@[simp] theorem barWait_ok (a ends) : Ok Inv (barWait s a ends) := by simp [barWait, h.canon]
theorem execBarWait_next (a b) : NextInv (execBarWait a b s) := commonIssued_next h (by simp [h.canon])
theorem execBarWaitchk_next (c a b) : NextInv (execBarWaitchk c a b s) := commonIssued_next h (by simp [h.canon])
theorem execBarTest_next (d a b) : NextInv (execBarTest d a b s) := common_next h (by simp [h.canon])
@[simp] theorem retireSlot_canon (k) : Canon (s.retireSlot k).mem := by simp [State.retireSlot, h.canon]

theorem execBarRetire_next (a) : NextInv (execBarRetire a s) := by
  refine commonIssued_next h (ok_bind.mpr fun k _ => ?_)
  split <;> simp [h.canon]
end

/-! ### Packets sent -/

section
variable (s : State)

@[simp] theorem watchKey_mem (n) : (s.watchKey n).mem = s.mem := by unfold State.watchKey; split <;> simp
@[simp] theorem onLink_mem (dst path w) : (s.onLink dst path w).mem = s.mem := by simp [State.onLink]

@[simp] theorem emit_mem (dst w) : (s.emit dst w).mem = s.mem := by
  unfold State.emit
  split
  · rfl
  · split
    · rfl
    · cases w <;> simp

@[simp] theorem tell_mem (dst m) : (s.tell dst m).mem = s.mem := by simp [State.tell]
@[simp] theorem nack_mem (p status) : (s.nack p status).mem = s.mem := rfl

@[simp] theorem dispatch_mem (u) : (s.dispatch u).mem = s.mem := by
  simp only [State.dispatch]
  split
  · rfl
  · split
    · rfl
    · split <;> simp

@[simp] theorem flushWaiting_mem : s.flushWaiting.mem = s.mem := by
  simp only [State.flushWaiting]
  rw [foldl_mem fun t w => by cases w <;> simp, foldl_mem fun t u => by simp]

@[simp] theorem sendAs_mem (tid tile c own write elem p) : (s.sendAs tid tile c own write elem p).mem = s.mem := by simp [State.sendAs]
@[simp] theorem sendRaw_mem (c own write elem p) : (s.sendRaw c own write elem p).mem = s.mem := by simp [State.sendRaw]
@[simp] theorem restartCounts_mem (c e g) : (s.restartCounts c e g).mem = s.mem := rfl
@[simp] theorem sendCounts_mem (c e g) : (s.sendCounts c e g).mem = s.mem := by simp [State.sendCounts]
@[simp] theorem sendData_mem (c e own g path elem p) : (s.sendData c e own g path elem p).mem = s.mem := by simp [State.sendData]
@[simp] theorem sendFlag_mem (c e g addr x) : (s.sendFlag c e g addr x).mem = s.mem := by simp [State.sendFlag]
end

/-! ### Fences and hbar -/

section
variable (s : State)

@[simp] theorem relWait_mem (exempt) : (s.relWait exempt).mem = s.mem := rfl
@[simp] theorem relDone_mem : (s.relDone).mem = s.mem := rfl
@[simp] theorem tellAll_mem (c m) : (s.tellAll c m).mem = s.mem := by simp [State.tellAll]
@[simp] theorem hbarArrive_mem (scope) : (s.hbarArrive scope).mem = s.mem := by simp [State.hbarArrive]
@[simp] theorem tellArrival_mem (k) : (s.tellArrival k).mem = s.mem := by simp [State.tellArrival]
@[simp] theorem hbarTell_mem (scope) : (s.hbarTell scope).mem = s.mem := by simp [State.hbarTell]
@[simp] theorem hbarEnd_mem (t c) : (s.hbarEnd t c).mem = s.mem := by simp [State.hbarEnd]
end

section
variable {s : State} (h : Inv s)
include h

theorem fenceRel_next {sc} : NextInv (fenceRel sc s) := common_next h (by simp [h.canon])
theorem execFenceAcq_next (x0) : NextInv (execFenceAcq x0 s) := common_next h (by simp [h.canon])
theorem execFenceAck_next : NextInv (execFenceAck s) := common_next h (by simp [h.canon])
theorem execHbar_next (sc) : NextInv (execHbar sc s) := common_next h (by simp [h.canon])
end

/-! ### Loads and stores of scratch -/

section
variable (s : State)

@[simp] theorem lockWait_mem (l) : (s.lockWait l).mem = s.mem := rfl
@[simp] theorem lockServed_mem (l) : (s.lockServed l).mem = s.mem := rfl
@[simp] theorem lock_mem (l) : (s.lock l).mem = s.mem := rfl
@[simp] theorem unlock_mem (l) : (s.unlock l).mem = s.mem := rfl
end

section
variable {s : State} (h : Inv s)
include h

theorem load_next {n f d a i} : NextInv (load n f d a i s) := common_next h (by simp [h.canon])
theorem storeLow_next {n g a i} : NextInv (storeLow n g a i s) := common_next h (by simp [h.canon])
theorem execLld_next (d a i) : NextInv (execLld d a i s) := commonIssued_next h (by simp [h.canon])

theorem execSul_next (g a i) : NextInv (execSul g a i s) := by
  unfold execSul
  split
  · exact finish_next h ok_error
  · simp [h.canon, finish]

theorem amo_next {f d a reads} : NextInv (amo f d a reads s) := commonIssued_next h (by simp [h.canon])
end

/-! ### Accesses through the address map -/

section
variable (s : State)

@[simp] theorem monitor_mem (c va n w) : (s.monitor c va n w).mem = s.mem := rfl
@[simp] theorem struckAt_mem (cls c va n r w) : (s.struckAt cls c va n r w).mem = s.mem := by simp [State.struckAt]
end

section
variable {s : State} (h : Inv s)
include h

@[simp] theorem gread_ok (c va n) : Ok (Inv ·.1) (s.gread c va n) := by
  unfold State.gread
  split
  · exact ok_error
  · simp [h.canon]

@[simp] theorem lay_canon (l : List (Nat × Nat)) (bs : List Byte) : Canon (s.lay l bs).mem := by
  induction l generalizing s bs with
  | nil => exact h
  | cons p ps ih => exact ih (store_canon (s := s.yields p.1 p.2) h _ _) _

@[simp] theorem gwrite_ok (c va bs) : Ok Inv (s.gwrite c va bs) := by unfold State.gwrite; split <;> simp [h.canon]

@[simp] theorem greadRuns_ok (c : Nat) (l : List (Nat × Nat)) : Ok (Inv ·.1) (s.greadRuns c l) := by
  induction l generalizing s with
  | nil => simpa [State.greadRuns] using h.canon
  | cons r rs ih =>
    unfold State.greadRuns
    split
    · exact ok_error
    · next t bs e =>
      have ih := ih (s := t) (gread_ok h _ _ _ _ e)
      split
      · exact ok_error
      · next u cs e => exact ok_ok.mpr (ih (u, cs) e)

@[simp] theorem layRuns_ok (c : Nat) (l : List (Nat × Nat)) (bs : List Byte) : Ok Inv (s.layRuns c l bs) := by
  induction l generalizing s bs with
  | nil => simpa [State.layRuns] using h.canon
  | cons r rs ih =>
    unfold State.layRuns
    split
    · exact ok_error
    · next t e => exact ih (gwrite_ok h _ _ _ _ e) _

@[simp] theorem gwriteRuns_ok (c rs bs) : Ok Inv (s.gwriteRuns c rs bs) := by
  unfold State.gwriteRuns
  split
  · exact ok_error
  · exact layRuns_ok h _ _ _

@[simp] theorem greadNat_ok (c va n) : Ok (Inv ·.1) (s.greadNat c va n) := by
  unfold State.greadNat
  split
  · exact ok_error
  · next t bs e => exact ok_ok.mpr (gread_ok h _ _ _ _ e)

@[simp] theorem gatomic_ok (c va n) : Ok (Inv ·.1) (s.gatomic c va n) := by unfold State.gatomic; split <;> simp [h.canon]
end

/-! ### Shards of tensors -/

section
variable (s : State)

@[simp] theorem tellSpoilt_mem (c prec ms) : (s.tellSpoilt c prec ms).mem = s.mem := by
  unfold State.tellSpoilt
  split
  · rfl
  · split
    · rfl
    · exact foldl_mem (fun t e => by simp)
end

section
variable {s : State} (h : Inv s)
include h

@[simp] theorem freePages_canon (c k va n : Nat) : Canon (s.freePages c k va n).mem := by
  induction k generalizing s va n with
  | zero => exact h
  | succ k ih =>
    rw [State.freePages]
    split
    · exact h
    · refine ih ?_ _ _
      split
      · exact h
      · simp [h.canon]

@[simp] theorem freeBytes_canon (c va n) : Canon (s.freeBytes c va n).mem := by simp [State.freeBytes, h.canon]

@[simp] theorem freeShard_canon (c prec) : Canon (s.freeShard c prec).mem := by
  unfold State.freeShard
  split
  · exact h
  · dsimp only
    split <;> simp [h.canon]

@[simp] theorem spoilShard_canon (c prec) : Canon (s.spoilShard c prec).mem := by simp [State.spoilShard, h.canon]
@[simp] theorem plain_canon (k n) : Canon (s.plain k n).mem :=
  foldl_canon (fun t x ht => spoilShard_canon (inv_iff.mpr (by simp [ht.canon])) _ _) h
@[simp] theorem settleRace_canon (c prec) : Canon (s.settleRace c prec).mem := by simp [State.settleRace, h.canon]
end

/-! ### System instructions -/

section
variable (s : State)

@[simp] theorem tryComplete_mem : s.tryComplete.mem = s.mem := by
  unfold State.tryComplete
  split
  · rfl
  · split <;> simp

@[simp] theorem endStream_mem : (s.endStream).mem = s.mem := by simp [State.endStream]
end

section
variable {s : State} (h : Inv s)
include h

theorem execNop_next : NextInv (execNop s) := common_next h (by simp [h.canon])
theorem execEcall_next : NextInv (execEcall s) := common_next h (by simp [h.canon])
theorem execEbreak_next : NextInv (execEbreak s) := common_next h (by simp [h.canon])
theorem execDone_next : NextInv (execDone s) := common_next h (by simp [h.canon])
theorem execYield_next : NextInv (execYield s) := common_next h (by simp [h.canon])
theorem execReservedEncoding_next (w) : NextInv (execReservedEncoding w s) := finish_next h ok_error
end

/-! ### Transfers -/

section
variable (s : State)

@[simp] theorem endAsk_mem (c a) : (s.endAsk c a).mem = s.mem := by unfold State.endAsk; split <;> simp
@[simp] theorem opDone_mem (c q) : (s.opDone c q).mem = s.mem := by simp [State.opDone]
@[simp] theorem accept_mem (o) : (s.accept o).mem = s.mem := by simp [State.accept]
@[simp] theorem retrap_mem (t b) : (s.retrap t b).mem = s.mem := rfl
@[simp] theorem breakOwn_mem (t) : (s.breakOwn t).mem = s.mem := by unfold State.breakOwn; split <;> simp
end

section
variable {s : State} (h : Inv s)
include h

theorem transfer_next {k rs} {mk : State → Act Op} : NextInv (transfer s k rs mk) :=
  priv_next h fun t ht => by simp [ht.canon]

theorem execStRel_next (k a g c x) : NextInv (execStRel k a g c x s) := by
  unfold execStRel
  extract_lets
  split
  · exact finish_next h (by simp [h.canon])
  · refine priv_next h fun t ht => ok_bind.mpr fun _ _ => ok_bind.mpr fun at_ _ => ok_bind.mpr fun _ _ => ?_
    split
    · simp [ht.canon]
    · cases at_ with
      | inl key => simp [ht.canon]
      | inr e => simp [ht.canon]

theorem execLdAcq_next (k a g c x) : NextInv (execLdAcq k a g c x s) := by
  unfold execLdAcq
  dsimp only
  split
  · exact finish_next h ok_error
  · exact priv_next h fun t ht => by simp [ht.canon]
  · exact finish_next h (by simp [h.canon])

theorem rat_next {code k a g c} : NextInv (rat code k a g c s) := priv_next h fun t ht => by simp [ht.canon]
theorem execDmaProg_next (k a) : NextInv (execDmaProg k a s) := priv_next h fun t ht => by simp [ht.canon]
theorem execDmaProgRec_next (k a b c) : NextInv (execDmaProgRec k a b c s) := priv_next h fun t ht => by simp [ht.canon]
end

/-! ### cop requests -/

section
variable (s : State)

@[simp] theorem parkCop_mem (a b bs) : (s.parkCop a b bs).mem = s.mem := rfl
@[simp] theorem sendReq_mem (r) : (s.sendReq r).mem = s.mem := by simp [State.sendReq]
@[simp] theorem mapReq_mem (n f) : (s.mapReq n f).mem = s.mem := rfl
@[simp] theorem deviceError_mem (cls cnum va n w) : (s.deviceError cls cnum va n w).mem = s.mem := by simp [State.deviceError]
@[simp] theorem copFault_mem (cnum e) : (copFault s cnum e).1.mem = s.mem := by simp [copFault]
end

section
variable {s : State} (h : Inv s)
include h

theorem cop_next {fn7 blk d a b m} {chk : State → Word → Word → List Byte → Act CopArgs} : NextInv (cop fn7 blk chk d a b m s) :=
  finish_next h (by simp [h.canon])
theorem plainCop_next {fn7 blk ok d a b m} : NextInv (plainCop fn7 blk ok d a b m s) := cop_next h
theorem barCop_next {fn7 ok d a b m} : NextInv (barCop fn7 ok d a b m s) := cop_next h
theorem destCop_next {fn7 al n ok d a b m} : NextInv (destCop fn7 al n ok d a b m s) := cop_next h

theorem putScratch_canon {r a bs} {t : State} (e : s.putScratch r a bs = some t) : Inv t := by
  unfold State.putScratch at e
  split at e
  · cases e; exact h
  · obtain ⟨k, -, rfl⟩ := Option.map_eq_some_iff.mp e
    exact store_inv h _ _

@[simp] theorem copWrites_canon (r a bs out) : Canon (copWrites s r a bs out).1.mem := by
  unfold copWrites
  split
  · exact h
  · split
    · exact h
    · next t e => exact putScratch_canon h e
end

/-! ### The operations of a DMA engine -/

section
variable (s : State)

@[simp] theorem yieldAt_mem (c l as) : (s.yieldAt c l as).mem = s.mem := by
  unfold State.yieldAt
  split
  · rfl
  · exact foldl_mem (fun t a => by split <;> simp)

@[simp] theorem yieldHandle_mem (c x2) : (s.yieldHandle c x2).mem = s.mem := by simp [State.yieldHandle]

@[simp] theorem freeOverlap_mem (o : Op) (us ud : Nat) (l : List (Int × Byte)) :
    (freeOverlap s o us ud l).2.mem = s.mem := by
  induction l generalizing s with
  | nil => rfl
  | cons a as ih =>
    unfold freeOverlap
    split
    · exact ih _
    · exact ih _

@[simp] theorem racTouch_mem (k) : (s.racTouch k).mem = s.mem := rfl
@[simp] theorem mapOp_mem (o f) : (s.mapOp o f).mem = s.mem := rfl
@[simp] theorem dropSent_mem (mine) : (s.dropSent mine).mem = s.mem := rfl
@[simp] theorem cureOp_mem (o units a b) : (s.cureOp o units a b).mem = s.mem := by simp [State.cureOp]
@[simp] theorem watchElem_mem (o e) : (s.watchElem o e).mem = s.mem := by unfold State.watchElem; split <;> simp
@[simp] theorem opEnds_mem (o) : (s.opEnds o).mem = s.mem := by simp [State.opEnds]
@[simp] theorem restart_mem (o) : (s.restart o).mem = s.mem := by simp [State.restart]
@[simp] theorem ratReply_mem (o gd old) : (s.ratReply o gd old).mem = s.mem := by simp [State.ratReply]

@[simp] theorem sendWr_mem (o : Op) (e : PkgMap) (grp : Nat) (paths : List Nat) (s : State) (l : List (Nat × (Nat × Nat) × List Byte)) :
    (sendWr o e grp paths s l).mem = s.mem := by
  induction l generalizing s with
  | nil => rfl
  | cons p r ih =>
    rw [sendWr]
    split
    · rfl
    · rw [ih, sendData_mem]

@[simp] theorem sendRd_mem (o : Op) (e : PkgMap) (paths : List Nat) (s : State) (l : List (Nat × Nat × Nat)) :
    (sendRd o e paths s l).mem = s.mem := by
  induction l generalizing s with
  | nil => rfl
  | cons p r ih => exact (ih _).trans (sendRaw_mem ..)
end

section
variable {s : State} (h : Inv s)
include h

@[simp] theorem writeSides_ok (x : Handle) (u : Nat) (l : List (Int × Byte)) : Ok Inv (writeSides s x u l) := by
  induction l generalizing s with
  | nil => exact ok_ok.mpr h
  | cons a as ih => exact ok_bind.mpr fun k _ => ih (store_inv (s := s.yields k 1) h _ _)

@[simp] theorem writeUnits_ok (o : Op) (us : Nat) (w : List (Int × Byte)) (l : List Nat) : Ok Inv (writeUnits s o us w l) := by
  induction l generalizing s with
  | nil => exact ok_ok.mpr h
  | cons u r ih => exact (writeSides_ok (inv_of_mem h (freeOverlap_mem s o us u w)) _ _ _).bind fun t ht => ih ht

@[simp] theorem moveCopy_ok (o units e) : Ok Inv (moveCopy s o units e) :=
  ok_bind.mpr fun _ _ => writeUnits_ok (inv_of_mem h (yieldAt_mem ..)) _ _ _ _

@[simp] theorem moveGather_ok (o list zoob k) : Ok Inv (moveGather s o list zoob k) := by
  unfold moveGather
  extract_lets
  refine ok_ite.mpr ⟨fun _ => ok_error, fun _ => ok_bind.mpr fun _ _ => ?_⟩
  exact writeSides_ok (inv_of_mem h (yieldAt_mem ..)) _ _ _

@[simp] theorem moveScatter_ok (o list k) : Ok Inv (moveScatter s o list k) := by
  unfold moveScatter
  extract_lets
  refine ok_ite.mpr ⟨fun _ => ok_error, fun _ => ok_ite.mpr ⟨fun _ => ok_error, fun _ => ok_bind.mpr fun _ _ => ?_⟩⟩
  exact writeSides_ok (inv_of_mem h (yieldAt_mem ..)) _ _ _

@[simp] theorem atomicAdd_canon (f k x) : Canon (s.atomicAdd f k x).mem := by simp [State.atomicAdd, h.canon]
@[simp] theorem moveRvat_ok (o e) : Ok Inv (moveRvat s o e) := by simp [moveRvat, h.canon]
@[simp] theorem faultOp_canon (o cls acc addr elem ecode) : Canon (s.faultOp o cls acc addr elem ecode).mem := by
  simp [State.faultOp, h.canon]

@[simp] theorem moveElem_ok (o units e) : Ok Inv (moveElem s o units e) := by
  unfold moveElem
  refine Ok.bind (P := Inv) ?_ fun t ht => by simp [ht.canon]
  split
  · exact moveGather_ok h _ _ _ _
  · exact moveScatter_ok h _ _ _
  · exact moveRvat_ok h _ _
  · exact moveCopy_ok h _ _ _
end

theorem moveElems_inv {f : State → Nat → Except EFault State} (hf : ∀ t e, Inv t → Ok Inv (f t e)) (n e : Nat)
    {s : State} (h : Inv s) : Inv (moveElems f n e s).1 := by
  induction n generalizing s e with
  | zero => exact h
  | succ n ih =>
    unfold moveElems
    split
    · exact h
    · next t ht => exact ih _ (hf s e h t ht)

section
variable {s : State} (h : Inv s)
include h

@[simp] theorem creditOp_canon (o a b) : Canon (s.creditOp o a b).mem := by simp [State.creditOp, h.canon]

@[simp] theorem freeKeys_canon (l : List Nat) : Canon (s.freeKeys l).mem := by
  induction l generalizing s with
  | nil => exact h
  | cons k ks ih => exact ih (store_inv (s := (s.freeVal 8).2) h _ _)

@[simp] theorem spoilDest_canon (o units e) : Canon (s.spoilDest o units e).mem := by simp [State.spoilDest, h.canon]

@[simp] theorem plainKeys_canon (ks) : Canon (s.plainKeys ks).mem := by
  unfold State.plainKeys
  split
  · exact foldl_canon (fun t k ht => plain_canon ht k 1) h
  · exact h

@[simp] theorem plainRuns_canon (c rs) : Canon (s.plainRuns c rs).mem := by
  unfold State.plainRuns
  split
  · exact h
  · refine foldl_canon (fun t r ht => ?_) h
    split
    · exact ht
    · exact foldl_canon (fun u p hu => plain_canon hu _ _) ht

@[simp] theorem runLocal_canon (o n) : Canon (s.runLocal o n).mem := by
  unfold State.runLocal
  extract_lets units
  split
  next t e f heq =>
    have ht : Inv (t, e, f).1 := heq ▸ moveElems_inv (fun t e ht => moveElem_ok ht o units e) _ _ h
    extract_lets t1 t2 t3
    have h1 : Inv t1 := plainKeys_canon ht _
    have h2 : Inv t2 := by simp [t2, h1.canon]
    have h3 : Inv t3 := by simp [t3, h2.canon]
    split <;> simp [h3.canon]

@[simp] theorem atomicWord_ok (c va code x cmp) : Ok (Inv ·.1) (s.atomicWord c va code x cmp) := by
  unfold State.atomicWord
  split
  · exact ok_error
  · next t k e =>
    have ht : Inv t := gatomic_ok h c va 4 _ e
    simp [ht.canon]

@[simp] theorem partDone_canon (o i) : Canon (s.partDone o i).mem := by simp [State.partDone, h.canon]
@[simp] theorem landPart_ok (o p bs) : Ok Inv (s.landPart o p bs) := by simp [State.landPart, h.canon]
@[simp] theorem opPaths_canon (o e paths) : Canon (s.opPaths o e paths).2.mem := by simp [State.opPaths, h.canon]
end

@[simp] theorem landParts_canon (c : CoreId) (q : BitVec 16) (k : Nat) {s : State} (h : Inv s) : Canon (landParts c q k s).mem := by
  induction k generalizing s with
  | zero => exact h
  | succ k ih =>
    unfold landParts
    split
    · exact h
    · split
      · exact h
      · split
        · exact h
        · split
          · exact h
          · split
            · exact h
            · next t e =>
              have ht : Inv t := landPart_ok h _ _ _ t e
              extract_lets t u
              have hu : Inv u := plainKeys_canon (s := t) ht _
              exact ih (by simp [hu.canon])

section
variable {s : State} (h : Inv s)
include h

@[simp] theorem runRemote_canon (o e) : Canon (s.runRemote o e).mem := by
  unfold State.runRemote
  split
  · split <;> simp [h.canon]
  · split
    · exact h
    · split <;> simp [h.canon]
  · simp [h.canon]
  · simp [h.canon]
  · exact h
end

/-! ### Placed loads and stores -/

section
variable (s : State)

@[simp] theorem askBlocks_mem (cnum tid : Nat) (tile : BitVec 8) (core : CoreId) (own : Nat → Own) (e : PkgMap)
    (va k n part : Nat) : (askBlocks s cnum tid tile core own e va k n part).mem = s.mem := by
  induction k generalizing s va n part with
  | zero => rfl
  | succ k ih =>
    rw [askBlocks]
    split
    · rfl
    · exact (ih ..).trans (by simp)

@[simp] theorem askShards_mem (cnum tid tile core own v need) : (s.askShards cnum tid tile core own v need).mem = s.mem :=
  foldl_mem (fun t c => by split <;> simp)

@[simp] theorem tellBlocks_mem (cnum tid : Nat) (tile : BitVec 8) (core : CoreId) (own : Nat → Own) (acked : List Nat)
    (e : PkgMap) (va k : Nat) (bs : List Byte) (part : Nat) : (tellBlocks s cnum tid tile core own acked e va k bs part).mem = s.mem := by
  induction k generalizing s va bs part with
  | zero => rfl
  | succ k ih =>
    rw [tellBlocks]
    split
    · rfl
    · exact (ih ..).trans (by simp)

@[simp] theorem engineFails_mem (o x e) : (s.engineFails o x e).mem = s.mem := rfl
@[simp] theorem placeGo_mem (o img) : (s.placeGo o img).mem = s.mem := by unfold State.placeGo; split <;> simp
end

section
variable {s : State} (h : Inv s)
include h

theorem placeBegin_inv {o desc isLoad} {go : State → Conv → List Nat → State} (hg : ∀ t v c, Inv t → Inv (go t v c)) :
    Inv (s.placeBegin o desc isLoad go) := by
  unfold State.placeBegin
  dsimp only
  split
  · exact h
  · split
    · exact h
    · next v c _ =>
      split
      · exact h
      · have hs := hg s v c h
        have hm := hg (({ s with freeN := s.freeN + v.mesh.count * v.span } : State).mapOp o fun p => { p with free := some v.free }) v c h
        simp only [inv_iff] at hs hm
        simp [h.canon, hs, hm]

@[simp] theorem runLdPlace_canon (o desc) : Canon (s.runLdPlace o desc).mem := by
  refine placeBegin_inv h fun s v c h => ?_
  refine inv_iff.mpr ?_
  split
  · exact h
  · extract_lets cn mine src t w byte u n move
    have ht : Inv t := inv_of_mem h (by simp [t])
    have hmove (t e) (ht : Inv t) : Ok Inv (move t e) := ok_bind.mpr fun _ _ => writeSides_ok ht _ _ _
    split
    · exact ht
    · split
      next t' e f heq =>
        have h1 : Inv (t', e, f).1 := heq ▸ moveElems_inv hmove _ _ ht
        extract_lets t1 t2
        have h2 : Inv t1 := inv_of_mem h1 (foldl_mem (fun t x => by split <;> simp))
        have h3 : Inv t2 := by simp [t2, h2.canon]
        split <;> simp [h3.canon]
end

theorem writeShards_ok (bs : List Byte) (cn tid : Nat) (tile : BitVec 8) (core : CoreId) (own : Nat → Own) (acked : List Nat) (m : Mesh)
    (layout : Nat) {s : State} (h : Inv s) (l : List (List Nat)) : Ok Inv (writeShards bs cn tid tile core own acked m layout s l) := by
  induction l generalizing s with
  | nil => exact ok_ok.mpr h
  | cons c cs ih =>
    unfold writeShards
    split
    · exact ok_error
    · split
      · split
        · exact ok_error
        · next t e => exact ih (gwrite_ok h _ _ _ t e)
      · exact ih (inv_of_mem h (tellBlocks_mem ..))

section
variable {s : State} (h : Inv s)
include h

@[simp] theorem stPlaceEnds_canon (o) : Canon (s.stPlaceEnds o).mem := by simp [State.stPlaceEnds, h.canon]

@[simp] theorem spoilPlace_canon (o) : Canon (s.spoilPlace o).mem := by
  unfold State.spoilPlace
  split
  · split
    · exact h
    · simp [h.canon]
  · exact h

@[simp] theorem runStPlace_canon (o desc) : Canon (s.runStPlace o desc).mem := by
  refine placeBegin_inv h fun s v c h => ?_
  refine inv_iff.mpr ?_
  dsimp only
  split
  · exact h
  · split
    · exact h
    · have hs : Inv (s.yieldHandle s.tile.task.cnum o.hs) := inv_of_mem h (yieldHandle_mem ..)
      split
      · simp [h.canon]
      · next t e =>
        have ht : Inv t := writeShards_ok _ _ _ _ _ _ _ _ _ hs _ t e
        simp [ht.canon]

@[simp] theorem stPlaceAck_canon (o i) : Canon (s.stPlaceAck o i).mem := by simp [State.stPlaceAck, h.canon]
end

/-! ### Results of vector instructions -/

section
variable (s : State)

@[simp] theorem result_mem (n l) : (s.result n l).mem = s.mem := by simp [State.result]
@[simp] theorem advance_mem (c) : (s.advance c).mem = s.mem := rfl
end

section
variable {s : State} (h : Inv s)
include h

@[simp] theorem popOne_ok (c) : Ok (Inv ·.2) (popOne s c) := by simp [popOne, h.canon]

theorem popAll_ok (l : List VCode) : Ok (Inv ·.2) (popAll s l) := by
  induction l generalizing s with
  | nil => exact ok_ok.mpr h
  | cons c cs ih =>
    refine (popOne_ok h c).bind fun x hx => ?_
    exact (ih hx).bind fun y hy => ok_ok.mpr hy

@[simp] theorem pushKey_ok (d) : Ok (Inv ·.2) (pushKey s d) := by simp [pushKey, h.canon]
@[simp] theorem push_canon (k n x) : Canon (s.push k n x).mem := by simp [State.push, h.canon]
@[simp] theorem landPushes_canon (now) : Canon (s.landPushes now).mem :=
  foldl_canon (fun _ _ ht => storeNat_inv ht _ _ _) h
@[simp] theorem landEverything_canon : Canon s.landEverything.mem :=
  foldl_canon (fun _ _ ht => storeNat_inv ht _ _ _) h
@[simp] theorem putV_canon (d k n x t) : Canon (s.putV d k n x t).mem := by unfold State.putV; split <;> simp [h.canon]

theorem vector_next {k d cs gs os ok lat f} : NextInv (vector k d cs gs os ok lat f s) := by
  refine priv_next h fun t ht => ok_bind.mpr fun _ _ => ?_
  refine (popAll_ok ht cs).bind fun x hx => ?_
  refine (pushKey_ok hx d).bind fun y (hy : Inv y.2) => ok_bind.mpr fun _ _ => ?_
  simp [hy.canon]
end

/-! ### Vector instructions -/

section
variable {s : State} (h : Inv s)
include h

theorem vcmp_next {ok k d b c} : NextInv (vcmp ok k d b c s) :=
  priv_next h fun t ht => ok_bind.mpr fun _ _ => (popAll_ok ht _).bind fun x hx => ok_bind.mpr fun _ _ => by
    simpa using hx.canon

theorem execVbcast_next (k a b g) : NextInv (execVbcast k a b g s) := by
  unfold execVbcast
  exact vector_next h

theorem execVbcastG_next (k a t g) : NextInv (execVbcastG k a t g s) := by
  unfold execVbcastG
  exact vector_next h

theorem execVslideDn_next (k a b g) : NextInv (execVslideDn k a b g s) := by
  unfold execVslideDn
  exact vector_next h

theorem execVslideUp_next (k a b g) : NextInv (execVslideUp k a b g s) := by
  unfold execVslideUp
  exact vector_next h

theorem execVcvt_next (k a b t) : NextInv (execVcvt k a b t s) := by
  unfold execVcvt
  exact vector_next h
end

/-! ### Collectives -/

section
variable (s : State)

@[simp] theorem endReq_mem (n status) : (s.endReq n status).mem = s.mem := rfl

@[simp] theorem tellParts_mem (k ps) : (s.tellParts k ps).mem = s.mem := by
  unfold State.tellParts
  extract_lets t
  have ht : t.mem = s.mem := foldl_mem (fun t p => by split <;> simp)
  split
  · rw [tellAll_mem, ht]
  · exact ht

@[simp] theorem breakEp_mem (k) : (s.breakEp k).mem = s.mem := by simp [State.breakEp]
@[simp] theorem memberKilled_mem (t) : (s.memberKilled t).mem = s.mem := by simp [State.memberKilled]
end

section
variable {s : State} (h : Inv s)
include h

theorem collective_next {fn7 d a b m} : NextInv (collective fn7 d a b m s) := finish_next h (by simp [h.canon])
@[simp] theorem copCstat_canon (r) : Canon (copCstat r s).1.mem := by unfold copCstat; split <;> simp [h.canon]
@[simp] theorem copCollective_canon (r) : Canon (copCollective r s).1.mem := by unfold copCollective; split <;> simp [h.canon]

theorem swap_getD_inv {t : State} (ht : Inv t) (pt : BitVec 8) : Inv ((t.swap pt).getD s) := by
  cases e : t.swap pt with
  | none => exact h
  | some u => exact inv_of_mem ht (swap_mem e)

@[simp] theorem writeDst_canon (r bs) : Canon (s.writeDst r bs).mem := by
  unfold State.writeDst
  split
  · exact h
  · split
    · exact h
    · next u e =>
      obtain ⟨t, -, e⟩ := Option.bind_eq_some_iff.mp e
      have hu : Inv u := inv_of_mem h (swap_mem e)
      dsimp only
      split
      · exact h
      · next v e =>
        have hv : Inv v := writeSides_ok hu _ _ _ v e
        exact swap_getD_inv h (plainKeys_canon hv _) _

@[simp] theorem performEp_canon (k rs l) : Canon (s.performEp k rs l).mem := by
  unfold State.performEp
  extract_lets t st rank
  split
  · simp [t, h.canon]
  · exact foldl_canon (fun t r ht => writeDst_canon ht _ _) h

theorem execCollectiveEpisode_next : NextInv (execCollectiveEpisode s) := by
  unfold execCollectiveEpisode
  split
  · dsimp only
    split
    · exact nextInv_next.mpr h
    · split
      · exact nextInv_next.mpr h
      · split <;> simp [h.canon]
  · exact nextInv_next.mpr h

@[simp] theorem freeDst_canon (r) : Canon (s.freeDst r).mem := by
  unfold State.freeDst
  split
  · exact h
  · dsimp only
    split
    · exact h
    · next u e =>
      obtain ⟨t, -, e⟩ := Option.bind_eq_some_iff.mp e
      have hu : Inv u := inv_of_mem h (swap_mem e)
      split
      · exact h
      · next v e => exact swap_getD_inv h (writeSides_ok (s := (u.freeVal _).2) hu _ _ _ v e) _

theorem execMemberLost_next : NextInv (execMemberLost s) := by
  unfold execMemberLost
  split <;> simp [h.canon]
end

/-! ### Fetch and the turn -/

section
variable (s : State)

@[simp] theorem tumbled_mem (l : List Tile) : (tumbled s l).mem = s.mem := by
  induction l generalizing s with
  | nil => rfl
  | cons t ts ih => exact (ih _).trans (by simp)

@[simp] theorem endCycle_mem : (s.endCycle).mem = s.mem := by simp [State.endCycle]

@[simp] theorem rotate_mem : s.rotate.mem = s.mem := by
  unfold State.rotate
  split
  · rfl
  · rfl
  · extract_lets t u
    have hu : u.mem = s.mem := by simp only [u, t]; split <;> rfl
    split
    · exact (endCycle_mem u).trans hu
    · exact hu
end

theorem passTurn_next {o : Host.Outcome State Fault Refusal} (h : NextInv o) : NextInv (passTurn o) := by
  cases o with
  | next t => exact nextInv_next.mpr ((rotate_mem t).symm ▸ h t rfl)
  | fault f => exact fun _ e => nomatch e
  | refused r => exact fun _ e => nomatch e

/-! ### CSRs -/

section
variable (s : State)

@[simp] theorem putCsr_mem (n x) : (s.putCsr n x).mem = s.mem := by unfold State.putCsr; split <;> simp
@[simp] theorem latch_mem (n) : (s.latch n).mem = s.mem := by simp [State.latch]
end

section
variable {s : State} (h : Inv s)
include h

theorem csrOp_next {d reads n writes f} : NextInv (csrOp d reads n writes f s) := by
  refine common_next h ?_
  split <;> simp [h.canon]
end

/-! ### The array, the ring and the epilogue -/

section
variable (s : State)

@[simp] theorem arrayNext_mem : (s.arrayNext).mem = s.mem := by unfold State.arrayNext; split <;> simp
end

section
variable {s : State} (h : Inv s)
include h

theorem execRnext_next (k) : NextInv (execRnext k s) := priv_next h fun t ht => by simp [ht.canon]
theorem execRzero_next (k) : NextInv (execRzero k s) := priv_next h fun t ht => by simp [ht.canon]
end

@[simp] theorem stepRows_canon (x : Handle) (kb b slot : Nat) (cols : List (FpNum × List FpNum)) {s : State} (h : Inv s)
    (l : List (Nat × Nat)) : Canon (stepRows x kb b slot cols s l).mem := by
  induction l generalizing s with
  | nil => exact h
  | cons p rs ih => exact ih (writeBytes_inv h _ _)

section
variable {s : State} (h : Inv s)
include h

theorem execMma_next (k b c) : NextInv (execMma k b c s) := priv_next h fun t ht => by simp [ht.canon]
theorem execMmaGx_next (k a b c) : NextInv (execMmaGx k a b c s) := priv_next h fun t ht => by simp [ht.canon]
@[simp] theorem scaleSlot_canon (slot f) : Canon (scaleSlot s slot f).mem :=
  foldl_canon (fun _ _ ht => writeBytes_inv ht _ _) h

theorem mscale_next {lane k a} : NextInv (mscale lane k a s) := by
  refine priv_next h fun t ht => ok_bind.mpr fun _ _ => ?_
  exact (popOne_ok ht a).bind fun x (hx : Inv x.2) => by simp [hx.canon]

theorem execEpi_next (k x1 g b) : NextInv (execEpi k x1 g b s) := priv_next h fun t ht => by simp [ht.canon]
end

@[simp] theorem storeElems_canon (x : Handle) {s : State} (h : Inv s) (e : Nat) (l : List Nat) : Canon (storeElems x s e l).mem := by
  induction l generalizing s e with
  | nil => exact h
  | cons y ys ih => exact ih (storeNat_inv h _ _ _) _

section
variable {s : State} (h : Inv s)
include h

theorem onCore_getD_inv {pt c} {f : State → State} (hf : ∀ t, Inv t → Inv (f t)) : Inv ((s.onCore pt c f).getD s) := by
  cases e : s.onCore pt c f with
  | none => exact h
  | some u => exact onCore_canon e hf h

theorem onTile_next {f : State → State} (hf : ∀ t, Inv t → Inv (f t)) : NextInv (onTile s f) := by
  unfold onTile
  split
  · refine nextInv_next.mpr (onCore_getD_inv h fun t ht => ?_)
    split
    · exact ht
    · exact hf t ht
  · exact nextInv_next.mpr h

@[simp] theorem kApply_canon (m) : Canon (s.kApply m).mem := by simp [State.kApply, h.canon]
@[simp] theorem mmaStep_canon : Canon (s.mmaStep).mem := by unfold State.mmaStep; split <;> simp [h.canon]
theorem execMmaCompletion_next : NextInv (execMmaCompletion s) := onTile_next h fun _ ht => mmaStep_canon ht
@[simp] theorem epiDone_canon : Canon (s.epiDone).mem := by unfold State.epiDone; split <;> simp [h.canon]
theorem execEpiCompletion_next : NextInv (execEpiCompletion s) := onTile_next h fun _ ht => epiDone_canon ht
theorem execVrdacc_next (k a g) : NextInv (execVrdacc k a g s) := priv_next h fun t ht => by simp [ht.canon]
end

/-! ### Engine events -/

section
variable {s : State} (h : Inv s)
include h

theorem onOp_inv {pt c q} {f : State → Op → State} (hf : ∀ t o, Inv t → Inv (f t o)) : Inv (s.onOp pt c q f) := by
  refine onCore_getD_inv h fun t ht => ?_
  split
  · exact ht
  · split
    · exact ht
    · exact hf t _ ht

theorem onOpSent_inv {pt c q} {f : State → Op → State} (hf : ∀ t o, Inv t → Inv (f t o)) : Inv (s.onOpSent pt c q f) := by
  refine onCore_getD_inv h fun t ht => ?_
  split
  · exact ht
  · split
    · exact ht
    · exact hf t _ ht

@[simp] theorem engineRun_canon (o n) : Canon (s.engineRun o n).mem := by
  unfold State.engineRun
  split
  · exact runLdPlace_canon h _ _
  · exact runStPlace_canon h _ _
  · exact runRemote_canon h _ _
  · split
    · exact h
    · next t old e =>
      have ht : Inv t := atomicWord_ok h _ _ _ _ _ _ e
      simp [ht.canon]
  · exact runLocal_canon h _ _

theorem execEngineCredit_next : NextInv (execEngineCredit s) := by
  unfold execEngineCredit
  split
  · exact nextInv_next.mpr (onOp_inv h fun t o ht => engineRun_canon ht _ _)
  · exact nextInv_next.mpr h

theorem execSourceCredit_next : NextInv (execSourceCredit s) := by
  unfold execSourceCredit
  split
  · exact nextInv_next.mpr (onOp_inv h fun t o ht => by simp [ht.canon])
  · exact nextInv_next.mpr h

theorem execDmaCompletion_next : NextInv (execDmaCompletion s) := by
  unfold execDmaCompletion
  split
  · exact nextInv_next.mpr (onOp_inv h fun t o ht => by simp [ht.canon])
  · exact nextInv_next.mpr h

theorem execEngineFault_next : NextInv (execEngineFault s) := by
  unfold execEngineFault
  split
  · exact nextInv_next.mpr (onOp_inv h fun t o ht => faultOp_canon ht _ _ _ _ _ _)
  · exact nextInv_next.mpr h

theorem execFixedLatencyWrite_next : NextInv (execFixedLatencyWrite s) := by
  unfold execFixedLatencyWrite
  split
  · exact nextInv_next.mpr (onCore_getD_inv h fun t ht => by simp [ht.canon])
  · exact nextInv_next.mpr h

theorem execLockLost_next : NextInv (execLockLost s) := by
  unfold execLockLost
  split
  · split <;> simp [h.canon]
  · exact nextInv_next.mpr h

theorem execLeaseEnd_next : NextInv (execLeaseEnd s) := by unfold execLeaseEnd; split <;> simp [h.canon]
end

/-! ### Nodes, futures and launches -/

section
variable (s : State)

@[simp] theorem putNode_mem (n) : (s.putNode n).mem = s.mem := rfl
@[simp] theorem packetsEnd_mem : (s.packetsEnd).mem = s.mem := by simp [State.packetsEnd]
@[simp] theorem nodeEnded_mem (c addr launched) : (s.nodeEnded c addr launched).mem = s.mem := by simp [State.nodeEnded]

@[simp] theorem futNodes_mem (c : Nat) (src : Option (BitVec 8)) (l : List Nat) : (s.futNodes c src l).mem = s.mem := by
  induction l generalizing s with
  | nil => rfl
  | cons pod l ih =>
    unfold State.futNodes
    split
    · exact ih _
    · split
      · exact (ih _).trans (tell_mem ..)
      · exact ih _
end

section
variable {s : State} (h : Inv s)
include h

theorem waiters_ok (c k rec : Nat) : Ok (Inv ·.1) (s.waiters c k rec) := by
  induction k generalizing s rec with
  | zero => exact ok_ok.mpr h
  | succ k ih =>
    unfold State.waiters
    split
    · exact ok_ok.mpr h
    · split
      · exact ok_error
      · next t key e =>
        have ht : Inv t := gatomic_ok h _ _ _ _ e
        dsimp only
        split
        · exact ok_ok.mpr ht
        · split
          · exact ok_error
          · next u l e => exact ok_ok.mpr (ih ht _ (u, l) e)

theorem futEnd_ok (c va st f) : Ok (Inv ·.1) (s.futEnd c va st f) := by
  unfold State.futEnd
  split
  · exact ok_error
  · next t k e =>
    have ht : Inv t := gatomic_ok h _ _ _ _ e
    dsimp only
    refine ok_ite.mpr ⟨fun _ => ok_error, fun _ => ok_ite.mpr ⟨fun _ => ok_error, fun _ => ?_⟩⟩
    split
    · exact ok_error
    · next u e => exact ok_ok.mpr (store_inv (s := (u.freeVal 128).2) (waiters_ok ht _ _ _ (u, none) e) _ _)
    · next u l e => exact ok_ok.mpr (store_inv (waiters_ok ht _ _ _ (u, some l) e) _ _)

@[simp] theorem futureOf_canon (c addr) : Canon (s.futureOf c addr).1.mem := by
  unfold State.futureOf
  split
  · next t x e => exact greadNat_ok h _ _ _ (t, x) e
  · simp [h.canon]
end

@[simp] theorem poisonNodes_canon (src : Option (BitVec 8)) (k : Nat) (l : List (Nat × Nat)) {s : State} (h : Inv s) :
    Canon (poisonNodes src k l s).mem := by
  induction k generalizing s l with
  | zero => simpa [poisonNodes] using h.canon
  | succ k ih =>
    match l with
    | [] => exact h
    | (c, pod) :: ws =>
      unfold poisonNodes
      split
      · exact ih _ (inv_of_mem h (notify_mem ..))
      · next e va _ =>
        split
        · exact ih _ (inv_of_mem h (tell_mem ..))
        · extract_lets n t
          have ht : Inv t := inv_of_mem h (by simp [t])
          split
          next t f e =>
          have ht : Inv (t, f).1 := e ▸ futureOf_canon ht c va
          split
          · exact ih _ ht
          · split
            · exact ih _ ht
            · split
              · exact ih _ (inv_of_mem ht (tell_mem ..))
              · split
                · exact ih _ ht
                · next u l e => exact ih _ (futEnd_ok ht _ _ _ _ (u, l) e)

section
variable {s : State} (h : Inv s)
include h

@[simp] theorem futPoison_canon (c pod pcode) : Canon (s.futPoison c pod pcode).mem := by
  unfold State.futPoison
  split
  · exact h
  · split
    · exact h
    · split
      · simp [h.canon]
      · split
        · exact h
        · next t l e => exact poisonNodes_canon _ _ _ (futEnd_ok h _ _ _ _ (t, l) e)

theorem futApply_ok (c va fn7 gb rva src) : Ok (Inv ·.1) (s.futApply c va fn7 gb rva src) := by
  unfold State.futApply
  extract_lets got
  have hg : Ok (Inv ·.1) got := by
    simp only [got]
    split
    · split
      · exact ok_error
      · next t bs e => exact ok_ok.mpr (gread_ok h _ _ _ (t, bs) e)
    · split
      · exact ok_error
      · next t k e => exact ok_ok.mpr (gatomic_ok h _ _ _ (t, k) e)
  clear_value got
  split
  · exact ok_error
  · next t k x =>
    have ht : Inv t := hg (t, k, x) rfl
    refine ok_ite.mpr ⟨fun _ => ok_error, fun _ => ?_⟩
    split
    · simp [ht.canon]
    · simp [ht.canon]
    · refine ok_ite.mpr ⟨fun _ => ok_error, fun _ => ?_⟩
      split
      · exact ok_error
      · next u q e =>
        have hu : Inv u := gatomic_ok ht _ _ _ (u, q) e
        simp [hu.canon]
    · split
      · exact ok_error
      · next u l e =>
        have hu : Inv u := futEnd_ok h _ _ _ _ (u, l) e
        simp [hu.canon]
    · split
      · exact ok_error
      · next u l e => exact ok_ok.mpr (poisonNodes_canon _ _ _ (futEnd_ok h _ _ _ _ (u, l) e))

@[simp] theorem reject_canon (c addr check img) : Canon (s.reject c addr check img).mem := by
  unfold State.reject
  split <;> simp [h.canon]

@[simp] theorem decrement_canon (c addr src want) : Canon (s.decrement c addr src want).1.mem := by
  unfold State.decrement
  split
  · simp [h.canon]
  · next t bs e =>
    have ht : Inv t := gread_ok h _ _ _ (t, bs) e
    split
    · simp [ht.canon]
    · next u k e =>
      have hu : Inv u := gatomic_ok ht _ _ _ (u, k) e
      dsimp only
      split <;> simp [hu.canon]

theorem execNodeDecrement_next : NextInv (execNodeDecrement s) := by unfold execNodeDecrement; split <;> simp [h.canon]

@[simp] theorem copNodeLaunch_canon (r) : Canon (copNodeLaunch r s).1.mem := by
  have hd (a b) : Inv (s.decrement r.cnum a b none).1 := decrement_canon h ..
  unfold copNodeLaunch
  -- The decrement is made a variable: the kernel would evaluate it.
  obtain ⟨dec, hdec⟩ : ∃ f, f = State.decrement := ⟨_, rfl⟩
  rw [← hdec] at hd ⊢
  split
  · exact h
  · exact hd _ _

@[simp] theorem copNodeStatus_canon (r) : Canon (copNodeStatus r s).1.mem := by
  have hg (a) : Ok (Inv ·.1) (s.gread r.cnum a 64) := gread_ok h _ _ _
  -- Unfolded as a function, with the read a variable: the kernel would evaluate the read to compare the two sides.
  obtain ⟨f, hf⟩ : ∃ f, f = copNodeStatus := ⟨_, rfl⟩
  rw [← hf]
  delta copNodeStatus at hf
  obtain ⟨read, hread⟩ : ∃ f, f = State.gread := ⟨_, rfl⟩
  rw [← hread] at hf hg
  subst hf
  dsimp only
  split
  · simp [h.canon]
  · next t bs e => exact hg _ (t, bs) e

theorem futCop_next {fn7 d a b m} : NextInv (futCop fn7 d a b m s) := cop_next h

@[simp] theorem copFuture_canon (r) : Canon (copFuture r s).1.mem := by
  unfold copFuture
  dsimp only
  split
  · exact h
  · split
    · exact h
    · split
      · exact h
      · split
        · split <;> simp [h.canon]
        · split
          · simp [h.canon]
          · next t w l e =>
            have ht : Inv t := futApply_ok h _ _ _ _ _ _ (t, w, l) e
            simp [ht.canon]
end

/-! ### Re-shard jobs -/

section
variable (s : State)

@[simp] theorem tellRecord_mem (c prec m img bad) : (s.tellRecord c prec m img bad).mem = s.mem := by
  unfold State.tellRecord
  split <;> simp
@[simp] theorem markConv_mem (c prec m on bad) : (s.markConv c prec m on bad).mem = s.mem := by simp [State.markConv]
@[simp] theorem mapJob_mem (c n f) : (s.mapJob c n f).mem = s.mem := rfl

@[simp] theorem jobConv_mem (c j on) : (s.jobConv c j on).mem = s.mem :=
  foldl_mem fun _ _ => by
    split
    · rfl
    · split
      · rfl
      · split <;> simp

@[simp] theorem jobReply_mem (c j status) : (s.jobReply c j status).mem = s.mem := by unfold State.jobReply; split <;> simp
end

section
variable {s : State} (h : Inv s)
include h

@[simp] theorem jobEnds_canon (c j st) : Canon (s.jobEnds c j st).mem := by
  unfold State.jobEnds
  extract_lets t u v
  have hu : Inv u := inv_of_mem h ((foldl_mem (fun u a => endAsk_mem u _ _)).trans (by simp [t]))
  have hv : Inv v := settleRace_canon (settleRace_canon hu _ _) _ _
  exact hv

@[simp] theorem freeRows_canon (c j xs) : Canon (s.freeRows c j xs).mem := by
  unfold State.freeRows
  split
  · exact h
  · split
    · refine foldl_canon (fun t x ht => ?_) h
      split
      · exact ht
      · split
        · exact foldl_canon (fun t row ht => freeBytes_canon ht _ _ _) ht
        · exact ht
    · exact h

@[simp] theorem abortJob_canon (c j) : Canon (s.abortJob c j).mem := by simp [State.abortJob, h.canon]
@[simp] theorem abortJobs_canon (c) : Canon (s.abortJobs c).mem := foldl_canon (fun _ j ht => abortJob_canon ht c j) h
end

/-! ### Stops, kills and dispositions -/

section
variable (s : State)

@[simp] theorem debit_mem (c ns) : (s.debit c ns).mem = s.mem := by simp [State.debit]
@[simp] theorem putFunc_mem (f) : (s.putFunc f).mem = s.mem := rfl
@[simp] theorem unaim_mem (vf) : (s.unaim vf).mem = s.mem := rfl
@[simp] theorem interrupt_mem (fn vec) : (s.interrupt fn vec).mem = s.mem := by simp [State.interrupt]
@[simp] theorem dropBars_mem (pt) : (s.dropBars pt).mem = s.mem := rfl
@[simp] theorem readBack_mem (k n) : (s.readBack k n).mem = s.mem := by simp [State.readBack]
@[simp] theorem dropLocks_mem (pt) : (s.dropLocks pt).mem = s.mem := rfl
@[simp] theorem dropIdle_mem (tid) : (s.dropIdle tid).mem = s.mem := rfl
@[simp] theorem codesFree_mem : (s.codesFree).mem = s.mem := by simp [State.codesFree]
@[simp] theorem withdraw_mem (tid) : (s.withdraw tid).mem = s.mem := rfl
@[simp] theorem leave_mem (pt) : (s.leave pt).mem = s.mem := by unfold State.leave; split <;> simp
@[simp] theorem taskDies_mem (t) : (s.taskDies t).mem = s.mem := by simp [State.taskDies]
@[simp] theorem diedArrives_mem (t) : (s.diedArrives t).mem = s.mem := by simp [State.diedArrives]
@[simp] theorem killImages_mem (c p) : (s.killImages c p).mem = s.mem := by simp [State.killImages]

@[simp] theorem restartEngines_mem : s.restartEngines.mem = s.mem := by
  unfold State.restartEngines
  extract_lets t u v
  have hu : u.mem = s.mem := foldl_mem (fun t o => restart_mem t o)
  have hv : v.mem = u.mem := by simp only [v]; split <;> rfl
  exact (foldl_mem (fun _ _ => by simp)).trans (hv.trans hu)

@[simp] theorem abandon_mem (o) : (s.abandon o).mem = s.mem := rfl

@[simp] theorem goOn_mem (deadlock) : (s.goOn deadlock).mem = s.mem := by
  unfold State.goOn
  extract_lets t u
  have hu : u.mem = s.mem := by simp [u]
  split <;> simp [hu]
end

section
variable {s : State} (h : Inv s)
include h

theorem onFocus_inv {pt} {f : State → State} (hf : ∀ t, Inv t → Inv (f t)) : Inv (s.onFocus pt f) :=
  onCore_getD_inv h hf
@[simp] theorem scrubTile_canon (pt owner) : Canon (s.scrubTile pt owner).mem := by simp [State.scrubTile, h.canon]
@[simp] theorem ensureTile_canon (pt c) : Canon (s.ensureTile pt c).mem := by simp [State.ensureTile, h.canon]
@[simp] theorem killTile_canon (pt) : Canon (s.killTile pt).mem := by unfold State.killTile; split <;> simp [h.canon]
theorem foldl_killTile_inv (l : List Tile) : Inv (l.foldl (fun u t => u.killTile t.ptile) s) :=
  foldl_inv (fun _ t ht => killTile_canon ht t.ptile) h

@[simp] theorem killNode_canon (c addr pcode) : Canon (s.killNode c addr pcode).mem := by
  unfold State.killNode
  extract_lets n t
  have ht : Inv t := by
    simp only [t]
    split
    · exact inv_of_mem (foldl_killTile_inv h _) (killImages_mem ..)
    · exact h
  simp [ht.canon]

@[simp] theorem killTask_canon (pt pcode) : Canon (s.killTask pt pcode).mem := by unfold State.killTask; split <;> simp [h.canon]

@[simp] theorem killContext_canon (c pcode) : Canon (s.killContext c pcode).mem := by
  unfold State.killContext
  extract_lets nodes t
  have ht : Inv t := foldl_killTile_inv h _
  exact foldl_canon (fun _ a hu => killNode_canon hu c a pcode) (inv_of_mem ht (killImages_mem ..))

@[simp] theorem killRelaunch_canon (pt) : Canon (s.killRelaunch pt).mem := by unfold State.killRelaunch; split <;> simp [h.canon]

@[simp] theorem lostCtx_canon (c addr) : Canon (s.lostCtx c addr).mem := by
  unfold State.lostCtx
  extract_lets l t
  have ht : Inv t := inv_of_mem h (foldl_mem (fun _ _ => by simp))
  exact foldl_canon (fun _ x hu => abortJobs_canon (killContext_canon hu x 4) x) ht

@[simp] theorem clearErr5_canon (k) : Canon (s.clearErr5 k).mem := by unfold State.clearErr5; split <;> simp [h.canon]
@[simp] theorem retryOp_canon (o) : Canon (s.retryOp o).mem := by simp [State.retryOp, h.canon]

@[simp] theorem resumeTask_canon (retry) : Canon (s.resumeTask retry).mem := by
  unfold State.resumeTask
  split
  · exact h
  · split
    · simp [h.canon]
    · cases retry <;> simp [h.canon]

@[simp] theorem skipTask_canon : Canon s.skipTask.mem := by
  unfold State.skipTask
  split
  · exact h
  · split
    · simp [h.canon]
    · split <;> simp [h.canon]

@[simp] theorem dispose_canon (pt code retry) : Canon (s.dispose pt code retry).mem := by
  unfold State.dispose
  split
  · simp [h.canon]
  · split
    · exact onFocus_inv h fun _ ht => resumeTask_canon ht retry
    · exact onFocus_inv h fun _ ht => skipTask_canon ht
    · simp [h.canon]
end

/-! ### The state window -/

section
variable {s : State} (h : Inv s)
include h

@[simp] theorem winStore_canon (t o b) : Canon (s.winStore t o b).mem := by
  unfold State.winStore
  split
  · simp [h.canon]
  · split
    · split <;> simp [h.canon]
    · exact h

@[simp] theorem takeWrites_canon (pt ws) : Canon (s.takeWrites pt ws).mem := by
  unfold State.takeWrites
  split
  · exact h
  · exact foldl_canon (fun _ w hu => winStore_canon hu _ w.1 w.2) (inv_of_mem h (mapTile_mem ..))
end

/-! ### Saving and restoring a task -/

section
variable (s : State)

@[simp] theorem beginSave_mem (pt) : (s.beginSave pt).mem = s.mem := by unfold State.beginSave; split <;> simp
@[simp] theorem settleCounts_mem (c) : (s.settleCounts c).mem = s.mem :=
  foldl_mem fun t x => by split <;> simp
@[simp] theorem rebase_mem (tid a b) : (s.rebase tid a b).mem = s.mem := rfl
end

section
variable {s : State} (h : Inv s)
include h

@[simp] theorem gwriteParts_ok (c base : Nat) (l : List (Nat × List Byte)) : Ok Inv (s.gwriteParts c base l) := by
  induction l generalizing s with
  | nil => exact ok_ok.mpr h
  | cons p ps ih =>
    unfold State.gwriteParts
    split
    · exact ok_error
    · next t e => exact ih (gwrite_ok h _ _ _ t e)

@[simp] theorem saveTile_canon : Canon s.saveTile.mem := by
  unfold State.saveTile
  -- The search for a free slot is made a variable: the kernel would evaluate it (it counts down from 65,536) to reduce the match on it.
  obtain ⟨free, hfree⟩ : ∃ f, f = Ctx.freeSlot := ⟨_, rfl⟩
  rw [← hfree]
  dsimp only
  split
  · exact h
  · split
    · simp [h.canon]
    · split
      · simp [h.canon]
      · split
        · simp [h.canon]
        · next u e =>
          have hu : Inv u := gwriteParts_ok (inv_of_mem (inv_iff.mpr (landEverything_canon h)) (by simp)) _ _ _ u e
          simp [hu.canon]

theorem execCheckpoint_next : NextInv (execCheckpoint s) := by
  unfold execCheckpoint
  split
  · split
    · exact nextInv_next.mpr h
    · split
      · exact nextInv_next.mpr h
      · have hf {pt} : Inv (s.onFocus pt State.saveTile) := onFocus_inv h fun _ ht => saveTile_canon ht
        simp [h.canon, hf.canon]
  · exact nextInv_next.mpr h

theorem execDrainBound_next : NextInv (execDrainBound s) := by
  unfold execDrainBound
  split
  · split
    · exact nextInv_next.mpr h
    · split <;> simp [h.canon]
  · exact nextInv_next.mpr h

@[simp] theorem writeDirectory_ok (x) : Ok Inv (s.writeDirectory x) := by simp [State.writeDirectory, h.canon]

theorem execSaveCommit_next : NextInv (execSaveCommit s) := by
  unfold execSaveCommit
  split
  · split
    · exact nextInv_next.mpr h
    · next x _ =>
      dsimp only
      refine nextInv_ite.mpr ⟨fun _ => nextInv_next.mpr h, fun _ => nextInv_ite.mpr ⟨fun _ => ?_, fun _ => ?_⟩⟩
      · simp [h.canon]
      · split
        · simp [h.canon]
        · next t e =>
          have ht : Inv t := writeDirectory_ok h x t e
          simp [ht.canon]
  · exact nextInv_next.mpr h

theorem execSaveDeadline_next : NextInv (execSaveDeadline s) := by
  unfold execSaveDeadline
  split
  · split
    · exact nextInv_next.mpr h
    · split <;> simp [h.canon]
  · exact nextInv_next.mpr h

theorem execGracePeriodEnd_next : NextInv (execGracePeriodEnd s) := by
  unfold execGracePeriodEnd
  split
  · split
    · exact nextInv_next.mpr h
    · split
      · exact nextInv_next.mpr h
      · split <;> simp [h.canon]
  · exact nextInv_next.mpr h

@[simp] theorem putRing_canon (pt : Nat) (l : List Nat) (bs : List Byte) : Canon (s.putRing pt l bs).mem := by
  induction l generalizing s bs with
  | nil => exact h
  | cons k ks ih => exact ih (writeBytes_inv h _ _) _

@[simp] theorem writeHeld_canon (c) : Canon (s.writeHeld c).mem := by
  unfold State.writeHeld
  split
  · exact h
  · dsimp only
    split
    · simp [h.canon]
    · next t e => exact gwrite_ok h _ _ _ t e

@[simp] theorem applyHeld_canon (pt e) : Canon (s.applyHeld pt e).mem := by
  unfold State.applyHeld
  cases e <;> simp [h.canon]

@[simp] theorem restoreOn_canon (x i pt l) : Canon (s.restoreOn x i pt l).mem := by
  unfold State.restoreOn
  extract_lets p n got base mine
  have hg : Ok (Inv ·.1) got := by
    refine (gread_ok h _ _ _).bind fun a ha => (gread_ok ha _ _ _).bind fun b hb => ?_
    exact (gread_ok hb _ _ _).bind fun c hc => ok_ok.mpr hc
  clear_value got
  split
  · simp [h.canon]
  · next t hd d b =>
    have ht : Inv t := hg (t, hd, d, b) rfl
    split
    · simp [ht.canon]
    · split
      · simp [ht.canon]
      · next u e =>
        have hu : Inv u := gwrite_ok ht _ _ _ u e
        extract_lets u1 u2 u3 u4 u5 u6 u7 u8 u9
        have h2 : Inv u2 := inv_of_mem (ensureTile_canon hu pt x.cnum) (by simp [u2, u1])
        have h3 : Inv u3 := putRing_canon (writeBytes_inv h2 _ _) _ _ _
        have h6 : Inv u6 := inv_of_mem h3 (by simp [u6, u5, u4])
        have h7 : Inv u7 := foldl_inv (fun _ e hv => applyHeld_canon hv pt e.2) (writeHeld_canon h6 _)
        have h8 : Inv u8 := by
          refine inv_iff.mpr ?_
          simp only [u8, ite_mem, canon_ite]
          exact ⟨fun _ => onFocus_inv h7 fun v hv => by simpa using hv.canon, fun _ => h7⟩
        have h9 : Inv u9 := by
          unfold u9
          split
          · refine inv_iff.mpr ?_
            simp only [ite_mem, canon_ite]
            refine ⟨fun _ => dispose_canon (inv_iff.mpr ?_) .., fun _ => h8⟩
            simp only [ite_mem, canon_ite]
            exact ⟨fun _ => takeWrites_canon h8 .., fun _ => h8⟩
          · exact h8
        exact h9

theorem execHeldEvent_next : NextInv (execHeldEvent s) := by
  unfold execHeldEvent
  split
  · split
    · exact nextInv_next.mpr h
    · refine nextInv_ite.mpr ⟨fun _ => nextInv_next.mpr h, fun _ => nextInv_ite.mpr ⟨fun _ => ?_, fun _ => ?_⟩⟩
      · split <;> exact nextInv_next.mpr h
      · simp [h.canon]
  · exact nextInv_next.mpr h
end

/-! ### Placing tasks -/

section
variable (s : State)

@[simp] theorem report_mem (d) : (s.report d).mem = s.mem := rfl
@[simp] theorem reportAll_mem : s.reportAll.mem = s.mem := foldl_mem fun _ _ => rfl
end

section
variable {s : State} (h : Inv s)
include h

theorem execDieReport_next : NextInv (execDieReport s) := by unfold execDieReport; split <;> simp [h.canon]
@[simp] theorem startTask_canon (n inst l pt) : Canon (s.startTask n inst l pt).mem := by simp [State.startTask, h.canon]

@[simp] theorem placeEach_canon (n : NodeRec) (l : List Nat) : Canon (State.placeEach n l s).mem := by
  induction l generalizing s with
  | nil => exact h
  | cons i is ih =>
    unfold State.placeEach
    split
    · exact h
    · next l p e => exact ih (inv_of_mem (startTask_canon h _ i l p) (reportAll_mem _))

@[simp] theorem evict_canon (b g) : Canon (s.evict b g).mem := by
  unfold State.evict
  split
  · exact foldl_canon (fun u t hu => by simpa using hu.canon) h
  · exact foldl_canon (fun u t hu => killRelaunch_canon hu t.ptile) h
  · exact foldl_canon (fun u t hu => by simpa using hu.canon) h

@[simp] theorem preempt_canon (n) : Canon (s.preempt n).mem := by
  unfold State.preempt
  split
  · exact h
  · dsimp only
    refine canon_mem_ite h ?_
    split
    · exact h
    · exact canon_mem_ite h (foldl_canon (fun u g hu => evict_canon hu _ g) h)

@[simp] theorem placeNode_canon (c addr) : Canon (s.placeNode c addr).mem := by
  unfold State.placeNode
  extract_lets n t m
  have ht : Inv t := by
    unfold t
    split
    · split
      · exact h
      · exact inv_of_mem (foldl_canon (fun u e hu => startTask_canon hu ..) h) (reportAll_mem _)
    · exact placeEach_canon h _ _
  simp [h.canon, ht.canon]

@[simp] theorem restoreGroup_canon (c slot) : Canon (s.restoreGroup c slot).mem := by
  unfold State.restoreGroup
  split
  · exact h
  · split
    · exact h
    · split
      · exact h
      · split
        · exact h
        · refine foldl_canon (fun u e hu => ?_) h
          split
          · exact hu
          · split
            · exact hu
            · exact restoreOn_canon hu ..

theorem execRestore_next : NextInv (execRestore s) := by unfold execRestore; split <;> simp [h.canon]

theorem execDistributorPlace_next : NextInv (execDistributorPlace s) := by
  unfold execDistributorPlace
  refine nextInv_ite.mpr ⟨fun _ => nextInv_next.mpr (by simpa using h.canon), fun _ => nextInv_next.mpr ?_⟩
  refine foldl_canon (fun t w ht => ?_) (inv_of_mem h (reportAll_mem _))
  split
  · exact inv_of_mem (restoreGroup_canon ht ..) (reportAll_mem _)
  · exact placeNode_canon ht ..

theorem successors_inv (c va) : ∀ x, s.successors c va = some x → Inv x.1 := by
  intro x
  unfold State.successors
  split
  · exact nofun
  · split
    · exact nofun
    · next u n hu =>
      have hu : Inv u := greadNat_ok h _ _ _ _ hu
      split
      · exact nofun
      · split
        · exact nofun
        · next v bs hv =>
          have hv : Inv v := gread_ok hu _ _ _ _ hv
          dsimp only
          split
          · intro e; cases e; exact hv
          · exact nofun
end

/-- The statement is about any predicate, and the decrement of one successor is a variable while the list is folded: the kernel
would evaluate the decrement to compare two forms of the recursion. -/
theorem decrementAll_of {P : State × List Nat → Prop} (hP : ∀ r, Inv r.1 → P r) {s : State} (h : Inv s) (c addr nodeid : Nat)
    (l : List Nat) : P (s.decrementAll c addr nodeid l) := by
  have hd (t : State) (ht : Inv t) (a i : Nat) : Inv (t.decrement c a none (some (i, 7))).1 := decrement_canon ht ..
  delta State.decrementAll State.decrementAll._f
  obtain ⟨dec, hdec⟩ : ∃ f, f = State.decrement := ⟨_, rfl⟩
  rw [← hdec] at hd ⊢
  refine hP _ ?_
  induction l generalizing s with
  | nil => exact h
  | cons i is ih => exact ih (hd s h _ _)

section
variable {s : State} (h : Inv s)
include h

@[simp] theorem decrementAll_canon (c addr nodeid : Nat) (l : List Nat) :
    Canon (s.decrementAll c addr nodeid l).1.mem :=
  decrementAll_of (P := fun r => Inv r.1) (fun _ hr => hr) h ..

@[simp] theorem resolveNode_canon (c addr fut v) : Canon (s.resolveNode c addr fut v).mem := by
  unfold State.resolveNode
  refine canon_mem_ite h ?_
  split
  · simp [h.canon]
  · refine canon_mem_ite (by simp [h.canon]) ?_
    split
    · simp [h.canon]
    · next t l e =>
      have ht : Inv t := futEnd_ok h _ _ _ _ (t, l) e
      simp [ht.canon]

@[simp] theorem nodeComplete_canon (c addr) : Canon (s.nodeComplete c addr).mem := by
  unfold State.nodeComplete
  extract_lets n s1 s2
  have h2 : Inv s2 := resolveNode_canon (inv_of_mem h (by simp [s1])) ..
  split
  · simp [h2.canon]
  · split
    · simp [h2.canon]
    · next t l e =>
      have ht : Inv t := successors_inv h2 _ _ (t, l) e
      have hu : Inv (t.decrementAll c addr (nodeId n.img) l).1 := decrementAll_canon ht ..
      simp [hu.canon]

@[simp] theorem completeTask_canon : Canon s.completeTask.mem := by
  unfold State.completeTask
  extract_lets k a0 s1 t s2 n s3
  have h2 : Inv s2 := inv_of_mem h (by simp [s2, s1])
  have h3 : Inv s3 := inv_of_mem h2 (by simp [s3])
  split
  · exact h2
  · split
    · exact nodeComplete_canon h3 ..
    · exact h3

theorem execTaskCompletion_next : NextInv (execTaskCompletion s) := by
  unfold execTaskCompletion
  split
  · refine nextInv_next.mpr (onFocus_inv h fun t ht => inv_iff.mpr (canon_mem_ite (completeTask_canon ht) ht))
  · exact nextInv_next.mpr h
end

/-! ### Queues and packets -/

section
variable (s : State)

@[simp] theorem putQueue_mem (q) : (s.putQueue q).mem = s.mem := rfl
@[simp] theorem queueError_mem (c addr node) : (s.queueError c addr node).mem = s.mem := rfl
@[simp] theorem queueFails_mem (q c addr) : (s.queueFails q c addr).mem = s.mem := rfl
@[simp] theorem swapPkt_mem (a b) : (s.swapPkt a b).mem = s.mem := rfl
@[simp] theorem startPackets_mem (q) : (s.startPackets q).mem = s.mem := by simp [State.startPackets]
@[simp] theorem runPkt_mem (p nodes) : (s.runPkt p nodes).mem = s.mem := by simp [State.runPkt]
end

section
variable {s : State} (h : Inv s)
include h

theorem qread_ok (q c a n) : Ok (Inv ·.1) (s.qread q c a n) := by
  unfold State.qread
  split
  · exact ok_ok.mpr h
  · exact gread_ok h c a n

@[simp] theorem qwrite_ok (q c a bs) : Ok Inv (s.qwrite q c a bs) := by simp [State.qwrite, h.canon]

theorem execPacketNop_next : NextInv (execPacketNop s) := by
  unfold execPacketNop
  split
  · split
    · exact nextInv_next.mpr h
    · simp [h.canon]
  · exact nextInv_next.mpr h

theorem execNode_next : NextInv (execNode s) := by
  unfold execNode
  split
  · split
    · exact nextInv_next.mpr h
    · next q x _ _ p e =>
      refine nextInv_ite.mpr ⟨fun _ => by simp [h.canon], fun _ => ?_⟩
      have hd : Inv (s.decrement p.cnum (pktField x 64 64) none none).1 := decrement_canon h ..
      simp [hd.canon]
  · exact nextInv_next.mpr h

@[simp] theorem graphRoots_canon (c table list n k : Nat) : Canon (graphRoots c table list n k s).1.mem := by
  induction n generalizing s k with
  | zero => exact h
  | succ n ih =>
    unfold graphRoots
    split
    · simp [h.canon]
    · next t w e =>
      have ht : Inv t := greadNat_ok h _ _ _ (t, w) e
      extract_lets a
      split
      · exact ih (reject_canon ht ..) _
      · have hd : Inv (t.decrement c a none (some (w, 9))).1 := decrement_canon ht ..
        generalize t.decrement c a none (some (w, 9)) = r at hd
        obtain ⟨u, d⟩ := r
        cases d with
        | zero => exact ih (inv_iff.mpr (by simpa using hd.canon)) _
        | rejected => exact ih hd _
        | applied => exact ih hd _

theorem execGraph_next : NextInv (execGraph s) := by
  unfold execGraph
  split
  · split
    · exact nextInv_next.mpr h
    · next q x _ _ p e =>
      refine nextInv_ite.mpr ⟨fun _ => by simp [h.canon], fun _ => ?_⟩
      have hg : Inv (graphRoots p.cnum (pktField x 64 64) (pktField x 128 64) (pktField x 192 16) 0 s).1 := graphRoots_canon h ..
      simp [hg.canon]
  · exact nextInv_next.mpr h

theorem execPacketCompletion_next : NextInv (execPacketCompletion s) := by
  unfold execPacketCompletion
  split
  · split
    · exact nextInv_next.mpr h
    · next p _ =>
      extract_lets s1 d addr s2
      have h1 : Inv s1 := h
      have h2 : Inv s2 := by
        unfold s2
        split
        · split
          · exact inv_of_mem h1 (by simp)
          · next t e => exact qwrite_ok h1 _ _ _ _ t e
        · exact h1
      simp [h2.canon]
  · exact nextInv_next.mpr h

@[simp] theorem parsePackets_canon (c n : Nat) (q : QSt) : Canon (parsePackets c n q s).mem := by
  induction n generalizing s q with
  | zero => exact h
  | succ n ih =>
    unfold parsePackets
    split
    · simp [h.canon]
    · next t bs e =>
      have ht : Inv t := qread_ok h _ _ _ _ (t, bs) e
      split
      · simp [ht.canon]
      · next u e =>
        have hu : Inv u := qwrite_ok ht _ _ _ _ u e
        dsimp only
        split
        · refine ih ?_ _
          exact hu
        · exact ih (inv_of_mem hu (queueError_mem ..)) _

@[simp] theorem poll_canon (q) : Canon (s.poll q).mem := by
  unfold State.poll
  dsimp only
  split
  · simp [h.canon]
  · split
    · simp [h.canon]
    · next t bs e =>
      have ht : Inv t := qread_ok h _ _ _ _ (t, bs) e
      split <;> simp [ht.canon]

theorem execQueuePoll_next : NextInv (execQueuePoll s) := by
  unfold execQueuePoll
  split
  · split
    · exact nextInv_next.mpr h
    · next q _ =>
      refine nextInv_ite.mpr ⟨fun _ => by simp [h.canon], fun _ => ?_⟩
      have ht : Inv (State.poll { s with scanLast := q.n, scanAt := s.now + 12 } q) := by
        refine poll_canon ?_ q
        exact h
      simp [ht.canon]
  · exact nextInv_next.mpr h

theorem execHeldLineInvalidate_next : NextInv (execHeldLineInvalidate s) := by
  unfold execHeldLineInvalidate
  split
  · split
    · exact nextInv_next.mpr h
    · split <;> simp [h.canon]
  · exact nextInv_next.mpr h
end

/-! ### The tick -/

section
variable (s : State)

@[simp] theorem debitAll_mem : (s.debitAll).mem = s.mem := by simp [State.debitAll]
@[simp] theorem eachCtx_mem (f) : (s.eachCtx f).mem = s.mem := rfl
@[simp] theorem refill_mem : (s.refill).mem = s.mem := rfl
@[simp] theorem fixTimes_mem : (s.fixTimes).mem = s.mem := rfl
@[simp] theorem switchIn_mem (c) : (s.switchIn c).mem = s.mem := by simp [State.switchIn]
@[simp] theorem recommit_mem (c) : (s.recommit c).mem = s.mem := rfl
@[simp] theorem budgetReplies_mem : (s.budgetReplies).mem = s.mem := by simp [State.budgetReplies]
@[simp] theorem mapCode_mem (c i g f) : (s.mapCode c i g f).mem = s.mem := rfl
end

section
variable {s : State} (h : Inv s)
include h

@[simp] theorem logEntry_canon (c m e) : Canon (s.logEntry c m e).mem := by
  unfold State.logEntry
  split
  · exact h
  · split
    · exact h
    · next t e =>
      have ht : Inv t := gwrite_ok h _ _ _ t e
      split
      · exact h
      · next u e =>
        have hu : Inv u := gwrite_ok ht _ _ _ u e
        simp [hu.canon]

@[simp] theorem logTicks_canon : Canon s.logTicks.mem := foldl_canon (fun _ _ ht => logEntry_canon ht ..) h

@[simp] theorem switchOut_canon (c) : Canon (s.switchOut c).mem := by
  have hf {w} {g : List (List Tile)} {t : State} (ht : Inv t) : Inv (g.foldl (fun t q => t.evict (w / 2) q) t) :=
    foldl_inv (fun u q hu => evict_canon hu _ q) ht
  simpa [State.switchOut] using hf (t := s.mapCtx c _) h

theorem execSliceTick_next : NextInv (execSliceTick s) := by
  unfold execSliceTick
  extract_lets s1 s2 s3 ran s4 s5 s6 s7 s8
  have h5 : Inv s5 := inv_of_mem h (by simp [s5, s4, s3, s2, s1])
  have h6 : Inv s6 := foldl_inv (fun t c ht => switchOut_canon ht c) h5
  have h7 : Inv s7 := foldl_inv (fun t c ht => inv_of_mem ht (switchIn_mem ..)) h6
  have h8 : Inv s8 := logTicks_canon (inv_of_mem h7 (budgetReplies_mem _))
  simp [h8.canon]

@[simp] theorem checkPage_canon (c k) : Canon (s.checkPage c k).mem := by
  unfold State.checkPage
  split
  · exact h
  · split
    · simp [h.canon]
    · dsimp only
      split
      · simp [h.canon]
      · next t bs e =>
        have ht : Inv t := gread_ok h _ _ _ (t, bs) e
        split <;> simp [ht.canon]

theorem execCodePageCheck_next : NextInv (execCodePageCheck s) := by
  unfold execCodePageCheck
  split
  · exact nextInv_next.mpr (onFocus_inv h fun t ht => inv_iff.mpr (canon_mem_ite ht (checkPage_canon ht ..)))
  · exact nextInv_next.mpr h

theorem execCodeGenerationFree_next : NextInv (execCodeGenerationFree s) := by
  unfold execCodeGenerationFree
  split
  · split
    · exact nextInv_next.mpr h
    · split
      · exact nextInv_next.mpr h
      · refine nextInv_ite.mpr ⟨fun _ => nextInv_next.mpr h, fun _ => nextInv_next.mpr ?_⟩
        exact zeroBytes_inv (s := { s with codes := _ }) h _ _
  · exact nextInv_next.mpr h

theorem execCodeStoreDrop_next : NextInv (execCodeStoreDrop s) := by unfold execCodeStoreDrop; split <;> simp [h.canon]
end

/-! ### Contexts, code pages -/

section
variable (s : State)

@[simp] theorem grantQueues_mem (p c first n) : (grantQueues s p c first n).1.mem = s.mem := by simp [grantQueues]
@[simp] theorem revokePkgs_mem (p c first n src) : (revokePkgs s p c first n src).1.mem = s.mem := by simp [revokePkgs]

@[simp] theorem withdrawPages_mem (k c : Nat) (p : Nat × Nat) : (s.withdrawPages k c p).mem = s.mem := by
  induction k generalizing s c p with
  | zero => rfl
  | succ k ih =>
    obtain ⟨lo, n⟩ := p
    unfold State.withdrawPages
    split
    · rfl
    · exact foldl_mem fun t y => foldl_mem fun u r => ih ..

@[simp] theorem revokeMem_mem (p c src first n) : (revokeMem s p c src first n).1.mem = s.mem := by simp [revokeMem]
@[simp] theorem revokeQueues_mem (c first n) : (revokeQueues s c first n).1.mem = s.mem := by simp [revokeQueues]
@[simp] theorem revokeBanks_mem (p c die unit mask) : (revokeBanks s p c die unit mask).1.mem = s.mem := by
  unfold revokeBanks
  split <;> simp
end

section
variable {s : State} (h : Inv s)
include h

@[simp] theorem copCtxCreate_canon (r) : Canon (copCtxCreate r s).1.mem := by
  unfold copCtxCreate
  split
  · exact h
  · refine canon_fst_ite h (canon_fst_ite h (canon_fst_ite h ?_))
    split
    · exact h
    · split
      · exact h
      · simp [h.canon]

@[simp] theorem zeroPage_canon (slot pp) : Canon (s.zeroPage slot pp).mem := by simp [State.zeroPage, h.canon]

@[simp] theorem grantTiles_canon (p c first n src) : Canon (grantTiles s p c first n src).1.mem := by
  unfold grantTiles
  extract_lets ents new map given t
  have ht : Inv t := h
  refine canon_fst_ite h (canon_fst_ite h (canon_fst_ite h (canon_fst_ite h (canon_fst_ite h (canon_fst_ite h (canon_fst_ite h ?_))))))
  exact foldl_canon (fun u e hu => scrubTile_canon hu ..) ht

@[simp] theorem grantPkgs_canon (p c first n src list) : Canon (grantPkgs s p c first n src list).1.mem := by
  unfold grantPkgs
  extract_lets ents refs
  have hr : Ok (Inv ·.1) refs := by
    unfold refs
    split
    · exact ok_ok.mpr h
    · exact gread_ok h _ _ _
  clear_value refs
  refine canon_fst_ite h (canon_fst_ite h ?_)
  split
  · exact inv_of_mem h (by simp)
  · next t bs =>
    have ht : Inv t := hr (t, bs) rfl
    exact canon_fst_ite h (canon_fst_ite h ht)

@[simp] theorem grantMem_canon (p c perm src first n) : Canon (grantMem s p c perm src first n).1.mem := by
  unfold grantMem
  split
  · exact h
  · split
    · exact h
    · split
      · exact h
      · next l _ _ =>
        have hz : Inv (l.foldl (fun u pp => u.zeroPage c.cnum pp) s) := foldl_inv (fun u pp hu => zeroPage_canon hu ..) h
        simp [h.canon, hz.canon]

@[simp] theorem zeroBanks_canon (die u mask) : Canon (s.zeroBanks die u mask).mem :=
  foldl_canon (fun _ _ ht => zeroBytes_inv ht _ _) h
@[simp] theorem grantBanks_canon (p c die unit mask) : Canon (grantBanks s p c die unit mask).1.mem := by
  unfold grantBanks
  split <;> simp [h.canon]

@[simp] theorem copCtxGrant_canon (r) : Canon (copCtxGrant r s).1.mem := by
  unfold copCtxGrant
  split
  · exact h
  · exact h
  · dsimp only
    split
    · exact grantTiles_canon h ..
    · exact grantPkgs_canon h ..
    · exact grantMem_canon h ..
    · exact inv_of_mem h (grantQueues_mem ..)
    · exact grantBanks_canon h ..
    · exact grantBanks_canon h ..
    · exact h

@[simp] theorem revokeTiles_canon (p c first n src) : Canon (revokeTiles s p c first n src).1.mem := by
  unfold revokeTiles
  extract_lets gs named sub t u
  have ht : t.mem = s.mem := foldl_mem fun _ _ => rfl
  have hu : Inv u := inv_of_mem h (by simp [u, ht])
  split
  · exact h
  · split
    · exact h
    · exact foldl_canon (fun v g hv => scrubTile_canon hv ..) hu

@[simp] theorem copCtxRevoke_canon (r) : Canon (copCtxRevoke r s).1.mem := by
  unfold copCtxRevoke
  split
  · exact h
  · exact h
  · dsimp only
    split
    · exact revokeTiles_canon h ..
    · exact inv_of_mem h (revokePkgs_mem ..)
    · exact inv_of_mem h (revokeMem_mem ..)
    · exact inv_of_mem h (revokeQueues_mem ..)
    · exact inv_of_mem h (revokeBanks_mem ..)
    · exact inv_of_mem h (revokeBanks_mem ..)
    · exact h

@[simp] theorem copCtxScrub_canon (r) : Canon (copCtxScrub r s).1.mem := by
  have hp (c : Nat) (l : List Nat) : Inv (l.foldl (fun t pp => (t.zeroPage c pp).readBack (pp * 65536) 65536) s) :=
    foldl_inv (fun t pp ht => inv_of_mem (zeroPage_canon ht ..) (readBack_mem ..)) h
  have hb (l : List Nat) (die u mask) :
      (l.foldl (fun t b => t.readBack (bankKey die u b) (bankSize die)) (s.zeroBanks die u mask)).mem = (s.zeroBanks die u mask).mem :=
    foldl_mem fun t b => readBack_mem ..
  unfold copCtxScrub
  split
  · exact h
  · exact h
  · next p c _ _ =>
    extract_lets b banks
    have hbanks (die) : Inv (banks die).1 := by
      unfold banks
      dsimp only
      split
      · exact h
      · exact canon_fst_ite h (inv_of_mem (zeroBanks_canon h ..) (hb ..))
    clear_value banks
    split
    · refine canon_fst_ite h ?_
      split
      · exact h
      · exact hp ..
    · exact hbanks _
    · exact hbanks _
    · exact h

@[simp] theorem clearContext_canon (c) : Canon (s.clearContext c).mem := by
  unfold State.clearContext
  extract_lets s1 s2
  have h1 : Inv s1 := foldl_killTile_inv h _
  have h2 : Inv s2 := abortJobs_canon (inv_of_mem h1 (killImages_mem ..)) c
  exact h2

@[simp] theorem logEnds_canon (c sub) : Canon (s.logEnds c sub).mem := foldl_canon (fun _ _ ht => logEntry_canon ht ..) h
@[simp] theorem loseKey_canon (slot) : Canon (s.loseKey slot).mem :=
  foldl_canon (fun t _ ht => writeBytes_inv (s := (t.freeVal (8 * 65536)).2) ht _ _) h

@[simp] theorem destroy_canon (p c) : Canon (s.destroy p c).mem := by
  unfold State.destroy
  extract_lets l t0 s1 gone mem tiles qb db vf path s2 s3 bankUnits s4 s5 pages s6 s7 unitIn banksOf runs child dead past keys s8 back
  have h1 : Inv s1 := foldl_inv (fun t x ht => logEnds_canon ht ..) h
  have h2 : Inv s2 := foldl_inv (fun t x ht => clearContext_canon ht ..) h1
  have h3 : Inv s3 := foldl_inv (fun t g ht => scrubTile_canon ht ..) h2
  have h4 : Inv s4 := foldl_inv (fun t x ht => zeroBanks_canon ht ..) h3
  have h5 : Inv s5 := foldl_inv (fun t x ht => zeroBanks_canon ht ..) h4
  have h6 : Inv s6 := foldl_inv (fun t x ht => inv_of_mem (zeroPage_canon ht ..) (readBack_mem ..)) h5
  have h7 : Inv s7 := foldl_inv (fun t x ht => loseKey_canon ht x) h6
  exact inv_of_mem h7 (by simp [s8])

@[simp] theorem copCtxDestroy_canon (r) : Canon (copCtxDestroy r s).1.mem := by unfold copCtxDestroy; split <;> simp [h.canon]
@[simp] theorem copCtxBudget_canon (r) : Canon (copCtxBudget r s).1.mem := by unfold copCtxBudget; split <;> simp [h.canon]
@[simp] theorem copCtxKey_canon (r) : Canon (copCtxKey r s).1.mem := by unfold copCtxKey; split <;> simp [h.canon]

@[simp] theorem copCtxReceipt_canon (r) : Canon (copCtxReceipt r s).1.mem := by
  unfold copCtxReceipt
  split
  · exact h
  · refine canon_fst_ite h (canon_fst_ite h ?_)
    split
    · exact inv_of_mem h (copFault_mem ..)
    · next t e => exact gwrite_ok h _ _ _ t e

@[simp] theorem copLogArm_canon (r) : Canon (copLogArm r s).1.mem := by
  unfold copLogArm
  split
  · exact h
  · refine canon_fst_ite h (canon_fst_ite ?_ ?_)
    · split
      · exact h
      · exact logEntry_canon h ..
    · exact logEntry_canon (inv_of_mem h (mapCtx_mem ..)) ..

@[simp] theorem copLogRead_canon (r) : Canon (copLogRead r s).1.mem := by
  unfold copLogRead
  split
  · exact h
  · split
    · exact h
    · exact canon_fst_ite h (copWrites_canon h ..)

@[simp] theorem copTimeRead_canon (r) : Canon (copTimeRead r s).1.mem := by unfold copTimeRead; split <;> simp [h.canon]
end

/-! ### Integer and handle control -/

section
variable {s : State} (h : Inv s)
include h

theorem execBeq_next (a b k) : NextInv (execBeq a b k s) := common_next h (by simp [h.canon])
theorem execBne_next (a b k) : NextInv (execBne a b k s) := common_next h (by simp [h.canon])
theorem execBlt_next (a b k) : NextInv (execBlt a b k s) := common_next h (by simp [h.canon])
theorem execBge_next (a b k) : NextInv (execBge a b k s) := common_next h (by simp [h.canon])
theorem execBltu_next (a b k) : NextInv (execBltu a b k s) := common_next h (by simp [h.canon])
theorem execBgeu_next (a b k) : NextInv (execBgeu a b k s) := common_next h (by simp [h.canon])
theorem execJal_next (d k) : NextInv (execJal d k s) := common_next h (by simp [h.canon])
theorem execJalr_next (d a i) : NextInv (execJalr d a i s) := common_next h (by simp [h.canon])
@[simp] theorem enterLoop_ok (n e) : Ok Inv (enterLoop s n e) := by simp [enterLoop, h.canon]
theorem execLoop_next (a k) : NextInv (execLoop a k s) := common_next h (by simp [h.canon])
theorem execLoopi_next (n k) : NextInv (execLoopi n k s) := common_next h (by simp [h.canon])
@[simp] theorem loopExit_ok (yes) : Ok Inv (loopExit s yes) := by unfold loopExit; split <;> simp [h.canon]
theorem execLbrk_next (a) : NextInv (execLbrk a s) := common_next h (by simp [h.canon])
theorem execLbrkZ_next (a) : NextInv (execLbrkZ a s) := common_next h (by simp [h.canon])
end

/-! ### Placement functions of cop -/

section
variable (s : State)

@[simp] theorem watchRows_mem (c e l) : (s.watchRows c e l).mem = s.mem := by simp [State.watchRows]

@[simp] theorem askHomes_mem (c j) : (s.askHomes c j).mem = s.mem := by
  unfold State.askHomes
  split
  · rfl
  · refine foldl_mem fun t i => ?_
    split
    · rfl
    · split
      · rfl
      · exact tell_mem ..

@[simp] theorem jobTurn_mem (c j) : (s.jobTurn c j).1.mem = s.mem := by simp [State.jobTurn]
end

section
variable {s : State} (h : Inv s)
include h

@[simp] theorem copPtabSet_canon (r) : Canon (copPtabSet r s).1.mem := by unfold copPtabSet; split <;> simp [h.canon]
@[simp] theorem copPtabGet_canon (r) : Canon (copPtabGet r s).1.mem := by unfold copPtabGet; split <;> simp [h.canon]
@[simp] theorem copMeshSet_canon (r) : Canon (copMeshSet r s).1.mem := by unfold copMeshSet; split <;> simp [h.canon]
@[simp] theorem convDone_canon (c prec v) : Canon (s.convDone c prec v).1.mem := by simp [State.convDone, h.canon]
@[simp] theorem convFault_canon (r prec v) : Canon (s.convFault r prec v).1.mem := by simp [State.convFault, h.canon]

@[simp] theorem convWrite_ok (r : Req) (v : Conv) (l : List (List Nat × List Byte)) : Ok Inv (s.convWrite r v l) := by
  induction l generalizing s with
  | nil => exact ok_ok.mpr h
  | cons p ps ih =>
    unfold State.convWrite
    split
    · exact ok_error
    · next t e => exact ih (writeShards_ok _ _ _ _ _ _ _ _ _ h _ t e)

@[simp] theorem convStep_canon (r prec v) : Canon (s.convStep r prec v).1.mem := by
  unfold State.convStep
  refine canon_fst_ite (convFault_canon h ..) (canon_fst_ite (inv_iff.mpr (canon_fst_ite h (convDone_canon h ..))) (canon_fst_ite h ?_))
  split
  · exact convFault_canon (inv_of_mem h (by simp)) ..
  · dsimp only
    split
    · exact convFault_canon (inv_of_mem h (by simp)) ..
    · next u e =>
      have hu : Inv u := convWrite_ok (inv_of_mem h (by simp)) _ _ _ u e
      exact hu

@[simp] theorem convBegin_canon (r prec v) : Canon (s.convBegin r prec v).1.mem := by simp [State.convBegin, h.canon]
@[simp] theorem convCompare_canon (r x prec v) : Canon (s.convCompare r x prec v).1.mem := by simp [State.convCompare, h.canon]

@[simp] theorem convTurn_canon (r x prec) : Canon (s.convTurn r x prec).1.mem := by
  unfold State.convTurn
  refine canon_fst_ite h ?_
  split
  · exact h
  · refine canon_fst_ite h (canon_fst_ite h ?_)
    split
    · exact h
    · refine canon_fst_ite (inv_iff.mpr (canon_fst_ite h ?_)) (inv_iff.mpr (canon_fst_ite (convBegin_canon h ..) ?_))
      · exact inv_of_mem h (by simp)
      · exact inv_of_mem h ((foldl_mem fun t m => tell_mem ..).trans (mapReq_mem ..))

@[simp] theorem copPlaceConv_canon (r) : Canon (copPlaceConv r s).1.mem := by
  unfold copPlaceConv
  dsimp only
  split
  · exact h
  · split
    · exact canon_fst_ite (inv_of_mem h (mapReq_mem ..)) (convTurn_canon (inv_of_mem h (mapReq_mem ..)) ..)
    · split
      · exact inv_of_mem h (by simp)
      · exact canon_fst_ite (convCompare_canon h ..) (convStep_canon h ..)

@[simp] theorem copTensor_canon (r) : Canon (copTensor r s).1.mem := by
  unfold copTensor
  dsimp only
  split
  · exact h
  · refine canon_fst_ite h (inv_of_mem h ((tell_mem ..).trans ?_))
    split
    · rfl
    · exact markConv_mem ..

@[simp] theorem tensorEnds_canon (r) : Canon (s.tensorEnds r).mem := by
  unfold State.tensorEnds
  extract_lets prec t
  have ht : Inv t := h
  refine canon_mem_ite ht ?_
  split
  · exact ht
  · exact settleRace_canon (inv_of_mem ht (markConv_mem ..)) ..

@[simp] theorem writeJob_ok (c j) : Ok Inv (s.writeJob c j) := by
  unfold State.writeJob
  split
  · exact ok_error
  · next t e => exact ok_ok.mpr (gwrite_ok h _ _ _ t e)
end

theorem eachJob_inv {s : State} {f : Ctx → Job → State → State} (hf : ∀ x j t, Inv t → Inv (f x j t)) (h : Inv s) :
    Inv (s.eachJob f) :=
  foldl_inv (fun _ x ht => foldl_inv (fun _ j hu => hf x j _ hu) ht) h

section
variable {s : State} (h : Inv s)
include h

@[simp] theorem jobFails_canon (c j cls x addr) : Canon (s.jobFails c j cls x addr).mem := by
  unfold State.jobFails
  extract_lets k t t2
  have ht : Inv t := jobEnds_canon (inv_of_mem h (by simp)) ..
  have h2 : Inv t2 := ht
  rw [jobReply_mem]
  split
  · exact h2
  · next u e => exact writeJob_ok h2 _ _ u e

@[simp] theorem xferDone_canon (c j x) : Canon (s.xferDone c j x).mem := by
  unfold State.xferDone
  extract_lets k t
  have ht : Inv t := h
  split
  · exact canon_mem_ite ht ht
  · have hu : Inv (t.jobEnds c k 4) := jobEnds_canon ht ..
    split
    · exact jobFails_canon ht ..
    · next u e => exact inv_of_mem (writeJob_ok hu _ _ u e) (jobReply_mem ..)

@[simp] theorem putRows_ok (c : Nat) (l : List (Nat × List Byte)) : Ok Inv (s.putRows c l) := by
  induction l generalizing s with
  | nil => exact ok_ok.mpr h
  | cons p ps ih =>
    unfold State.putRows
    split
    · exact ok_error
    · next t e => exact ih (gwrite_ok h _ _ _ t e)

@[simp] theorem tryXfer_canon (c j x) : Canon (s.tryXfer c j x).mem := by
  unfold State.tryXfer
  extract_lets later j' mine own
  have hl {n t} (ht : Inv t) : Inv (later n t) := ht
  clear_value later
  refine canon_mem_ite (hl h) ?_
  have hj : Inv (s.jobTurn c j).1 := inv_of_mem h (jobTurn_mem ..)
  generalize s.jobTurn c j = r at hj
  obtain ⟨t, turn⟩ := r
  refine canon_mem_ite (hl hj) ?_
  split
  · exact hj
  · split
    · extract_lets t1 rows
      have h1 : Inv t1 := inv_of_mem hj (by simp [t1])
      split
      next se sp hse =>
        split
        next de dp hde =>
          split
          · exact jobFails_canon h1 ..
          · exact jobFails_canon h1 ..
          · next se de _ _ =>
            extract_lets ask t2 t3 t4
            have ha : ask.mem = t1.mem := foldl_mem fun u p => by simp
            have h2 : Inv t2 := canon_mem_ite h1 (inv_of_mem h1 ha)
            refine canon_mem_ite (hl h2) ?_
            split
            · exact jobFails_canon h2 ..
            · next l _ =>
              have h3 : Inv t3 := inv_of_mem h2 (watchRows_mem ..)
              split
              · split
                · exact jobFails_canon h3 ..
                · next u e => exact xferDone_canon (putRows_ok h3 _ _ u e) ..
              · exact inv_of_mem h3 ((foldl_mem fun u p => by simp).trans (dropSent_mem ..))
    · exact jobFails_canon hj ..

theorem execTrestleTransferComplete_next : NextInv (execTrestleTransferComplete s) := by
  unfold execTrestleTransferComplete
  split
  · split
    · exact nextInv_next.mpr h
    · refine nextInv_ite.mpr ⟨fun _ => nextInv_next.mpr h, fun _ => ?_⟩
      split
      · exact nextInv_next.mpr (jobFails_canon h ..)
      · exact nextInv_next.mpr (canon_mem_ite (xferDone_canon h ..) (tryXfer_canon h ..))
  · exact nextInv_next.mpr h

theorem execProgressRecordWrite_next : NextInv (execProgressRecordWrite s) := by
  unfold execProgressRecordWrite
  split
  · split
    · exact nextInv_next.mpr h
    · refine nextInv_ite.mpr ⟨fun _ => nextInv_next.mpr h, fun _ => ?_⟩
      split
      · exact nextInv_next.mpr (jobFails_canon h ..)
      · next t e =>
        have ht : Inv t := writeJob_ok h _ _ t e
        exact nextInv_next.mpr ht
  · exact nextInv_next.mpr h

@[simp] theorem copRsPlan_canon (r) : Canon (copRsPlan r s).1.mem := by
  unfold copRsPlan
  dsimp only
  split
  · exact h
  · split
    · refine canon_fst_ite h (canon_fst_ite h ?_)
      split
      · exact h
      · split
        · exact inv_of_mem h (copFault_mem ..)
        · next t e =>
          have ht : Inv t := writeJob_ok h _ _ t e
          exact ht
    · exact h

@[simp] theorem runJob_canon (r j) : Canon (s.runJob r j).1.mem := by
  unfold State.runJob
  extract_lets k
  have hm : Inv (s.mapJob r.cnum j.n fun _ => k) := h
  split
  · exact jobFails_canon hm ..
  · next t e =>
    have ht : Inv t := writeJob_ok hm _ _ t e
    exact inv_of_mem ht (by simp)

@[simp] theorem copRsRun_canon (r) : Canon (copRsRun r s).1.mem := by
  unfold copRsRun
  split
  · refine canon_fst_ite h (canon_fst_ite h (canon_fst_ite (runJob_canon h ..) ?_))
    split
    · exact inv_of_mem h (copFault_mem ..)
    · next t n e =>
      have ht : Inv t := greadNat_ok h _ _ _ (t, n) e
      refine canon_fst_ite ht ?_
      extract_lets skipped k u
      have hu : Inv u := freeRows_canon ht ..
      split
      · split
        · exact inv_of_mem h (copFault_mem ..)
        · next v e => exact writeJob_ok (inv_of_mem hu (mapJob_mem ..)) _ _ v e
      · exact runJob_canon hu ..
  · exact h

@[simp] theorem copRsStatus_canon (r) : Canon (copRsStatus r s).1.mem := by unfold copRsStatus; split <;> simp [h.canon]
@[simp] theorem copRsAbort_canon (r) : Canon (copRsAbort r s).1.mem := by unfold copRsAbort; split <;> simp [h.canon]
end

/-! ### Replies of cop -/

section
variable (s : State)

@[simp] theorem dropReq_mem (n) : (s.dropReq n).mem = s.mem := rfl
@[simp] theorem copLand_mem (r) : (s.copLand r).mem = s.mem := by simp [State.copLand]
end

section
variable {s : State} (h : Inv s)
include h

@[simp] theorem copFn_canon (n r) : Canon (copFn n r s).1.mem := by
  unfold copFn
  split <;> simp [h.canon]

@[simp] theorem copErr_canon (r k) : Canon (s.copErr r k).mem := by simp [State.copErr, h.canon]

@[simp] theorem copArrive_canon (r p) : Canon (s.copArrive r p).mem := by
  unfold State.copArrive
  extract_lets d b t u
  have ht : Inv t := engineBar_canon (copErr_canon h ..) ..
  have hu : Inv u := canon_mem_ite (engineBar_canon ht ..) (copErr_canon ht ..)
  exact hu

@[simp] theorem copDeliver_canon (n) : Canon (s.copDeliver n).mem := by
  unfold State.copDeliver
  split
  · exact h
  · next r _ =>
    dsimp only
    split
    · exact h
    · split
      · split
        · exact h
        · exact inv_of_mem h (by simp)
      · split
        · next t _ =>
          have ha : Inv ((if r.status = stLost then s.freeDst r else s).copArrive r fun _ => true) :=
            copArrive_canon (canon_mem_ite (freeDst_canon h r) h) ..
          exact canon_mem_ite ha (onCore_getD_inv (inv_of_mem ha (dropReq_mem ..)) fun u hu => inv_of_mem hu (copLand_mem ..))
        · split
          · exact inv_of_mem (copArrive_canon h ..) (after_mem ..)
          · exact inv_of_mem (copArrive_canon h ..) (dropReq_mem ..)

@[simp] theorem copSettle_canon (n x2) : Canon (s.copSettle n x2).mem := by unfold State.copSettle; split <;> simp [h.canon]

theorem execCopReply_next : NextInv (execCopReply s) := by
  unfold execCopReply
  split
  · split
    · exact nextInv_next.mpr h
    · simp [h.canon]
  · exact nextInv_next.mpr h
end

/-! ### The fabric -/

section
variable (s : State)

@[simp] theorem answer_mem (p type status x bs) : (s.answer p type status x bs).mem = s.mem := by simp [State.answer]
@[simp] theorem ack_mem (p status) : (s.ack p status).mem = s.mem := by simp [State.ack]
@[simp] theorem putOrder_mem (p e) : (s.putOrder p e).mem = s.mem := rfl
@[simp] theorem struckRun_mem (c rs e r w) : (s.struckRun c rs e r w).mem = s.mem := by unfold State.struckRun; split <;> simp
@[simp] theorem settled_mem (u) : (s.settled u).mem = s.mem := rfl
@[simp] theorem breakWrite_mem (u t) : (s.breakWrite u t).mem = s.mem := by simp [State.breakWrite]
@[simp] theorem restoreCounts_mem (u) : (s.restoreCounts u).mem = s.mem := rfl
@[simp] theorem uncount_mem (u) : (s.uncount u).mem = s.mem := by simp [State.uncount]

@[simp] theorem flagBroken_mem (u t) : (s.flagBroken u t).mem = s.mem := by
  unfold State.flagBroken
  dsimp only
  split <;> simp

@[simp] theorem keep_mem (u bs) : (s.keep u bs).mem = s.mem := rfl
@[simp] theorem newFar_mem (src n cnum fn7 ga gb) : (s.newFar src n cnum fn7 ga gb).mem = s.mem := rfl
@[simp] theorem opGranted_mem (o img) : (s.opGranted o img).mem = s.mem := by simp [State.opGranted]
@[simp] theorem mapLink_mem (n f) : (s.mapLink n f).mem = s.mem := rfl

@[simp] theorem blockFailed_mem (n) : (s.blockFailed n).mem = s.mem := by
  unfold State.blockFailed
  split
  · rfl
  · split
    · rfl
    · split
      · rfl
      · dsimp only
        split <;> rfl

@[simp] theorem collEnds_mem (k) : (s.collEnds k).mem = s.mem := by simp [State.collEnds]
@[simp] theorem nackAll_mem (l cls) : (s.nackAll l cls).mem = s.mem := by simp [State.nackAll]
end

section
variable {s : State} (h : Inv s)
include h

@[simp] theorem applyFlag_canon (f) : Canon (s.applyFlag f).mem := by
  unfold State.applyFlag
  refine canon_mem_ite (inv_of_mem h (ack_mem ..)) ?_
  split
  · exact inv_of_mem h (ack_mem ..)
  · split
    · exact inv_of_mem h (ack_mem ..)
    · next t e =>
      have ht : Inv t := gwrite_ok h _ _ _ t e
      exact inv_of_mem (inv_iff.mpr (plainRuns_canon ht ..)) (ack_mem ..)

@[simp] theorem runFlags_canon (p : Packet) (n : Nat) : Canon (runFlags p n s).mem := by
  induction n generalizing s with
  | zero => exact h
  | succ n ih =>
    unfold runFlags
    dsimp only
    split
    · exact h
    · refine canon_mem_ite (ih (inv_of_mem h (by simp))) (canon_mem_ite (ih (applyFlag_canon (inv_of_mem h ?_) _)) h)
      exact putOrder_mem ..

@[simp] theorem count_canon (p ok) : Canon (s.count p ok).mem := by simp [State.count, h.canon]
@[simp] theorem rejectPacket_canon (p) : Canon (s.rejectPacket p).mem := by simp [State.rejectPacket, h.canon]

theorem arrival_next {type} {f : Packet → State → State} (hf : ∀ p t, Inv t → Inv (f p t)) : NextInv (arrival type f s) := by
  unfold arrival
  split
  · refine nextInv_ite.mpr ⟨fun _ => nextInv_next.mpr h, fun _ => nextInv_ite.mpr ⟨fun _ => ?_, fun _ => ?_⟩⟩
    · exact nextInv_next.mpr (rejectPacket_canon h ..)
    · exact nextInv_next.mpr (hf _ _ h)
  · exact nextInv_next.mpr h

theorem execMalformedPacket_next : NextInv (execMalformedPacket s) := by unfold execMalformedPacket; split <;> simp [h.canon]

theorem perform_inv {p rs} {f : Ctx → Access (State × Word)} (hf : ∀ c, Ok (Inv ·.1) (f c)) : Inv (s.perform p rs f) := by
  unfold State.perform
  refine inv_iff.mpr (canon_mem_ite (inv_of_mem h (ack_mem ..)) ?_)
  split
  · exact count_canon (inv_of_mem h (ack_mem ..)) ..
  · next c _ =>
    split
    · exact count_canon (inv_of_mem h (by simp)) ..
    · next t x e =>
      have ht : Inv t := hf c (t, x) e
      exact count_canon (inv_of_mem ht (answer_mem ..)) ..
end

theorem ok_map {α β : Type} {ε : Type} {P : α → Prop} {Q : β → Prop} {x : Except ε α} {f : α → β} (hx : Ok P x)
    (hf : ∀ a, P a → Q (f a)) : Ok Q (x.map f) := by
  cases x with
  | error e => exact ok_error
  | ok a => exact ok_ok.mpr (hf a (hx a rfl))

section
variable {s : State} (h : Inv s)
include h

theorem execWrite_next : NextInv (execWrite s) :=
  arrival_next h fun _ _ ht => perform_inv ht fun _ => ok_map (gwriteRuns_ok ht _ _ _) fun _ hu =>
    inv_iff.mpr (canon_mem_ite hu (plainRuns_canon hu ..))

theorem execReadRequest_next : NextInv (execReadRequest s) := by
  refine arrival_next h fun p t ht => ?_
  dsimp only
  split
  · exact inv_of_mem ht (ack_mem ..)
  · split
    · exact inv_of_mem ht (by simp)
    · next u bs e =>
      have hu : Inv u := greadRuns_ok ht _ _ (u, bs) e
      exact inv_of_mem hu (answer_mem ..)

@[simp] theorem addLine_ok (c va : Nat) (f : Fmt) (bs : List Byte) (n : Nat) : Ok Inv (s.addLine c va f bs n) := by
  induction n generalizing s va bs with
  | zero => exact ok_ok.mpr h
  | succ n ih =>
    unfold State.addLine
    dsimp only
    split
    · exact ok_error
    · next t k e =>
      have ht : Inv t := gatomic_ok h _ _ _ (t, k) e
      exact ih (atomicAdd_canon (inv_of_mem ht (racTouch_mem ..)) ..) _ _

theorem execAtomic_next : NextInv (execAtomic s) := by
  refine arrival_next h fun p t ht => ?_
  split
  · exact perform_inv ht fun c => atomicWord_ok ht _ _ _ _ _
  · exact perform_inv ht fun c => ok_map (addLine_ok ht _ _ _ _ _) fun u hu => hu

@[simp] theorem takeFlag_canon (p) : Canon (State.takeFlag p s).mem := by simp [State.takeFlag, h.canon]
theorem execOrderedFlag_next : NextInv (execOrderedFlag s) := arrival_next h fun p _ ht => takeFlag_canon ht p
theorem execCountOnlyFlag_next : NextInv (execCountOnlyFlag s) := arrival_next h fun p _ ht => takeFlag_canon ht p

@[simp] theorem acqLand_canon (id x) : Canon (s.acqLand id x).mem := by
  unfold State.acqLand
  split
  · refine canon_mem_ite h ?_
    dsimp only
    split
    · next u e =>
      have hu : Inv u := tokens_inv_ok (inv_of_mem h (setCore_mem ..)) _ _ u e
      exact inv_of_mem hu (by simp)
    · exact inv_of_mem h (by simp)
  · exact h

@[simp] theorem refusedHere_canon (u cls pod) : Canon (s.refusedHere u cls pod).mem := by
  unfold State.refusedHere
  extract_lets s1 ecode t
  have h1 : Inv s1 := inv_of_mem h (uncount_mem ..)
  clear_value s1
  split
  · split
    · exact h1
    · extract_lets t2
      have h2 : Inv t2 := faultOp_canon (spoilPlace_canon h1 _) ..
      refine canon_mem_ite h1 (inv_iff.mpr (canon_mem_ite ?_ h2))
      exact inv_of_mem h2 (by simp)
  · have ht : Inv t := canon_mem_ite (inv_of_mem h1 (restoreCounts_mem ..)) h1
    exact canon_mem_ite (inv_of_mem ht (flagBroken_mem ..)) (inv_of_mem ht (breakWrite_mem ..))
  · simp [h1.canon]
  · split
    · exact canon_mem_ite h1 (inv_of_mem h1 (takeTrap_mem ..))
    · exact h1
  · exact h1
  · exact h1

@[simp] theorem refusedPacket_canon (u cls) : Canon (s.refusedPacket u cls).mem := by
  have hc {pt c pod} : Inv ((s.onCore pt c fun v => v.refusedHere u cls pod).getD s) :=
    onCore_getD_inv h fun v hv => refusedHere_canon hv ..
  unfold State.refusedPacket
  dsimp only
  split
  · exact h
  · exact h
  · split
    · exact h
    · exact hc

@[simp] theorem appliedPacket_canon (u x) : Canon (s.appliedPacket u x).mem := by
  unfold State.appliedPacket
  extract_lets here
  have hh : Inv (here State.tryComplete) := by
    unfold here
    split
    · exact h
    · exact onCore_getD_inv h fun v hv => inv_of_mem hv (tryComplete_mem _)
  clear_value here
  split
  · split
    · exact h
    · refine onOpSent_inv h fun v o hv => ?_
      split
      · exact inv_of_mem hv (ratReply_mem ..)
      · exact stPlaceAck_canon hv ..
      · exact partDone_canon hv ..
  · exact canon_mem_ite h h
  · exact hh
  · exact h
  · exact hh
  · exact h

theorem execAcknowledgement_next : NextInv (execAcknowledgement s) := by
  refine arrival_next h fun p t ht => ?_
  split
  · exact ht
  · refine inv_iff.mpr (canon_mem_ite (inv_of_mem ht (after_mem ..)) (canon_mem_ite ?_ ?_))
    · exact appliedPacket_canon (inv_of_mem ht (settled_mem ..)) ..
    · exact refusedPacket_canon (inv_of_mem ht (settled_mem ..)) ..

theorem execRefusedPacketResend_next : NextInv (execRefusedPacketResend s) := by
  unfold execRefusedPacketResend
  split
  · split
    · exact nextInv_next.mpr h
    · exact nextInv_next.mpr (inv_of_mem h (by simp))
  · exact nextInv_next.mpr h

@[simp] theorem dataHere_canon (o) : Canon (s.dataHere o).mem := by
  unfold State.dataHere
  refine canon_mem_ite h ?_
  split
  · exact h
  · exact landParts_canon _ _ _ h

theorem execReadData_next : NextInv (execReadData s) := by
  refine arrival_next h fun p t ht => ?_
  split
  · exact ht
  · dsimp only
    split
    · split
      · exact ht
      · exact onOpSent_inv (inv_of_mem ht (settled_mem ..)) fun v o hv => dataHere_canon (inv_of_mem hv (keep_mem ..)) o
    · split
      · exact ht
      · exact onCore_getD_inv (inv_of_mem ht (settled_mem ..)) fun v hv => acqLand_canon hv ..
    · exact ht
    · exact ht
    · exact ht
    · exact ht

@[simp] theorem poisonHere_canon (c va) : Canon (s.poisonHere c va).mem := by simp [State.poisonHere, h.canon]

@[simp] theorem copArrives_canon (src ctx sctx n fn7 ga gb block) : Canon (s.copArrives src ctx sctx n fn7 ga gb block).mem := by
  unfold State.copArrives
  extract_lets back
  have hb {t st w snap cls} (ht : Inv t) : Inv (back t st w snap cls) := inv_iff.mpr (canon_mem_ite ht (inv_of_mem ht (tell_mem ..)))
  clear_value back
  split
  · exact hb h
  · refine canon_mem_ite h ?_
    dsimp only
    split
    · exact hb (inv_of_mem h (deviceError_mem ..))
    · next t w snap e => exact hb (futApply_ok h _ _ _ _ _ _ (t, w, snap) e)

@[simp] theorem copAnswered_canon (n st w snap cls) : Canon (s.copAnswered n st w snap cls).mem := by
  unfold State.copAnswered
  split
  · exact h
  · next r _ =>
    dsimp only
    split
    · split
      · exact h
      · exact inv_of_mem h (by simp)
    · refine canon_mem_ite h (canon_mem_ite (inv_iff.mpr (canon_mem_ite h ?_)) h)
      split
      · next t e =>
        have ht : Inv t := putScratch_canon h e
        exact ht
      · exact h

@[simp] theorem tensorAnswer_canon (id img) : Canon (s.tensorAnswer id img).mem := by
  unfold State.tensorAnswer
  dsimp only
  split
  · split
    · exact h
    · exact onOpSent_inv h fun u p hu => inv_of_mem hu (opGranted_mem ..)
  · refine inv_iff.mp (inv_of_mem (eachJob_inv (fun x j t ht => ?_) h)
      (foldl_mem fun _ _ => foldl_mem fun _ _ => foldl_mem fun _ _ => endAsk_mem ..))
    cases j.asks.find? fun a => a.2.2.1 == id with
    | none => exact ht
    | some a => exact inv_iff.mpr (canon_mem_ite (jobFails_canon ht ..) ht)

theorem boundDo_inv {src ctx sctx} {f : Ctx → State} (hf : ∀ c, Inv (f c)) : Inv (s.boundDo src ctx sctx f) := by
  unfold State.boundDo
  split
  · exact h
  · exact hf _

@[simp] theorem spoilt_canon (c prec) : Canon (s.spoilt c prec).mem := by simp [State.spoilt, h.canon]
@[simp] theorem recordHere_canon (c prec img bad) : Canon (s.recordHere c prec img bad).mem := by simp [State.recordHere, h.canon]

theorem execControl_next : NextInv (execControl s) := by
  unfold execControl
  split
  · refine nextInv_next.mpr ?_
    split
    · exact h
    · exact inv_of_mem h (blockFailed_mem ..)
    · exact inv_of_mem h (by simp)
    · exact boundDo_inv h fun c => inv_iff.mpr (canon_mem_ite h h)
    · exact boundDo_inv h fun c => inv_iff.mpr (canon_mem_ite (inv_of_mem h (breakEp_mem ..)) h)
    · split
      · exact inv_of_mem h (tell_mem ..)
      · exact canon_mem_ite h h
    · exact canon_mem_ite (inv_of_mem h (collEnds_mem ..)) h
    · exact copArrives_canon h ..
    · exact copAnswered_canon h ..
    · split
      · exact inv_of_mem h (tell_mem ..)
      · exact canon_mem_ite (poisonHere_canon h ..) h
    · split
      · exact h
      · exact inv_of_mem h (notify_mem ..)
    · exact boundDo_inv h fun c => recordHere_canon h ..
    · exact boundDo_inv h fun c => spoilt_canon h ..
    · split
      · exact inv_of_mem h (tell_mem ..)
      · exact inv_of_mem h (newFar_mem ..)
    · exact tensorAnswer_canon h ..
    · exact boundDo_inv h fun c => foldl_inv (fun t r ht => tensorEnds_canon ht r) h
    · exact inv_of_mem h (tell_mem ..)
    · exact h
  · exact nextInv_next.mpr h

theorem execIntegrityBlock_next : NextInv (execIntegrityBlock s) := by
  unfold execIntegrityBlock
  split
  · split
    · exact nextInv_next.mpr h
    · refine nextInv_ite.mpr ⟨fun _ => nextInv_next.mpr h, fun _ => ?_⟩
      extract_lets back
      have hb {t m} (ht : Inv t) : Inv (back t m) := by
        unfold back
        split
        · exact inv_of_mem ht (tell_mem ..)
        · exact ht
      clear_value back
      refine nextInv_next.mpr (canon_mem_ite (inv_of_mem (hb ?_) (foldl_mem fun _ _ => after_mem ..)) (canon_mem_ite (hb ?_) (hb ?_)))
      all_goals exact h
  · exact nextInv_next.mpr h

@[simp] theorem ctlLost_canon (d m) : Canon (s.ctlLost d m).mem := by
  unfold State.ctlLost
  split
  · exact canon_mem_ite (copAnswered_canon h ..) (copAnswered_canon h ..)
  · split
    · exact h
    · exact inv_of_mem h (notify_mem ..)
  · exact h
  · exact h
  · exact h
  · exact inv_of_mem h (tell_mem ..)

theorem execLinkFail_next : NextInv (execLinkFail s) := by
  unfold execLinkFail
  split
  · split
    · exact nextInv_next.mpr h
    · refine nextInv_ite.mpr ⟨fun _ => nextInv_next.mpr h, fun _ => nextInv_next.mpr ?_⟩
      refine foldl_canon (fun u b hu => ?_) h
      split
      · exact ctlLost_canon hu ..
      · exact inv_of_mem hu (nackAll_mem ..)
  · exact nextInv_next.mpr h

theorem execLinkKeyexh_next : NextInv (execLinkKeyexh s) := by
  unfold execLinkKeyexh
  split
  · split
    · exact nextInv_next.mpr h
    · exact nextInv_ite.mpr ⟨fun _ => nextInv_next.mpr h, fun _ => nextInv_next.mpr (inv_of_mem h (by simp))⟩
  · exact nextInv_next.mpr h

@[simp] theorem endLost_canon (p) : Canon (s.endLost p).mem := by
  unfold State.endLost
  extract_lets target waits t1 t2 t3 t4
  have h1 : Inv t1 := foldl_inv (fun t r ht => inv_iff.mpr (canon_mem_ite ht (copAnswered_canon ht ..))) h
  have h2 : Inv t2 := inv_of_mem h1 (foldl_mem fun t r => after_mem ..)
  have h3 : Inv t3 := foldl_inv (fun t r ht => tensorEnds_canon ht r) h2
  have h4 : Inv t4 := inv_of_mem h3 (foldl_mem fun t i => foldl_mem fun u o => after_mem ..)
  refine eachJob_inv (fun x j u hu => ?_) h4
  split
  · exact jobFails_canon hu ..
  · exact hu

@[simp] theorem settleRaces_canon : Canon s.settleRaces.mem :=
  foldl_canon (fun _ _ ht => inv_iff.mpr (canon_mem_ite ht (settleRace_canon ht ..))) h

theorem execPackageLost_next : NextInv (execPackageLost s) := by
  unfold execPackageLost
  split
  · refine nextInv_ite.mpr ⟨fun _ => nextInv_next.mpr h, fun _ => ?_⟩
    extract_lets t1 t2 eps t3 t4 t5
    have h2 : Inv t2 := by
      unfold t2
      split
      · exact h
      · exact h
    have h3 : Inv t3 := inv_of_mem h2 (foldl_mem fun t k => breakEp_mem ..)
    have h4 : Inv t4 := settleRaces_canon h3
    have h5 : Inv t5 := inv_of_mem h4 (nackAll_mem ..)
    refine nextInv_next.mpr (endLost_canon ?_ _)
    exact h5
  · exact nextInv_next.mpr h
end

/-! ### Handle instructions -/

section
variable {s : State} (h : Inv s)
include h

theorem execHld_next (x0 a) : NextInv (execHld x0 a s) := common_next h (by simp [h.canon])
theorem execHst_next (x0 a) : NextInv (execHst x0 a s) := common_next h (by simp [h.canon])
theorem execHset_next (x0 b f) : NextInv (execHset x0 b f s) := common_next h (by simp [h.canon])
theorem execHget_next (d x1 f) : NextInv (execHget d x1 f s) := common_next h (by simp [h.canon])
theorem execHmov_next (x0 k) : NextInv (execHmov x0 k s) := common_next h (by simp [h.canon])
end

/-! ### Power, soft errors, boot -/

section
variable (s : State)

@[simp] theorem setPower_mem (p) : (s.setPower p).mem = s.mem := rfl
@[simp] theorem answerBells_mem : (s.answerBells).mem = s.mem := by simp [State.answerBells]
end

section
variable {s : State} (h : Inv s)
include h

theorem execPowerSample_next : NextInv (execPowerSample s) := by unfold execPowerSample; split <;> simp [h.canon]
theorem execPowerLimitSet_next : NextInv (execPowerLimitSet s) := by unfold execPowerLimitSet; split <;> simp [h.canon]
theorem execJunctionSample_next : NextInv (execJunctionSample s) := by unfold execJunctionSample; split <;> simp [h.canon]
theorem execLimitStep_next : NextInv (execLimitStep s) := by simp [execLimitStep, h.canon]

theorem execSoftError_next : NextInv (execSoftError s) := by
  unfold execSoftError
  split
  · exact nextInv_next.mpr (canon_mem_ite h h)
  · exact nextInv_next.mpr (canon_mem_ite h h)
  · refine nextInv_ite.mpr ⟨fun _ => nextInv_next.mpr h, fun _ => ?_⟩
    split
    · exact nextInv_next.mpr h
    · exact nextInv_next.mpr h
  · exact nextInv_next.mpr h

theorem blank_inv : Inv s.blank := ⟨h.1.filter _, fun c hc => h.2 c (List.mem_filter.mp hc).1⟩
@[simp] theorem blank_canon : Canon s.blank.mem := blank_inv h
@[simp] theorem off_canon : Canon (s.off).mem := by simp [State.off, h.canon]
@[simp] theorem diesOff_canon : Canon (s.diesOff).mem := by simp [State.diesOff, h.canon]
theorem execPowerLoss_next : NextInv (execPowerLoss s) := by simp [execPowerLoss, h.canon]
theorem execPowerUp_next : NextInv (execPowerUp s) := by simp [execPowerUp, h.canon]
@[simp] theorem bootFails_canon (code) : Canon (s.bootFails code).mem := by simp [State.bootFails, h.canon]
@[simp] theorem bootEnds_canon : Canon (s.bootEnds).mem := by simp [State.bootEnds, h.canon]
theorem execBootgo_next : NextInv (execBootgo s) := by unfold execBootgo; split <;> simp [h.canon]
end

/-! ### The host -/

section
variable (s : State)

@[simp] theorem toHost_mem (fn bs poison) : (s.toHost fn bs poison).mem = s.mem := rfl
@[simp] theorem writeCmd_mem (fn off x) : (s.writeCmd fn off x).mem = s.mem := by simp [State.writeCmd]
@[simp] theorem respond_mem (fn st data) : (s.respond fn st data).mem = s.mem := by simp [State.respond]
end

section
variable {s : State} (h : Inv s)
include h

theorem execFunctionEnable_next : NextInv (execFunctionEnable s) := by unfold execFunctionEnable; split <;> simp [h.canon]

@[simp] theorem hdmWrite_canon (l : List (Nat × Nat)) (bs : List Byte) : Canon (s.hdmWrite l bs).mem := by
  induction l generalizing s bs with
  | nil => exact h
  | cons p ps ih => exact ih (canon_mem_ite h (plain_canon (store_canon (inv_of_mem h (by simp)) ..) ..)) _

theorem execHostWrite_next : NextInv (execHostWrite s) := by
  unfold execHostWrite
  split
  · dsimp only
    split
    · split
      · exact nextInv_next.mpr h
      · refine nextInv_ite.mpr ⟨fun _ => nextInv_next.mpr h, fun _ => ?_⟩
        split
        · exact nextInv_next.mpr h
        · next t e =>
          have ht : Inv t := gwrite_ok h _ _ _ t e
          exact nextInv_next.mpr (plainRuns_canon ht ..)
    · simp [h.canon]
  · exact nextInv_next.mpr h

theorem execHostRead_next : NextInv (execHostRead s) := by
  unfold execHostRead
  split
  · dsimp only
    split
    · refine nextInv_ite.mpr ⟨fun _ => nextInv_next.mpr h, fun _ => ?_⟩
      split
      · exact nextInv_next.mpr h
      · split
        · exact nextInv_next.mpr (inv_of_mem h (by simp))
        · exact nextInv_next.mpr h
        · next t bs e =>
          have ht : Inv t := gread_ok h _ _ _ (t, bs) e
          exact nextInv_next.mpr ht
    · refine nextInv_ite.mpr ⟨fun _ => nextInv_next.mpr h, fun _ => ?_⟩
      have hf {l : List (Nat × Nat)} : Inv (l.foldl (fun u p => (u.monitor 0 p.1 p.2 false).yields p.1 p.2) s) :=
        inv_of_mem h (foldl_mem fun u p => by simp)
      exact nextInv_ite.mpr ⟨fun _ => nextInv_next.mpr hf, fun _ => nextInv_next.mpr hf⟩
  · exact nextInv_next.mpr h

theorem execRegisterWrite_next : NextInv (execRegisterWrite s) := by unfold execRegisterWrite; split <;> simp [h.canon]

theorem mailbox_next {op pf used} {f : MailFn} (hf : ∀ fn x y c, Inv (f fn x y c s).1) : NextInv (mailbox op pf used f s) := by
  unfold mailbox
  split
  · refine nextInv_ite.mpr ⟨fun _ => nextInv_next.mpr h, fun _ => ?_⟩
    split
    · exact nextInv_next.mpr (inv_of_mem h (respond_mem ..))
    · refine nextInv_ite.mpr ⟨fun _ => ?_, fun _ => nextInv_ite.mpr ⟨fun _ => ?_, fun _ => ?_⟩⟩
      · exact nextInv_next.mpr (inv_of_mem h (respond_mem ..))
      · exact nextInv_next.mpr (inv_of_mem h (respond_mem ..))
      · split
        · exact nextInv_next.mpr (inv_of_mem h (respond_mem ..))
        · exact nextInv_next.mpr (inv_of_mem (hf ..) (respond_mem ..))
  · exact nextInv_next.mpr h

theorem execReservedOpcode_next : NextInv (execReservedOpcode s) := by unfold execReservedOpcode; split <;> simp [h.canon]

theorem mailQdesc_inv (fn x y c) : Inv (mailQdesc fn x y c s).1 := by
  unfold mailQdesc
  refine inv_iff.mpr (canon_fst_ite h (canon_fst_ite h (canon_fst_ite h ?_)))
  split
  · exact h
  · exact inv_iff.mpr (canon_mem_ite h h)

theorem execQdesc_next : NextInv (execQdesc s) := mailbox_next h (mailQdesc_inv h)
theorem mailAperture_inv (fn x y c) : Inv (mailAperture fn x y c s).1 :=
  inv_iff.mpr (canon_fst_ite h h)
theorem execAperture_next : NextInv (execAperture s) := mailbox_next h (mailAperture_inv h)
theorem mailSettick_inv (fn x y c) : Inv (mailSettick fn x y c s).1 :=
  inv_iff.mpr (canon_fst_ite h h)
theorem execSettick_next : NextInv (execSettick s) := mailbox_next h (mailSettick_inv h)
theorem mailApsize_inv (fn x y c) : Inv (mailApsize fn x y c s).1 :=
  inv_iff.mpr (canon_fst_ite h (canon_fst_ite h h))
theorem execApsize_next : NextInv (execApsize s) := mailbox_next h (mailApsize_inv h)

theorem mailLoad_inv (fn x y c) : Inv (mailLoad fn x y c s).1 := by
  unfold mailLoad
  refine inv_iff.mpr (canon_fst_ite h ?_)
  split
  · exact inv_of_mem h (deviceError_mem ..)
  · next t b e =>
    have ht : Inv t := gread_ok h _ _ _ (t, b) e
    exact inv_iff.mpr (canon_fst_ite ht (canon_fst_ite ht (canon_fst_ite ht ht)))

theorem execLoad_next : NextInv (execLoad s) := mailbox_next h (mailLoad_inv h)
theorem mailUnload_inv (fn x y c) : Inv (mailUnload fn x y c s).1 :=
  inv_iff.mpr (canon_fst_ite h (canon_fst_ite h h))
theorem execUnload_next : NextInv (execUnload s) := mailbox_next h (mailUnload_inv h)
theorem mailTransit_inv (fn x y c) : Inv (mailTransit fn x y c s).1 :=
  inv_iff.mpr (canon_fst_ite h h)
theorem execTransit_next : NextInv (execTransit s) := mailbox_next h (mailTransit_inv h)

@[simp] theorem migrated_ok (x gen n e) : Ok (Inv ·.1) (s.migrated x gen n e) := by
  refine (gread_ok h _ _ _).bind fun a ha => (gread_ok ha _ _ _).bind fun b hb => ok_ok.mpr ?_
  exact hb

@[simp] theorem migratedAll_ok (x : Ctx) (gen n : Nat) (l : List Nat) :
    Ok (Inv ·.1) (s.migratedAll x gen n l) := by
  induction l generalizing s with
  | nil => exact ok_ok.mpr h
  | cons e es ih => exact (migrated_ok h _ _ _ _).bind fun a ha => (ih ha).bind fun b hb => ok_ok.mpr hb

@[simp] theorem takeArea_ok (x gen es) : Ok (Inv ·.1) (s.takeArea x gen es) := by
  unfold State.takeArea
  split
  · exact ok_ok.mpr h
  · refine (gread_ok h _ _ _).bind fun a ha => (migratedAll_ok ha _ _ _ _).bind fun b hb => ok_ok.mpr ?_
    exact hb

theorem mailResume_inv (fn x y c) : Inv (mailResume fn x y c s).1 := by
  unfold mailResume
  extract_lets got
  have hg : Ok (Inv ·.1) got := (gread_ok h _ _ _).bind fun a ha => (gread_ok ha _ _ _).bind fun b hb => ok_ok.mpr hb
  clear_value got
  split
  · exact inv_of_mem h (deviceError_mem ..)
  · next t b d =>
    have ht : Inv t := hg (t, b, d) rfl
    refine inv_iff.mpr (canon_fst_ite (lostCtx_canon ht ..) (canon_fst_ite (lostCtx_canon ht ..) (canon_fst_ite ht ?_)))
    split
    · exact inv_of_mem ht (deviceError_mem ..)
    · next u l q e =>
      have hu : Inv u := takeArea_ok ht _ _ _ (u, l, q) e
      exact hu

theorem execMailboxResume_next : NextInv (execMailboxResume s) := mailbox_next h (mailResume_inv h)

theorem mailRkey_inv (fn x y c) : Inv (mailRkey fn x y c s).1 := by
  unfold mailRkey
  refine inv_iff.mpr (canon_fst_ite h (canon_fst_ite h ?_))
  split
  · exact inv_of_mem h (deviceError_mem ..)
  · next t e => exact gwriteParts_ok h _ _ _ t e

theorem execRkey_next : NextInv (execRkey s) := mailbox_next h (mailRkey_inv h)
theorem mailLinktab_inv (fn x y c) : Inv (mailLinktab fn x y c s).1 :=
  inv_iff.mpr (canon_fst_ite h (inv_of_mem h (flushWaiting_mem _)))
theorem execLinktab_next : NextInv (execLinktab s) := mailbox_next h (mailLinktab_inv h)
theorem mailLinkkey_inv (fn x y c) : Inv (mailLinkkey fn x y c s).1 :=
  inv_iff.mpr (canon_fst_ite h (inv_of_mem h (flushWaiting_mem _)))
theorem execLinkkey_next : NextInv (execLinkkey s) := mailbox_next h (mailLinkkey_inv h)
theorem mailLifecycle_inv (fn x y c) : Inv (mailLifecycle fn x y c s).1 :=
  inv_iff.mpr (canon_fst_ite h (canon_fst_ite h (diesOff_canon (s := (s.freeVal 256).2) h)))
theorem execLifecycle_next : NextInv (execLifecycle s) := mailbox_next h (mailLifecycle_inv h)

theorem execKeystoneMapWrite_next : NextInv (execKeystoneMapWrite s) := by
  have hf {t : State} (ht : Inv t) (l : List TileMap) : Inv (l.foldl (fun u e => u.scrubTile e.p (some 0)) t) :=
    foldl_inv (fun u e hu => scrubTile_canon hu ..) ht
  unfold execKeystoneMapWrite
  split
  · refine nextInv_ite.mpr ⟨fun _ => nextInv_next.mpr h, fun _ => nextInv_ite.mpr ⟨fun _ => ?_, fun _ => ?_⟩⟩
    · exact nextInv_ite.mpr ⟨fun _ => nextInv_next.mpr h, fun _ => nextInv_next.mpr h⟩
    · split
      · exact nextInv_next.mpr h
      · refine nextInv_ite.mpr ⟨fun _ => nextInv_next.mpr h, fun _ => nextInv_next.mpr ?_⟩
        exact inv_of_mem (hf (inv_of_mem h (mapCtx_mem ..)) _) (after_mem ..)
  · exact nextInv_next.mpr h
end

/-! ### Scalar floating point -/

section
variable {s : State} (h : Inv s)
include h

theorem execFadd_next (k d a b) : NextInv (execFadd k d a b s) := priv_next h fun t ht => by simp [ht.canon]
theorem execFsub_next (k d a b) : NextInv (execFsub k d a b s) := priv_next h fun t ht => by simp [ht.canon]
theorem execFmul_next (k d a b) : NextInv (execFmul k d a b s) := priv_next h fun t ht => by simp [ht.canon]
theorem execFfma_next (k d a b) : NextInv (execFfma k d a b s) := priv_next h fun t ht => by simp [ht.canon]
theorem execFmin_next (k d a b) : NextInv (execFmin k d a b s) := priv_next h fun t ht => by simp [ht.canon]
theorem execFmax_next (k d a b) : NextInv (execFmax k d a b s) := priv_next h fun t ht => by simp [ht.canon]
theorem execFcmp_next (k d a b) : NextInv (execFcmp k d a b s) := priv_next h fun t ht => by simp [ht.canon]
theorem execFdiv_next (k d a b) : NextInv (execFdiv k d a b s) := priv_next h fun t ht => by simp [ht.canon]
theorem execFsqrt_next (k d a) : NextInv (execFsqrt k d a s) := priv_next h fun t ht => by simp [ht.canon]
theorem execFcvtWS_next (k d a) : NextInv (execFcvtWS k d a s) := priv_next h fun t ht => by simp [ht.canon]
theorem execFcvtWuS_next (k d a) : NextInv (execFcvtWuS k d a s) := priv_next h fun t ht => by simp [ht.canon]
theorem execFcvtSW_next (k d a) : NextInv (execFcvtSW k d a s) := priv_next h fun t ht => by simp [ht.canon]
theorem execFcvtSWu_next (k d a) : NextInv (execFcvtSWu k d a s) := priv_next h fun t ht => by simp [ht.canon]
theorem execFcvtBfS_next (k d a) : NextInv (execFcvtBfS k d a s) := priv_next h fun t ht => by simp [ht.canon]
theorem execFcvtSBf_next (k d a) : NextInv (execFcvtSBf k d a s) := priv_next h fun t ht => by simp [ht.canon]
theorem execFcvtHS_next (k d a) : NextInv (execFcvtHS k d a s) := priv_next h fun t ht => by simp [ht.canon]
theorem execFcvtSH_next (k d a) : NextInv (execFcvtSH k d a s) := priv_next h fun t ht => by simp [ht.canon]
end

/-! ### Token queues -/

section
variable {s : State} (h : Inv s)
include h

@[simp] theorem qput_ok (b tk) : Ok Inv (qput s b tk) := by unfold qput; split <;> simp [h.canon]
@[simp] theorem qtake_ok (d b cl) : Ok Inv (qtake s d b cl) := by unfold qtake; split <;> simp [h.canon]
theorem execQput_next (n c t) : NextInv (execQput n c t s) := common_next h (by simp [h.canon])
theorem execQputReg_next (a n) : NextInv (execQputReg a n s) := common_next h (by simp [h.canon])
theorem execQtake_next (d n c) : NextInv (execQtake d n c s) := common_next h (by simp [h.canon])
theorem execQtakeReg_next (d a n) : NextInv (execQtakeReg d a n s) := common_next h (by simp [h.canon])
theorem execQpeek_next (d n) : NextInv (execQpeek d n s) := common_next h (by simp [h.canon])
theorem execQcount_next (d n) : NextInv (execQcount d n s) := common_next h (by simp [h.canon])
end

/-! ### Traps, handlers, records -/

section
variable (s : State)

@[simp] theorem signal_mem : (s.signal).mem = s.mem := by simp [State.signal]
end

section
variable {s : State} (h : Inv s)
include h

@[simp] theorem capture_canon : Canon (s.capture).mem := by unfold State.capture; split <;> simp [h.canon]

theorem execStopCapture_next : NextInv (execStopCapture s) := by
  unfold execStopCapture
  split
  · split
    · exact nextInv_next.mpr h
    · split
      · exact nextInv_next.mpr h
      · refine nextInv_ite.mpr ⟨fun _ => nextInv_next.mpr h, fun _ => nextInv_ite.mpr ⟨fun _ => nextInv_next.mpr h, fun _ => ?_⟩⟩
        exact nextInv_next.mpr (onFocus_inv h fun t ht => capture_canon ht)
  · exact nextInv_next.mpr h

theorem execDeadlock_next : NextInv (execDeadlock s) := by
  unfold execDeadlock
  split
  · exact nextInv_next.mpr (onFocus_inv h fun t ht => inv_iff.mpr (canon_mem_ite (inv_of_mem ht (takeTrap_mem ..)) ht))
  · exact nextInv_next.mpr h

@[simp] theorem handlerTable_canon (c) : Canon (s.handlerTable c).1.mem := by
  unfold State.handlerTable
  split
  · exact inv_of_mem h (deviceError_mem ..)
  · next t bs e =>
    have ht : Inv t := gread_ok h _ _ _ (t, bs) e
    exact canon_fst_ite ht ht

@[simp] theorem claimant_canon (cls : TrapClass) (n c : Nat) : Canon (s.claimant cls n c).1.mem := by
  induction n generalizing s c with
  | zero => exact h
  | succ n ih =>
    have ht : Inv (s.handlerTable c).1 := handlerTable_canon h c
    unfold State.claimant
    refine canon_fst_ite (handlerTable_canon h 0) ?_
    split
    · exact handlerTable_canon h 0
    · refine canon_fst_ite (ih h _) ?_
      generalize s.handlerTable c = r at ht
      split
      · exact canon_fst_ite ht (ih ht _)
      · exact ih ht _

@[simp] theorem deliver_canon (n) : Canon (s.deliver n).mem := by
  unfold State.deliver
  split
  · exact h
  · extract_lets r s1
    have h1 : Inv s1 := h
    refine canon_mem_ite h ?_
    split
    next t f e =>
      have ht : Inv t := by
        split at e
        · cases e
          exact h1
        · have hc := claimant_canon h1
          exact (congrArg (fun x => Canon x.1.mem) e).mp (hc ..)
      extract_lets t1
      have h1 : Inv t1 := ht
      split
      · split
        · exact h1
        · exact inv_of_mem h1 (interrupt_mem ..)
      · split
        · exact h1
        · exact h1

theorem execTrapDelivery_next : NextInv (execTrapDelivery s) :=
  nextInv_next.mpr (inv_of_mem (foldl_inv (fun _ n ht => deliver_canon ht n) h) (signal_mem _))

@[simp] theorem disposed_canon (m code retry) : Canon (s.disposed m code retry).mem := by
  have ht : Inv (s.freeMail m.n) := h
  unfold State.disposed
  dsimp only
  split
  · exact ht
  · split
    · exact dispose_canon (inv_iff.mpr (canon_mem_ite (takeWrites_canon ht ..) ht)) ..
    · exact ht

@[simp] theorem pass_canon (m) : Canon (s.pass m).mem := by
  unfold State.pass
  refine canon_mem_ite h ?_
  split
  · exact h
  · exact canon_mem_ite (disposed_canon h ..) h

@[simp] theorem endRun_canon (m code retry) : Canon (s.endRun m code retry).mem := by simp [State.endRun, h.canon]

theorem dispose_next {code retry} : NextInv (dispose code retry s) := by
  unfold dispose
  split
  · split
    · exact nextInv_next.mpr h
    · exact nextInv_next.mpr (endRun_canon h ..)
  · exact nextInv_next.mpr h

theorem execResume_next : NextInv (execResume s) := dispose_next h
theorem execResumeRetry_next : NextInv (execResumeRetry s) := dispose_next h
theorem execSkip_next : NextInv (execSkip s) := dispose_next h
theorem execKill_next : NextInv (execKill s) := dispose_next h
theorem execPass_next : NextInv (execPass s) := dispose_next h
@[simp] theorem qmcFetch_ok (c va n) : Ok Inv (s.qmcFetch c va n) := by unfold State.qmcFetch; split <;> simp [h.canon]
@[simp] theorem runFault_canon (m e n) : Canon (s.runFault m e n).mem := by simp [State.runFault, h.canon]

theorem execHandlerRun_next : NextInv (execHandlerRun s) := by
  unfold execHandlerRun
  split
  · refine nextInv_ite.mpr ⟨fun _ => nextInv_next.mpr h, fun _ => ?_⟩
    split
    · exact nextInv_next.mpr h
    · split
      · exact nextInv_next.mpr (pass_canon h ..)
      · split
        · exact nextInv_next.mpr (runFault_canon h ..)
        · next t e =>
          have ht : Inv t := qmcFetch_ok h _ _ _ t e
          exact nextInv_next.mpr ht
  · exact nextInv_next.mpr h

@[simp] theorem windowBytes_canon (m o n) : Canon (s.windowBytes m o n).1.mem := by
  unfold State.windowBytes
  dsimp only
  split
  · exact h
  · exact h
  · split
    · exact h
    · split
      · next t l e => exact gread_ok h _ _ _ (t, l) e
      · exact h

@[simp] theorem windowLoad_canon (q m a n) : Canon (s.windowLoad q m a n).1.mem :=
  canon_fst_ite (windowBytes_canon h ..) (inv_iff.mpr (canon_fst_ite h (inv_iff.mpr (canon_fst_ite h (inv_iff.mpr (canon_fst_ite h h))))))

@[simp] theorem windowStore_canon (m a bs) : Canon (s.windowStore m a bs).mem := by
  unfold State.windowStore
  dsimp only
  refine canon_mem_ite (endRun_canon h ..) ?_
  split
  · exact h
  · exact canon_mem_ite h h

theorem execStateWindow_next : NextInv (execStateWindow s) := by
  unfold execStateWindow
  split
  · split
    · exact nextInv_next.mpr h
    · next m _ =>
      extract_lets hc loaded
      refine nextInv_ite.mpr ⟨fun _ => ?_, fun _ => ?_⟩
      · split
        · split
          · exact nextInv_next.mpr (runFault_canon h ..)
          · next t bs e =>
            have ht : Inv t := gread_ok h _ _ _ (t, bs) e
            exact nextInv_next.mpr ht
        · split
          · exact nextInv_next.mpr (runFault_canon h ..)
          · next t e =>
            have ht : Inv t := gwrite_ok h _ _ _ t e
            exact nextInv_next.mpr (plainRuns_canon ht ..)
        · split
          · exact nextInv_next.mpr (runFault_canon h ..)
          · next t e =>
            have ht : Inv t := qmcFetch_ok h _ _ _ t e
            exact nextInv_next.mpr ht
      · split
        · refine nextInv_next.mpr ?_
          exact windowLoad_canon h ..
        · exact nextInv_next.mpr (windowStore_canon h ..)
        · exact nextInv_next.mpr (pass_canon h ..)
  · exact nextInv_next.mpr h
end

/-! ### Vector loads and stores -/

section
variable {s : State} (h : Inv s)
include h

theorem execVld_next (k a g o t) : NextInv (execVld k a g o t s) :=
  priv_next h fun _ hu => (pushKey_ok hu a).bind fun x (hx : Inv x.2) => ok_bind.mpr fun _ _ => ok_ok.mpr (putV_canon hx ..)

theorem execVldTg_next (k a g o) : NextInv (execVldTg k a g o s) := by
  refine priv_next h fun u hu => ok_bind.mpr fun key _ => ?_
  split
  · exact ok_error
  · exact ok_ok.mpr (inv_of_mem hu (result_mem ..))

theorem execVst_next (k a g o) : NextInv (execVst k a g o s) :=
  priv_next h fun _ hu => (popOne_ok hu a).bind fun _ hx => ok_bind.mpr fun _ _ => ok_bind.mpr fun _ _ => ok_ok.mpr (storeNat_canon hx ..)
theorem execVstTg_next (k a g o) : NextInv (execVstTg k a g o s) :=
  priv_next h fun _ hu => (popOne_ok hu a).bind fun _ hx => ok_bind.mpr fun _ _ => ok_bind.mpr fun _ _ => ok_ok.mpr (storeNat_canon hx ..)

@[simp] theorem storeEach_canon (l : List (Nat × Nat)) : Canon (s.storeEach l).mem := by
  induction l generalizing s with
  | nil => exact h
  | cons p ps ih => exact ih (storeNat_canon h ..)

theorem execVstm_next (k a g r) : NextInv (execVstm k a g r s) :=
  priv_next h fun _ hu => (popOne_ok hu a).bind fun _ hx => ok_bind.mpr fun _ _ => ok_bind.mpr fun _ _ => ok_bind.mpr fun _ _ =>
    ok_ok.mpr (storeEach_canon hx ..)

theorem execVldx_next (k a g c) : NextInv (execVldx k a g c s) := by
  refine priv_next h fun u hu => ok_bind.mpr fun _ _ => (popOne_ok hu c).bind fun x hx => (pushKey_ok hx a).bind fun y (hy : Inv y.2) => ?_
  refine ok_bind.mpr fun ks _ => ok_bind.mpr fun _ _ => ok_bind.mpr fun _ _ => ok_ok.mpr ?_
  dsimp only
  split
  · exact push_canon hy ..
  · exact inv_of_mem hy (result_mem ..)

theorem execPand_next (k d a b) : NextInv (execPand k d a b s) := priv_next h fun t ht => by simp [ht.canon]
theorem execPor_next (k d a b) : NextInv (execPor k d a b s) := priv_next h fun t ht => by simp [ht.canon]
theorem execPnot_next (k d a) : NextInv (execPnot k d a s) := priv_next h fun t ht => by simp [ht.canon]
theorem execPmov_next (k d a) : NextInv (execPmov k d a s) := priv_next h fun t ht => by simp [ht.canon]

theorem execPunpack_next (k d v) : NextInv (execPunpack k d v s) :=
  priv_next h fun _ hu => ok_bind.mpr fun _ _ => (popOne_ok hu v).bind fun _ hx => ok_bind.mpr fun _ _ =>
    ok_ok.mpr (inv_of_mem hx (foldl_mem fun _ _ => result_mem ..))

theorem execValloc_next (k n) : NextInv (execValloc k n s) := priv_next h fun t ht => by simp [ht.canon]
theorem execVshrink_next (k n) : NextInv (execVshrink k n s) := priv_next h fun t ht => by simp [ht.canon]
theorem execPcfg_next (k p a b) : NextInv (execPcfg k p a b s) := priv_next h fun t ht => by simp [ht.canon]
end

/-! ### The step -/

section
variable {s : State} (h : Inv s)
include h

theorem exec_next (i : Instr) : NextInv (exec i s) := by
  unfold exec
  cases i with
  | add | sub | and | or | xor | sll | srl | sra | slt | sltu | min | max | minu | maxu | add1s | add2s | add3s | mul | mulh
  | mulhu | mulhsu | div | divu | rem | remu => exact alu_next h
  | addi | andi | ori | xori | slti | sltiu | slli | srli | srai => exact aluImm_next h
  | lui => exact execLui_next h _ _
  | auipc => exact execAuipc_next h _ _
  | lb | lbu | lh | lhu | lw => exact load_next h
  | sb | sh | sw => exact storeLow_next h
  | lld => exact execLld_next h _ _ _
  | sul => exact execSul_next h _ _ _
  | amoAdd | amoMin | amoMax | amoAnd | amoOr | amoXor | amoSwap | amoCas => exact amo_next h
  | beq => exact execBeq_next h _ _ _
  | bne => exact execBne_next h _ _ _
  | blt => exact execBlt_next h _ _ _
  | bge => exact execBge_next h _ _ _
  | bltu => exact execBltu_next h _ _ _
  | bgeu => exact execBgeu_next h _ _ _
  | jal => exact execJal_next h _ _
  | jalr => exact execJalr_next h _ _ _
  | loop => exact execLoop_next h _ _
  | loopi => exact execLoopi_next h _ _
  | lbrk => exact execLbrk_next h _
  | lbrkZ => exact execLbrkZ_next h _
  | qput => exact execQput_next h _ _ _
  | qputReg => exact execQputReg_next h _ _
  | qtake => exact execQtake_next h _ _ _
  | qtakeReg => exact execQtakeReg_next h _ _ _
  | qpeek => exact execQpeek_next h _ _
  | qcount => exact execQcount_next h _ _
  | barInit => exact execBarInit_next h _ _ _
  | barExpect | barExpectClr => exact barExpect_next h
  | barArrive => exact execBarArrive_next h _
  | barWait => exact execBarWait_next h _ _
  | barWaitchk => exact execBarWaitchk_next h _ _ _
  | barTest => exact execBarTest_next h _ _ _
  | barRetire => exact execBarRetire_next h _
  | fenceRel => exact fenceRel_next h
  | fenceAcq => exact execFenceAcq_next h _
  | fenceAr => exact fenceRel_next h
  | fenceAck => exact execFenceAck_next h
  | hbar => exact execHbar_next h _
  | csrR | csrW | csrS | csrC => exact csrOp_next h
  | hld => exact execHld_next h _ _
  | hst => exact execHst_next h _ _
  | hset => exact execHset_next h _ _ _
  | hget => exact execHget_next h _ _ _
  | hmov => exact execHmov_next h _ _
  | nop => exact execNop_next h
  | ecall => exact execEcall_next h
  | ebreak => exact execEbreak_next h
  | done => exact execDone_next h
  | yield => exact execYield_next h
  | allreduce | allgather | reducescatter | alltoall | bcast | cbar => exact collective_next h
  | cstat | ptabSet => exact plainCop_next h
  | ptabGet => exact destCop_next h
  | placeConv => exact barCop_next h
  | meshSet | rsPlan => exact plainCop_next h
  | rsStart | rsResume => exact barCop_next h
  | rsStatus | rsAbort => exact plainCop_next h
  | futInit | futResolve | futReg | futPoison | futRead => exact futCop_next h
  | ctxCreate | ctxGrant | ctxRevoke | ctxDestroy | ctxBudget | ctxKey | ctxScrub | ctxReceipt | nodeLaunch | nodeStatus
  | logArm => exact plainCop_next h
  | logRead => exact cop_next h
  | timeRead => exact destCop_next h
  | dmaLd | dmaSt | dmaCp | dmaCpMc | dmaIx | dmaSx | dmaRd | dmaWr => exact transfer_next h
  | stRel => exact execStRel_next h _ _ _ _ _
  | ldAcq => exact execLdAcq_next h _ _ _ _ _
  | ratAdd | ratMin | ratMax | ratAnd | ratOr | ratXor | ratSwap | ratCas => exact rat_next h
  | rvat | ldPlace | stPlace => exact transfer_next h
  | dmaProg => exact execDmaProg_next h _ _
  | dmaProgRec => exact execDmaProgRec_next h _ _ _ _
  | vadd | vsub | vmul | vmin | vmax | vabs | vneg | vand | vor | vxor | vnot | vsll | vsrl | vsra | vclz | vpopc => exact vector_next h
  | vcmpEq | vcmpNe | vcmpLt | vcmpLe | vcmpGt | vcmpGe => exact vcmp_next h
  | vredsum | vredmax | vredmin | vperm => exact vector_next h
  | vbcast => exact execVbcast_next h _ _ _ _
  | vbcastG => exact execVbcastG_next h _ _ _ _
  | vslideDn => exact execVslideDn_next h _ _ _ _
  | vslideUp => exact execVslideUp_next h _ _ _ _
  | vzip | vunzip => exact vector_next h
  | vcvt => exact execVcvt_next h _ _ _ _
  | vmov => exact vector_next h
  | vrdacc => exact execVrdacc_next h _ _ _
  | vfma | vfsh | vmac | vsel => exact vector_next h
  | vld => exact execVld_next h _ _ _ _ _
  | vldTg => exact execVldTg_next h _ _ _ _
  | vst => exact execVst_next h _ _ _ _
  | vstTg => exact execVstTg_next h _ _ _ _
  | vstm => exact execVstm_next h _ _ _ _
  | vldx => exact execVldx_next h _ _ _ _
  | mma => exact execMma_next h _ _ _
  | mmaGx => exact execMmaGx_next h _ _ _ _
  | rzero => exact execRzero_next h _
  | rnext => exact execRnext_next h _
  | epi => exact execEpi_next h _ _ _ _
  | mscaleRow | mscaleCol => exact mscale_next h
  | fadd => exact execFadd_next h _ _ _ _
  | fsub => exact execFsub_next h _ _ _ _
  | fmul => exact execFmul_next h _ _ _ _
  | ffma => exact execFfma_next h _ _ _ _
  | fmin => exact execFmin_next h _ _ _ _
  | fmax => exact execFmax_next h _ _ _ _
  | fcmp => exact execFcmp_next h _ _ _ _
  | fdiv => exact execFdiv_next h _ _ _ _
  | fsqrt => exact execFsqrt_next h _ _ _
  | fcvtWS => exact execFcvtWS_next h _ _ _
  | fcvtWuS => exact execFcvtWuS_next h _ _ _
  | fcvtSW => exact execFcvtSW_next h _ _ _
  | fcvtSWu => exact execFcvtSWu_next h _ _ _
  | fcvtBfS => exact execFcvtBfS_next h _ _ _
  | fcvtSBf => exact execFcvtSBf_next h _ _ _
  | fcvtHS => exact execFcvtHS_next h _ _ _
  | fcvtSH => exact execFcvtSH_next h _ _ _
  | pand => exact execPand_next h _ _ _ _
  | por => exact execPor_next h _ _ _ _
  | pnot => exact execPnot_next h _ _ _
  | pmov => exact execPmov_next h _ _ _
  | ppack => exact vector_next h
  | punpack => exact execPunpack_next h _ _ _
  | valloc => exact execValloc_next h _ _
  | vshrink => exact execVshrink_next h _ _
  | pcfg => exact execPcfg_next h _ _ _ _
  | time => exact csrOp_next h
  | reservedEncoding => exact execReservedEncoding_next h _
  | collectiveEpisode => exact execCollectiveEpisode_next h
  | memberLost => exact execMemberLost_next h
  | trestleTransferComplete => exact execTrestleTransferComplete_next h
  | progressRecordWrite => exact execProgressRecordWrite_next h
  | copReply => exact execCopReply_next h
  | engineCredit => exact execEngineCredit_next h
  | sourceCredit => exact execSourceCredit_next h
  | dmaCompletion => exact execDmaCompletion_next h
  | engineFault => exact execEngineFault_next h
  | mmaCompletion => exact execMmaCompletion_next h
  | epiCompletion => exact execEpiCompletion_next h
  | fixedLatencyWrite => exact execFixedLatencyWrite_next h
  | stopCapture => exact execStopCapture_next h
  | trapDelivery => exact execTrapDelivery_next h
  | handlerRun => exact execHandlerRun_next h
  | stateWindow => exact execStateWindow_next h
  | resume => exact execResume_next h
  | resumeRetry => exact execResumeRetry_next h
  | skip => exact execSkip_next h
  | kill => exact execKill_next h
  | pass => exact execPass_next h
  | deadlock => exact execDeadlock_next h
  | lockLost => exact execLockLost_next h
  | leaseEnd => exact execLeaseEnd_next h
  | packetNop => exact execPacketNop_next h
  | node => exact execNode_next h
  | graph => exact execGraph_next h
  | packetCompletion => exact execPacketCompletion_next h
  | queuePoll => exact execQueuePoll_next h
  | heldLineInvalidate => exact execHeldLineInvalidate_next h
  | nodeDecrement => exact execNodeDecrement_next h
  | distributorPlace => exact execDistributorPlace_next h
  | dieReport => exact execDieReport_next h
  | taskCompletion => exact execTaskCompletion_next h
  | sliceTick => exact execSliceTick_next h
  | drainBound => exact execDrainBound_next h
  | checkpoint => exact execCheckpoint_next h
  | saveCommit => exact execSaveCommit_next h
  | saveDeadline => exact execSaveDeadline_next h
  | gracePeriodEnd => exact execGracePeriodEnd_next h
  | restore => exact execRestore_next h
  | heldEvent => exact execHeldEvent_next h
  | codePageCheck => exact execCodePageCheck_next h
  | codeGenerationFree => exact execCodeGenerationFree_next h
  | write => exact execWrite_next h
  | readRequest => exact execReadRequest_next h
  | readData => exact execReadData_next h
  | acknowledgement => exact execAcknowledgement_next h
  | orderedFlag => exact execOrderedFlag_next h
  | countOnlyFlag => exact execCountOnlyFlag_next h
  | atomic => exact execAtomic_next h
  | control => exact execControl_next h
  | refusedPacketResend => exact execRefusedPacketResend_next h
  | integrityBlock => exact execIntegrityBlock_next h
  | linkFail => exact execLinkFail_next h
  | linkKeyexh => exact execLinkKeyexh_next h
  | packageLost => exact execPackageLost_next h
  | softError => exact execSoftError_next h
  | powerSample => exact execPowerSample_next h
  | junctionSample => exact execJunctionSample_next h
  | limitStep => exact execLimitStep_next h
  | powerLoss => exact execPowerLoss_next h
  | powerUp => exact execPowerUp_next h
  | bootgo => exact execBootgo_next h
  | qdesc => exact execQdesc_next h
  | load => exact execLoad_next h
  | unload => exact execUnload_next h
  | aperture => exact execAperture_next h
  | settick => exact execSettick_next h
  | transit => exact execTransit_next h
  | mailboxResume => exact execMailboxResume_next h
  | rkey => exact execRkey_next h
  | linktab => exact execLinktab_next h
  | linkkey => exact execLinkkey_next h
  | lifecycle => exact execLifecycle_next h
  | apsize => exact execApsize_next h
  | hostWrite => exact execHostWrite_next h
  | hostRead => exact execHostRead_next h
  | registerWrite => exact execRegisterWrite_next h
  | malformedPacket => exact execMalformedPacket_next h
  | reservedOpcode => exact execReservedOpcode_next h
  | functionEnable => exact execFunctionEnable_next h
  | keystoneMapWrite => exact execKeystoneMapWrite_next h
  | powerLimitSet => exact execPowerLimitSet_next h
  | codeStoreDrop => exact execCodeStoreDrop_next h

theorem turnStep_next : NextInv (turnStep s) := by
  unfold turnStep
  refine nextInv_ite.mpr ⟨fun _ => ?_, fun _ => nextInv_next.mpr (inv_of_mem h (rotate_mem _))⟩
  split
  · exact nextInv_next.mpr (inv_of_mem h (by simp))
  · refine exec_next ?_ _
    exact h
  · exact passTurn_next (exec_next h _)

theorem step_next : NextInv (step s) := by
  have hd {ds} : Inv { s with due := ds } := h
  unfold step
  split
  · exact turnStep_next h
  · refine nextInv_ite.mpr ⟨fun _ => nextInv_ite.mpr ⟨fun _ => ?_, fun _ => ?_⟩, fun _ => turnStep_next h⟩
    · exact nextInv_next.mpr h
    · refine exec_next ?_ _
      exact h
end

/-- Settles O55: every instruction and every event keeps the canonical form, by its own lemma; the turn and the queue of events
only choose among them. -/
theorem stepKeepsMemoryCanonical : Obligations.StepKeepsMemoryCanonical := fun _ t h e => step_next h t e

end Laws
end Sys2Proof
end

section
/-! Power control, soft errors, power-down and the boot (O48): what each of these events gives, and the claims from that. -/

namespace Sys2Proof.Laws

open Machine

/-! ### Scheduled events -/

theorem mem_insertDue {d e : Due} {l : List Due} : d ∈ insertDue e l ↔ d = e ∨ d ∈ l := by
  induction l with
  | nil => simp [insertDue]
  | cons x xs ih =>
    rw [insertDue]
    split
    · simp only [List.mem_cons, ih]
      exact or_left_comm
    · exact List.mem_cons

theorem mem_after_due {s : State} {n : Nat} {e : Instr} {a : EvArg} {d : Due} :
    d ∈ (s.after n e a).due ↔ d = ⟨s.now + n, e, a⟩ ∨ d ∈ s.due := mem_insertDue

theorem self_mem_after_due (s : State) (n : Nat) (e : Instr) (a : EvArg) : ⟨s.now + n, e, a⟩ ∈ (s.after n e a).due :=
  mem_after_due.mpr (.inl rfl)

theorem later_after (s : State) {n : Nat} (e : Instr) (a : EvArg) (hn : 0 < n) : Later (s.after n e a) s.now e a :=
  ⟨_, self_mem_after_due s n e a, rfl, rfl, Nat.lt_add_of_pos_right hn⟩

/-! An event that is scheduled on a condition. -/

section
variable (c : Prop) [Decidable c] (s : State) (n : Nat) (e : Instr) (a : EvArg)

@[simp] theorem ite_after_mem : (if c then s.after n e a else s).mem = s.mem := by split <;> rfl
@[simp] theorem ite_after_tile : (if c then s.after n e a else s).tile = s.tile := by split <;> rfl
@[simp] theorem ite_after_now : (if c then s.after n e a else s).now = s.now := by split <;> rfl
@[simp] theorem ite_after_power : (if c then s.after n e a else s).power = s.power := by split <;> rfl

variable {c s n e a}

theorem mem_ite_after_due_of_mem {d : Due} (h : d ∈ s.due) : d ∈ (if c then s.after n e a else s).due := by
  split
  · exact mem_after_due.mpr (.inr h)
  · exact h

theorem mem_ite_after_due_of_cond (h : c) {now : Nat} (hs : s.now = now) : ⟨now + n, e, a⟩ ∈ (if c then s.after n e a else s).due := by
  rw [if_pos h, ← hs]
  exact self_mem_after_due s n e a
end

/-! ### Power and temperature (R19, R21) -/

section
variable (s : State) (p : Power)

@[simp] theorem setPower_power : (s.setPower p).power = p := rfl
@[simp] theorem setPower_tile : (s.setPower p).tile = s.tile := rfl
@[simp] theorem setPower_now : (s.setPower p).now = s.now := rfl
@[simp] theorem setPower_due : (s.setPower p).due = s.due := rfl
end

theorem millisecond_pos : 0 < millisecond := by decide

section
variable {s : State}

theorem does_powerSample {mw : Nat} (h : s.arg = .num mw) :
    Does .powerSample s (s.setPower { s.power with
      window := (mw :: s.power.window).take 100
      slow := decide (s.power.limit * ((mw :: s.power.window).take 100).length < ((mw :: s.power.window).take 100).sum) }) := by
  show execPowerSample s = _
  rw [execPowerSample, h]

theorem does_powerLimitSet {mw : Nat} (h : s.arg = .num mw) :
    Does .powerLimitSet s (s.setPower { s.power with
      set := min 3000000 mw
      limit := if s.power.limit = s.power.set ∧ s.power.hot = false then min 3000000 mw else min s.power.limit (min 3000000 mw) }) := by
  show execPowerLimitSet s = _
  rw [execPowerLimitSet, h]

/-- The power controller after the sensors have read l. -/
def readTemps (s : State) (l : List Nat) : Power :=
  { s.power with
    temps := l
    hot := l.any (105 ≤ ·) || (s.power.hot && !l.all (· < 100))
    fatal := s.power.fatal || (l.any (115 ≤ ·) && !s.power.fatal)
    cool := if l.all (· < 100) then some (s.power.cool.getD s.now) else none }

theorem readTemps_hot {l : List Nat} (h : ∃ x ∈ l, 105 ≤ x) : (readTemps s l).hot = true := by
  simp [readTemps, h]

theorem readTemps_fatal {l : List Nat} (h : ∃ x ∈ l, 115 ≤ x) : (readTemps s l).fatal = true := by
  cases old : s.power.fatal <;> simp [readTemps, old, h]

theorem readTemps_cold {l : List Nat} (h : ∀ x ∈ l, x < 100) :
    (readTemps s l).hot = false ∧ (readTemps s l).cool = some (s.power.cool.getD s.now) := by
  have cold : l.all (· < 100) = true := by simpa using h
  have mild : l.any (105 ≤ ·) = false := by simpa using fun x hx => Nat.lt_of_lt_of_le (h x hx) (by decide)
  simp [readTemps, cold, mild]

/-- What a sample of the sensors gives: the controller has it, a limit step is to come while a die is hot, and from 115 on power goes. -/
theorem does_junctionSample {l : List Nat} (h : s.arg = .temps l) :
    ∃ t, Does .junctionSample s t ∧ t.mem = s.mem ∧ t.tile = s.tile ∧ t.power = readTemps s l ∧
      ((readTemps s l).hot = true → ∃ d ∈ t.due, d.ev = .limitStep) ∧
      ((∃ x ∈ l, 115 ≤ x) → s.power.fatal = false → ⟨s.now + millisecond, .powerLoss, .none⟩ ∈ t.due) := by
  refine ⟨_, show execJunctionSample s = _ by rw [execJunctionSample, h], by simp, by simp, by simp [readTemps],
    fun hot => ?_, fun fatal first => ?_⟩
  · by_cases old : ∃ d ∈ s.due, d.ev = .limitStep
    · obtain ⟨d, hd, he⟩ := old
      exact ⟨d, mem_ite_after_due_of_mem (mem_ite_after_due_of_mem hd), he⟩
    · refine ⟨_, mem_ite_after_due_of_mem (mem_ite_after_due_of_cond ?_ rfl), rfl⟩
      have none : (s.due.any fun d => d.ev == .limitStep) = false := by simpa using old
      have hot : (l.any (105 ≤ ·) || (s.power.hot && !l.all (· < 100))) = true := hot
      rw [hot, setPower_due, none]
      rfl
  · have cond : (l.any (115 ≤ ·) && !s.power.fatal) = true := by simpa [first] using fatal
    exact mem_ite_after_due_of_cond cond (ite_after_now ..)

/-- Every die has read below 100 for 1 ms. -/
def calm (s : State) : Bool :=
  match s.power.cool with
  | some c => decide (c + millisecond ≤ s.now)
  | none => false

theorem calm_of_some {c : Nat} (hc : s.power.cool = some c) (h : c + millisecond ≤ s.now) : calm s = true := by
  rw [calm, hc]
  exact decide_eq_true h

theorem calm_of_none (hc : s.power.cool = none) : calm s = false := by rw [calm, hc]

/-- The limit in force after a step of it. -/
def nextLimit (s : State) : Nat :=
  if s.power.hot then s.power.limit * 9 / 10 else if calm s then min s.power.set (s.power.limit + s.power.set / 10) else s.power.limit

theorem nextLimit_of_hot (hot : s.power.hot = true) : nextLimit s = s.power.limit * 9 / 10 := if_pos hot

theorem nextLimit_of_calm (cool : s.power.hot = false) (h : calm s = true) :
    nextLimit s = min s.power.set (s.power.limit + s.power.set / 10) := by
  simp [nextLimit, cool, h]

theorem nextLimit_of_not_calm (cool : s.power.hot = false) (h : calm s = false) : nextLimit s = s.power.limit := by
  simp [nextLimit, cool, h]

/-- The controller takes the next limit, and a further step follows while a die is hot or the limit is below the one set. -/
theorem execLimitStep_eq (s : State) : execLimitStep s = .next
    (if s.power.hot = true ∨ nextLimit s < s.power.set then
      (s.setPower { s.power with limit := nextLimit s }).after millisecond .limitStep .none
    else s.setPower { s.power with limit := nextLimit s }) := rfl

theorem does_limitStep (s : State) :
    ∃ t, Does .limitStep s t ∧ t.power.limit = nextLimit s ∧ (s.power.hot = true → Later t s.now .limitStep .none) := by
  refine ⟨_, execLimitStep_eq s, by rw [ite_after_power, setPower_power], fun hot => ?_⟩
  rw [if_pos (.inl hot)]
  exact later_after _ _ _ millisecond_pos
end

/-- R19, R21. -/
theorem powerControl : Claim.PowerControl := by
  intro mw l s
  refine ⟨fun h => ⟨does_powerSample h, fun free cool => ?_, fun kept => ?_⟩, fun h => ?_, fun hot => ?_, fun cool c hc long => ?_,
    fun cool hc => ?_⟩
  · simpa [free, cool] using does_powerLimitSet h
  · have := does_powerLimitSet h
    rwa [if_neg (by simpa [imp_iff_not_or] using kept)] at this
  · obtain ⟨t, does, mem, tile, power, step, loss⟩ := does_junctionSample h
    refine ⟨t, does, mem, tile, power ▸ rfl, ?_⟩
    rw [power]
    exact ⟨fun fatal first => ⟨readTemps_fatal fatal, ⟨_, loss fatal first, rfl, rfl, Nat.lt_add_of_pos_right millisecond_pos⟩,
        _, loss fatal first, rfl, Nat.le_refl _⟩,
      fun hot => ⟨readTemps_hot hot, step (readTemps_hot hot)⟩, readTemps_cold⟩
  · obtain ⟨t, does, limit, later⟩ := does_limitStep s
    exact ⟨t, does, limit.trans (nextLimit_of_hot hot), later hot⟩
  · obtain ⟨t, does, limit, -⟩ := does_limitStep s
    exact ⟨t, does, limit.trans (nextLimit_of_calm cool (calm_of_some hc long))⟩
  · obtain ⟨t, does, limit, -⟩ := does_limitStep s
    exact ⟨t, does, limit.trans (nextLimit_of_not_calm cool (calm_of_none hc))⟩

/-! ### Soft errors (R444) -/

/-- The first byte of the unit that holds a key lies in the same space, so its unit is of the same size. -/
theorem errSize_unit (k : Nat) : errSize (k - k % errSize k) = errSize k := by
  unfold errSize
  split
  · exact if_pos (by omega)
  · exact if_neg (by omega)

theorem errSize_pos (k : Nat) : 0 < errSize k := by unfold errSize; split <;> decide

theorem lt_unit_end (k : Nat) : k < k - k % errSize k + errSize k := by
  have := Nat.mod_lt k (errSize_pos k)
  omega

/-- A read meets poison exactly where it shares a byte with a poisoned unit. -/
theorem poisoned_iff {s : State} {a n : Nat} : s.poisoned a n = true ↔ ∃ u ∈ s.poison, u < a + n ∧ a < u + errSize u := by
  simp [State.poisoned]

theorem poisoned_of_mem_unit {s : State} {k : Nat} (h : k - k % errSize k ∈ s.poison) : s.poisoned k 1 = true :=
  poisoned_iff.mpr ⟨_, h, by omega, by rw [errSize_unit]; exact lt_unit_end k⟩

theorem poisoned_eq_of_apart {s t : State} {u a n : Nat} (ht : t.poison = u :: s.poison) (apart : a + n ≤ u ∨ u + errSize u ≤ a) :
    t.poisoned a n = s.poisoned a n := by
  have : ¬(u < a + n ∧ a < u + errSize u) := by omega
  rw [State.poisoned, State.poisoned, ht, List.any_cons, decide_eq_false this, Bool.false_or]

section
variable {s : State}

theorem execSoftError_num {k : Nat} (h : s.arg = .num k) :
    execSoftError s = .next (if s.poison.contains (k - k % errSize k) then s else { s with poison := (k - k % errSize k) :: s.poison }) := by
  rw [execSoftError, h]

/-- An error in memory: its unit is poisoned from here on, and every read that shares no byte with the unit is as before. -/
theorem does_softError_memory {k : Nat} (h : s.arg = .num k) :
    ∃ t, Does .softError s t ∧ t.mem = s.mem ∧ t.tile = s.tile ∧ k - k % errSize k ∈ t.poison ∧
      ∀ a n, (a + n ≤ k - k % errSize k ∨ k - k % errSize k + errSize k ≤ a) → t.poisoned a n = s.poisoned a n := by
  have does : exec .softError s = _ := execSoftError_num h
  by_cases old : s.poison.contains (k - k % errSize k) = true
  · rw [if_pos old] at does
    exact ⟨s, does, rfl, rfl, List.contains_iff_mem.mp old, fun _ _ _ => rfl⟩
  · rw [if_neg old] at does
    exact ⟨_, does, rfl, rfl, List.mem_cons_self, fun a n apart => poisoned_eq_of_apart rfl (by rwa [errSize_unit])⟩

theorem kind_ne_four_of_struck {kind r : Nat} {x : Reg} (h : struck kind r = some x) : kind ≠ 4 := by
  rintro rfl
  exact nomatch h

/-- A core with one more register that holds an uncorrectable error. -/
def withBad (c : CoreSt) (x : Reg) : CoreSt := { c with bad := x :: c.bad.filter (· ≠ x) }

theorem does_softError_register {c : CoreId} {kind r : Nat} {x : Reg} {pt : BitVec 8} (h : s.arg = .badReg pt c kind r)
    (hx : struck kind r = some x) : Does .softError s (s.mapTile pt fun t => t.setCore c (withBad (t.core c) x)) := by
  show execSoftError s = _
  rw [execSoftError, h]
  simp only [if_neg (kind_ne_four_of_struck hx), hx]
  rfl

@[simp] theorem mapTile_focus (s : State) (f : Tile → Tile) : (s.mapTile s.tile.ptile f).tile = f s.tile := if_pos rfl
end

/-- R444. -/
theorem softErrors : Claim.SoftErrors := by
  intro k s
  refine ⟨fun h => ?_, fun c kind r x h hx => ?_⟩
  · obtain ⟨t, does, mem, tile, unit, other⟩ := does_softError_memory h
    exact ⟨t, does, mem, tile, poisoned_of_mem_unit unit, fun a n _ => other a n⟩
  · exact ⟨_, does_softError_register h hx, rfl, by simp [withBad], by simp [withBad]⟩

/-! ### Power-down and power-up (R22, R388) -/

theorem blank_read (s : State) {a : Nat} (h : a < 2 ^ 60) : Mem.read s.blank.mem a = 0 :=
  (read_filter_key s.mem (fun k => decide (2 ^ 60 ≤ k)) a).trans (if_neg (by simpa using h))

/-- R22, R388: whatever is not named in `State.blank` is as at reset. -/
theorem powerDownAndUp : Claim.PowerDownAndUp := by
  intro s
  refine ⟨⟨s.off, rfl, rfl, rfl, rfl, rfl, rfl, rfl, rfl, rfl, rfl, rfl, rfl, fun a => blank_read s⟩, fun on dies => ?_, fun out => ?_⟩
  · show execPowerUp s = _
    rw [execPowerUp, if_pos ⟨on, dies⟩]
  · refine ⟨s.blank, show execPowerUp s = _ from ?_, rfl, rfl, rfl, rfl⟩
    have : ¬(s.power.on = true ∧ s.power.dies = true) := by simpa [imp_iff_not_or] using out
    rw [execPowerUp, if_neg this]

/-! ### The boot ROM (R388, R448) -/

section
variable (s : State)

theorem answerBells_boot : s.answerBells.boot = s.boot :=
  List.foldlRecOn (motive := fun t : State => t.boot = s.boot) _ _ rfl fun _ h _ _ => h

/-- Taking up the doorbells drops no event but those of mailbox commands. -/
theorem mem_answerBells_due {s : State} {d : Due} (h : d ∈ s.due) (hd : d.arg = .none) : d ∈ s.answerBells.due :=
  List.foldlRecOn (motive := fun t : State => d ∈ t.due) _ _ (List.mem_filter.mpr ⟨h, by simp [hd]⟩)
    fun _ h _ _ => mem_after_due.mpr (.inr h)

theorem bootEnds_mem : s.bootEnds.mem = s.blank.mem := answerBells_mem _

theorem bootEnds_read {a : Nat} (h : a < 2 ^ 60) : Mem.read s.bootEnds.mem a = 0 := by
  rw [bootEnds_mem]
  exact blank_read s h

/-- A boot that succeeds: READY with no error, the image's firmware running, the fuses as they are. -/
theorem bootEnds_boot : s.bootEnds.boot = { s.boot with
    ready := true, err := 0, vendor := s.imageBytes 64 1793, table := s.imageBytes (s.imageNat 16 4) (s.imageNat 20 4)
    firmware := s.imageBytes (s.imageNat 24 4) (s.imageNat 28 4), bootId := BitVec.ofNat 128 (s.freeVal 128).1, rseq := 0
    keyed := decide (s.boot.life ≠ 0) } := answerBells_boot _

theorem bootEnds_sliceTick : ∃ d ∈ s.bootEnds.due, d.ev = .sliceTick :=
  ⟨_, mem_answerBells_due (self_mem_after_due _ _ .sliceTick .none) rfl, rfl⟩

theorem bootFails_boot (code : Nat) : (s.bootFails code).boot =
    { s.boot with tries := s.boot.tries + 1, err := if code ≤ 7 ∧ 16 ≤ s.boot.tries + 1 then 10 else code } := by
  unfold State.bootFails
  dsimp only
  split <;> rfl

theorem bootFails_err_of_few {code : Nat} (h : s.boot.tries < 15) : (s.bootFails code).boot.err = code := by
  have : ¬(code ≤ 7 ∧ 16 ≤ s.boot.tries + 1) := by omega
  rw [bootFails_boot, if_neg this]

/-- LOCKOUT. -/
theorem bootFails_err_of_sixteenth {code : Nat} (many : 15 ≤ s.boot.tries) (early : code ≤ 7) : (s.bootFails code).boot.err = 10 := by
  have : code ≤ 7 ∧ 16 ≤ s.boot.tries + 1 := ⟨early, by omega⟩
  rw [bootFails_boot, if_pos this]

theorem bootFails_mem_of_le {code : Nat} (h : code ≤ 7) : (s.bootFails code).mem = s.mem := by
  rw [State.bootFails, if_neg (by omega)]

theorem bootFails_mem_of_wipe {code : Nat} (h : 8 ≤ code) : (s.bootFails code).mem = s.blank.mem := by
  rw [State.bootFails, if_pos h]

theorem bootFails_read {code a : Nat} (wipe : 8 ≤ code) (h : a < 2 ^ 60) : Mem.read (s.bootFails code).mem a = 0 := by
  rw [bootFails_mem_of_wipe s wipe]
  exact blank_read s h
end

section
variable {s : State}

theorem does_bootgo (h : s.arg = .none) : Does .bootgo s
    (if s.boot.ready = true ∨ 8 ≤ s.boot.err then s else if s.bootCheck = 0 then s.bootEnds else s.bootFails s.bootCheck) := by
  show execBootgo s = _
  rw [execBootgo, h]
  dsimp only
  split
  · rfl
  · split <;> rfl

theorem bootCheck_eq_one (h : s.imageNat 0 4 ≠ 1) : s.bootCheck = 1 := if_pos (.inl h)

/-- An image that passes the first three checks is judged by its SVN, then by the lifecycle states that it is for. -/
theorem bootCheck_of_keyed (version : s.imageNat 0 4 = 1) (fits : s.imageNat 4 4 ≤ windowBytes) (long : 3137 ≤ s.imageNat 4 4)
    (layout : layoutOk (s.imageNat 4 4) (s.imageNat 16 4) (s.imageNat 20 4) (s.imageNat 24 4) (s.imageNat 28 4) = true)
    (key : BitVec.ofNat 256 (leNat (Config.shake256 (s.imageBytes 64 1793) 32)) = s.boot.keyHash) :
    ∃ later, s.bootCheck = if s.imageNat 8 4 < s.boot.minSvn then 4 else
      if (s.imageNat 12 1).testBit s.boot.life = false then 5 else later := by
  have size : ¬(s.imageNat 0 4 ≠ 1 ∨ windowBytes < s.imageNat 4 4 ∨ s.imageNat 4 4 < 3137) := by omega
  have apart : ¬layoutOk (s.imageNat 4 4) (s.imageNat 16 4) (s.imageNat 20 4) (s.imageNat 24 4) (s.imageNat 28 4) = false := by simp [layout]
  exact ⟨_, (if_neg size).trans ((if_neg apart).trans (if_neg (not_not.mpr key)))⟩
end

/-- R388, R448. -/
theorem boot : Claim.Boot := by
  intro s h
  have does := does_bootgo h
  refine ⟨fun done => ?_, fun waits open_ => ⟨fun passes => ?_, fun fails => ?_, bootCheck_eq_one, fun version fits long layout key => ?_⟩⟩
  · rwa [if_pos done] at does
  · rw [if_neg (by simp [waits, open_]), if_pos passes] at does
    have state := bootEnds_boot s
    exact ⟨_, does, by rw [state], by rw [state], by rw [state],
      fun _ => bootEnds_read s, bootEnds_sliceTick s, by rw [state]⟩
  · rw [if_neg (by simp [waits, open_]), if_neg fails] at does
    exact ⟨_, does, by rw [bootFails_boot]; exact waits, by rw [bootFails_boot], bootFails_mem_of_le s,
      fun wipe _ => bootFails_read s wipe, bootFails_err_of_few s, bootFails_err_of_sixteenth s⟩
  · obtain ⟨later, check⟩ := bootCheck_of_keyed version fits long layout key
    rw [check]
    exact ⟨fun old => if_pos old, fun new life => (if_neg (Nat.not_lt.mpr new)).trans (if_pos life)⟩

/-- Settles O48: it holds, event by event. -/
theorem powerErrorsAndBoot : Obligations.PowerErrorsAndBoot := ⟨powerControl, softErrors, powerDownAndUp, boot⟩

end Sys2Proof.Laws
end

section
/-! The token instructions (O7). -/

namespace Sys2Proof.Laws

open Machine

/-! ### Common instructions whose registers are available -/

section
variable {s : State} {rs ws : List GReg} (h : Avail s rs [] ws)
include h

theorem common_retires (t : State) : common s rs ws (.ok t) = .next t := common_ok _ h
theorem common_waits (w : Wait) : common s rs ws (.error (.wait w)) = .next (s.park w) := common_ok _ h
theorem common_raises (t : Trap) : common s rs ws (.error (.trap t)) = .next (s.takeTrap (some s.sel) t) := common_ok _ h
end

/-! ### One take, one reservation, one look (R43, R44, R47, R50) -/

section
variable {q : Queue} {now : Nat} {tk : Byte} {a : Nat} {w : Owner} {t : Trap} {rest : List Slot} {cl : BitVec 3}

theorem take_filled (h : q.slots = .filled tk a :: rest) (shown : a < now) (class_ : tokenClass tk = cl) :
    q.take now cl = .ok (tk, afterTake q now) := by
  simp [Queue.take, h, shown, class_, afterTake]

theorem take_unfit (h : q.slots = .filled tk a :: rest) (unfit : now ≤ a ∨ tokenClass tk ≠ cl) : q.take now cl = .error (.wait .take) := by
  have : ¬(a < now ∧ tokenClass tk = cl) := fun ⟨shown, class_⟩ => unfit.elim (Nat.not_le.mpr shown) (· class_)
  simp [Queue.take, h, this]

theorem take_poisoned (h : q.slots = .poisoned w t :: rest) : q.take now cl = .error (.trap t) := by simp [Queue.take, h]
theorem take_pending (h : q.slots = .pending w :: rest) : q.take now cl = .error (.wait .take) := by simp [Queue.take, h]
theorem take_empty (h : q.slots = []) : q.take now cl = .error (.wait .take) := by simp [Queue.take, h]

theorem put_full {x : Slot} (h : q.free now = 0) : q.put now x = .error (.wait .reserve) := by simp [Queue.put, h]

theorem peek_filled (h : q.slots = .filled tk a :: rest) : peek q now = .ok (if a < now then tk.zeroExtend 32 else 0xFFFFFFFF) := by
  simp [peek, h]

theorem peek_poisoned (h : q.slots = .poisoned w t :: rest) : peek q now = .error (.trap t) := by simp [peek, h]
theorem peek_pending (h : q.slots = .pending w :: rest) : peek q now = .ok 0xFFFFFFFF := by simp [peek, h]
theorem peek_empty (h : q.slots = []) : peek q now = .ok 0xFFFFFFFF := by simp [peek, h]
end

/-! ### The instructions' bodies -/

section
variable {s : State} {b : Bool}

theorem qput_free {tk : Byte} (h : 1 ≤ (s.tile.q.get s.sel (nbr s.sel b)).free s.now) :
    qput s b tk = .ok (mapQueue s s.sel (nbr s.sel b) (afterPut · (.filled tk s.landBy))).retire := by
  rw [qput, put_ok _ h]; rfl

theorem qput_full {tk : Byte} (h : (s.tile.q.get s.sel (nbr s.sel b)).free s.now = 0) : qput s b tk = .error (.wait .reserve) := by
  rw [qput, put_full h]

theorem qtake_of_ok {d : GReg} {cl : BitVec 3} {tk : Byte}
    (h : (s.tile.q.get (nbr s.sel b) s.sel).take s.now cl = .ok (tk, afterTake (s.tile.q.get (nbr s.sel b) s.sel) s.now)) :
    qtake s d b cl = .ok ((mapQueue s (nbr s.sel b) s.sel (afterTake · s.now)).putG d (tk.zeroExtend 32)).retire := by
  rw [qtake, h]; rfl

theorem qtake_of_error {d : GReg} {cl : BitVec 3} {x : Halt} (h : (s.tile.q.get (nbr s.sel b) s.sel).take s.now cl = .error x) :
    qtake s d b cl = .error x := by
  rw [qtake, h]
end

/-! ### The instructions, by their forms -/

section
variable {s : State} {d : GReg} {b : Bool}

/-- Both forms of qput: where the queue has a free slot the token goes in, and else the stream waits. -/
theorem put_forms {i : Instr} {rs : List GReg} {tk : Byte} (he : exec i s = common s rs [] (qput s b tk)) (h : Avail s rs [] []) :
    (1 ≤ (s.tile.q.get s.sel (nbr s.sel b)).free s.now →
      exec i s = .next (mapQueue s s.sel (nbr s.sel b) (afterPut · (.filled tk s.landBy))).retire) ∧
    ((s.tile.q.get s.sel (nbr s.sel b)).free s.now = 0 → Waits i s .reserve) := by
  refine ⟨fun free => ?_, fun full => ?_⟩
  · rw [he, qput_free free, common_retires h]
  · rw [Waits, he, qput_full full, common_waits h]

/-- Both forms of qtake, by what stands at the head of the queue. -/
theorem take_forms {i : Instr} {rs : List GReg} {cl : BitVec 3} (he : exec i s = common s rs [d] (qtake s d b cl)) (h : Avail s rs [] [d]) :
    (∀ tk at_ rest, (s.tile.q.get (nbr s.sel b) s.sel).slots = .filled tk at_ :: rest →
      (at_ < s.now → tokenClass tk = cl →
        exec i s = .next ((mapQueue s (nbr s.sel b) s.sel (afterTake · s.now)).putG d (tk.zeroExtend 32)).retire) ∧
      ((s.now ≤ at_ ∨ tokenClass tk ≠ cl) → Waits i s .take)) ∧
    (∀ w t rest, (s.tile.q.get (nbr s.sel b) s.sel).slots = .poisoned w t :: rest → Raises i s t) ∧
    (∀ w rest, (s.tile.q.get (nbr s.sel b) s.sel).slots = .pending w :: rest → Waits i s .take) ∧
    ((s.tile.q.get (nbr s.sel b) s.sel).slots = [] → Waits i s .take) := by
  have waits (e : (s.tile.q.get (nbr s.sel b) s.sel).take s.now cl = .error (.wait .take)) : Waits i s .take := by
    rw [Waits, he, qtake_of_error e, common_waits h]
  refine ⟨fun tk at_ rest head => ⟨fun shown class_ => ?_, fun unfit => waits (take_unfit head unfit)⟩, fun w t rest head => ?_,
    fun w rest head => waits (take_pending head), fun none => waits (take_empty none)⟩
  · rw [he, qtake_of_ok (take_filled head shown class_), common_retires h]
  · rw [Raises, he, qtake_of_error (take_poisoned head), common_raises h]

theorem exec_qpeek (n : BitVec 1) : exec (.qpeek d n) s =
    common s [] [d] ((peek (s.tile.q.get (nbr s.sel (n == 1)) s.sel) s.now).map fun x => (s.putG d x).retire) := by
  show execQpeek d n s = _
  rw [execQpeek]
  cases peek (s.tile.q.get (nbr s.sel (n == 1)) s.sel) s.now <;> rfl

theorem gives_qpeek {n : BitVec 1} {x : Word} (h : Avail s [] [] [d])
    (e : peek (s.tile.q.get (nbr s.sel (n == 1)) s.sel) s.now = .ok x) : Gives (.qpeek d n) s d x := by
  rw [Gives, exec_qpeek, e]
  exact common_retires h _

theorem gives_qcount (n : BitVec 1) (h : Avail s [] [] [d]) : Gives (.qcount d n) s d
    (wrap32 ((s.tile.q.get (nbr s.sel (n == 1)) s.sel).run s.now + 256 * (s.tile.q.get s.sel (nbr s.sel (n == 1))).free s.now)) := by
  rw [Gives, Int.mul_comm]
  exact common_retires h _
end

/-- Settles O7: put and take by their two forms, peek and count by what stands at the head of the queue. -/
theorem tokenInstructions : Obligations.TokenInstructions := by
  intro d a n c g s
  refine ⟨put_forms rfl, put_forms rfl, take_forms rfl, take_forms rfl, fun h => ⟨fun tk at_ rest head => gives_qpeek h (peek_filled head),
    fun w rest head => gives_qpeek h (peek_pending head), fun none => gives_qpeek h (peek_empty none), fun w t rest head => ?_,
    gives_qcount n h⟩⟩
  rw [Raises, exec_qpeek, peek_poisoned head]
  exact common_raises h t

end Sys2Proof.Laws
end

section
/-! Control and status registers (O11). -/

namespace Sys2Proof.Laws

open Machine

/-! ### The table and the CSRs of the model (R181) -/

/-- A CSR: its number, whether it is on the compute core alone, whether a program may write it, its value. -/
abbrev CsrRow := Nat × Bool × Bool × Word

/-- The CSRs of every core but for TIME and the loop frames. -/
def coreCsrs (s : State) : List CsrRow :=
  [(0x000, false, true, wrap32 (s.core.precise.toNat + 2 * s.core.checkstall.toNat)), (0x001, false, true, s.core.stklim),
   (0x002, false, false, s.place), (0x003, false, false, s.tokstat), (0x005, false, false, s.core.timeh),
   (0x008, false, false, wrap32 s.core.loops.length)]

/-- A field of a loop frame, zero where there is none. -/
def frameField (s : State) (n : Nat) (f : LoopFrame → Word) : Word :=
  match s.core.loops.reverse[n]? with
  | some y => f y
  | none => 0

/-- The CSRs of the loop frames. -/
def frameCsrs (s : State) : List CsrRow :=
  [(0x010, false, false, frameField s 0 (·.start)), (0x011, false, false, frameField s 1 (·.start)),
   (0x012, false, false, frameField s 2 (·.start)), (0x013, false, false, frameField s 3 (·.start)),
   (0x014, false, false, frameField s 0 (·.stop)), (0x015, false, false, frameField s 1 (·.stop)),
   (0x016, false, false, frameField s 2 (·.stop)), (0x017, false, false, frameField s 3 (·.stop)),
   (0x018, false, false, frameField s 0 (·.count)), (0x019, false, false, frameField s 1 (·.count)),
   (0x01A, false, false, frameField s 2 (·.count)), (0x01B, false, false, frameField s 3 (·.count))]

/-- The CSRs of the compute core alone. -/
def computeCsrs (s : State) : List CsrRow :=
  [(0x0A0, true, false, s.tile.vallot.zeroExtend 32), (0x0A1, true, true, s.tile.vgrp.zeroExtend 32),
   (0x0B0, true, false, s.tile.ringHd.zeroExtend 32), (0x0B1, true, false, s.tile.ringTl.zeroExtend 32),
   (0x0C0, true, true, wrap32 s.tile.rmode.code), (0x0C1, true, true, s.tile.lfsrc), (0x0C2, true, true, s.tile.lfsre)]

/-- Every CSR but TIME. -/
def csrTable (s : State) : List CsrRow := coreCsrs s ++ (frameCsrs s ++ computeCsrs s)

section
variable {s : State}

theorem mem_csrTable {y : CsrRow} : y ∈ csrTable s ↔ y ∈ coreCsrs s ∨ y ∈ frameCsrs s ∨ y ∈ computeCsrs s := by
  rw [csrTable, List.mem_append, List.mem_append]

theorem field_frame (n : Nat) (f : LoopFrame → Word) (zero : f ⟨0, 0, 0⟩ = 0) : f (s.core.frame n) = frameField s n f := by
  rw [CoreSt.frame, frameField]
  cases s.core.loops.reverse[n]? with
  | none => exact zero
  | some y => rfl

theorem csr_core : ∀ y ∈ coreCsrs s, s.csr y.1 = some y.2.2.2 := by
  simp only [coreCsrs, List.forall_mem_cons]
  exact ⟨rfl, rfl, rfl, rfl, rfl, rfl, nofun⟩

theorem csr_frame : ∀ y ∈ frameCsrs s, s.csr y.1 = some y.2.2.2 := by
  have start (n : Nat) := field_frame (s := s) n (·.start) rfl
  have stop (n : Nat) := field_frame (s := s) n (·.stop) rfl
  have count (n : Nat) := field_frame (s := s) n (·.count) rfl
  simp [frameCsrs, State.csr, start, stop, count]

theorem csr_compute : ∀ y ∈ computeCsrs s, s.csr y.1 = if s.sel = .compute then some y.2.2.2 else none := by
  simp only [computeCsrs, List.forall_mem_cons]
  exact ⟨rfl, rfl, rfl, rfl, rfl, rfl, rfl, nofun⟩

theorem computeOnly_iff {y : CsrRow} (h : y ∈ csrTable s) : y.2.1 = true ↔ y ∈ computeCsrs s := by
  have core : ∀ y ∈ coreCsrs s, y.2.1 = false := by simp [coreCsrs]
  have frame : ∀ y ∈ frameCsrs s, y.2.1 = false := by simp [frameCsrs]
  have compute : ∀ y ∈ computeCsrs s, y.2.1 = true := by simp [computeCsrs]
  refine ⟨fun only => ?_, compute y⟩
  rcases mem_csrTable.mp h with h | h | h
  · exact nomatch (core y h).symm.trans only
  · exact nomatch (frame y h).symm.trans only
  · exact h

/-- A CSR of the table reads as its value, on a core that has it. -/
theorem csr_eq_some {y : CsrRow} (h : y ∈ csrTable s) (has : y.2.1 = true → s.sel = .compute) : s.csr y.1 = some y.2.2.2 := by
  rcases mem_csrTable.mp h with c | c | c
  · exact csr_core y c
  · exact csr_frame y c
  · rw [csr_compute y c, if_pos (has ((computeOnly_iff h).mpr c))]

theorem csr_eq_none_of_transfer {y : CsrRow} (h : y ∈ csrTable s) (only : y.2.1 = true) (transfer : s.sel ≠ .compute) :
    s.csr y.1 = none := by
  rw [csr_compute y ((computeOnly_iff h).mp only), if_neg transfer]

theorem csr_eq_none_of_unlisted {n : Nat} (h : ∀ y ∈ csrTable s, n ≠ y.1) (time : n ≠ 4) : s.csr n = none := by
  have unlisted : n ∉ (csrTable s).map (·.1) := fun m => by
    obtain ⟨y, hy, e⟩ := List.mem_map.mp m
    exact h y hy e.symm
  unfold State.csr
  split
  case h_5 => exact absurd rfl time
  case h_27 => rfl
  all_goals exact absurd (List.contains_iff_mem.mp rfl) unlisted

theorem csrWritable_eq {y : CsrRow} (h : y ∈ csrTable s) : csrWritable y.1 = y.2.2.1 :=
  eq_of_beq (List.all_eq_true.mp (rfl : (csrTable s).all (fun y => csrWritable y.1 == y.2.2.1) = true) y h)

theorem csr_ne_time {y : CsrRow} (h : y ∈ csrTable s) : y.1 ≠ 4 :=
  of_decide_eq_true (List.all_eq_true.mp (rfl : (csrTable s).all (fun y => decide (y.1 ≠ 4)) = true) y h)
end

/-! ### A CSR instruction, by what its CSR answers (R180) -/

section
variable {s : State} {d : GReg} {rs : List GReg} {n : Nat} {writes : Bool} {f : Word → Word} (h : Avail s rs [] [d])
include h

theorem csrOp_reads {old : Word} (e : s.csr n = some old) (time : n ≠ 4) : csrOp d rs n false f s = .next (s.putG d old).retire := by
  rw [csrOp, common_ok _ h, e]
  simp [check, State.latch, time, finish, bind, Except.bind]

theorem csrOp_writes {old : Word} (e : s.csr n = some old) (time : n ≠ 4) (writable : csrWritable n = true) :
    csrOp d rs n true f s = .next ((s.putCsr n (f old)).putG d old).retire := by
  rw [csrOp, common_ok _ h, e]
  simp [check, State.latch, time, writable, finish, bind, Except.bind]

theorem csrOp_readOnly {old : Word} (e : s.csr n = some old) (fixed : csrWritable n = false) :
    csrOp d rs n true f s = .next (s.takeTrap (some s.sel) { cls := .csrAccess }) := by
  rw [csrOp, common_ok _ h, e]
  simp [check, fixed, finish, bind, Except.bind]

theorem csrOp_absent (e : s.csr n = none) : csrOp d rs n writes f s = .next (s.takeTrap (some s.sel) { cls := .csrAccess }) := by
  rw [csrOp, common_ok _ h, e]
  rfl
end

/-- A read of TIME gives its low half, and latches the high half into TIMEH. -/
theorem csrOp_time {s : State} {d : GReg} {f : Word → Word} (h : Avail s [] [] [d]) :
    csrOp d [] 4 false f s = .next (((s.setCore { s.core with timeh := fld 32 32 (s.guestTime s.tile.task.cnum) }).putG d
      ((s.guestTime s.tile.task.cnum).truncate 32)).retire) := by
  rw [csrOp, common_ok _ h]
  rfl

/-! ### The claims -/

section
variable {s : State} {d a : GReg} (c : BitVec 12) (h : a ≠ 0)
include h

theorem exec_csrS_of_ne : exec (.csrS d a c) s = csrOp d [a] c.toNat true (fun x => x ||| s.g a) s :=
  congrArg (fun w => csrOp d [a] c.toNat w (fun x => x ||| s.g a) s) (decide_eq_true h)

theorem exec_csrC_of_ne : exec (.csrC d a c) s = csrOp d [a] c.toNat true (fun x => x &&& ~~~s.g a) s :=
  congrArg (fun w => csrOp d [a] c.toNat w (fun x => x &&& ~~~s.g a) s) (decide_eq_true h)
end

/-- R31, R180, R181: each instruction by the value of its CSR and whether a program may write it. -/
theorem controlRegisters : Claim.ControlRegisters := by
  intro d a c s
  refine ⟨fun n only rw_ old (row : (n, only, rw_, old) ∈ csrTable s) num has => ?_, fun h => ⟨csrOp_time h, fun e => e ▸ rfl⟩, fun h =>
    ⟨fun unlisted time => ?_, fun ⟨y, row, num, only⟩ transfer => ?_⟩⟩
  · subst num
    have value : s.csr c.toNat = some old := csr_eq_some row has
    have time : c.toNat ≠ 4 := csr_ne_time row
    have writable : csrWritable c.toNat = rw_ := csrWritable_eq row
    refine ⟨fun h => csrOp_reads h value time, fun h => ⟨fun w => ?_, fun w nz => ⟨?_, ?_⟩, fun z => ?_, fun fixed => ⟨?_, fun nz => ⟨?_, ?_⟩⟩⟩⟩
    · exact csrOp_writes h value time (writable.trans w)
    · exact (exec_csrS_of_ne c nz).trans (csrOp_writes h value time (writable.trans w))
    · exact (exec_csrC_of_ne c nz).trans (csrOp_writes h value time (writable.trans w))
    · subst z
      exact ⟨csrOp_reads h value time, csrOp_reads h value time⟩
    · exact csrOp_readOnly h value (writable.trans fixed)
    · exact (exec_csrS_of_ne c nz).trans (csrOp_readOnly h value (writable.trans fixed))
    · exact (exec_csrC_of_ne c nz).trans (csrOp_readOnly h value (writable.trans fixed))
  · exact csrOp_absent h (csr_eq_none_of_unlisted unlisted fun e => time (BitVec.eq_of_toNat_eq e))
  · exact csrOp_absent h (num ▸ csr_eq_none_of_transfer row only transfer)

theorem vgrpOf_eq (x : Word) : vgrpOf x = if x.toNat % 16 = 0 then 1 else if 8 < x.toNat % 16 then 8 else BitVec.ofNat 4 (x.toNat % 16) := by
  have low : (fld 0 4 x : BitVec 4) = BitVec.ofNat 4 (x.toNat % 16) := BitVec.eq_of_toNat_eq (by simp [fld])
  have zero : BitVec.ofNat 4 (x.toNat % 16) = 0 ↔ x.toNat % 16 = 0 := by simp [← BitVec.toNat_inj]
  simp only [vgrpOf, low, zero, BitVec.toNat_ofNat, Nat.reducePow, Nat.mod_mod]

/-- RMODE as written: the mode with the code, RNE for a code of no mode (R65). -/
theorem ofCode_eq {m : Rm} {n : Nat} (h : m.code = n ∨ (m = .rne ∧ ∀ r : Rm, r.code ≠ n)) : Rm.ofCode n = m := by
  rcases h with rfl | ⟨rfl, other⟩
  · cases m <;> rfl
  · unfold Rm.ofCode
    split
    · exact absurd rfl (other .rz)
    · exact absurd rfl (other .ru)
    · exact absurd rfl (other .rd)
    · exact absurd rfl (other .sr)
    · rfl

/-- R65, R180, R181. -/
theorem controlRegisterWrites : Claim.ControlRegisterWrites := by
  intro x s
  refine ⟨rfl, rfl, fun n e => ?_, fun m e => ?_, rfl, rfl⟩
  · subst e
    exact congrArg (fun v => s.setTile { s.tile with vgrp := v }) (vgrpOf_eq x)
  · have low : (fld 0 3 x : BitVec 3).toNat = x.toNat % 8 := by simp [fld]
    exact congrArg (fun v => s.setTile { s.tile with rmode := v }) (low ▸ ofCode_eq e)

/-- Settles O11: the reads and writes of every CSR by its row of R181's table, then what each write stores. -/
theorem csrInstructions : Obligations.CsrInstructions := ⟨controlRegisters, controlRegisterWrites⟩

end Sys2Proof.Laws
end

section
/-! What messages, scheduled events, reports, accesses to memory and debits leave as it was. -/

namespace Sys2Proof.Laws

open Machine

/-! ### The relation -/

/-- A context but for what its monitors have counted and its balance. -/
def unmetered (x : Ctx) : Ctx := { x with mons := [], balance := 0 }

/-- Tiles, turn, time, lock bits, nodes and translations are the same, and the contexts but for their monitors and balances. -/
structure SameWorld (s t : State) : Prop where
  tile : t.tile = s.tile
  rest : t.rest = s.rest
  sel : t.sel = s.sel
  now : t.now = s.now
  locks : t.locks = s.locks
  nodes : t.nodes = s.nodes
  badPages : t.badPages = s.badPages
  ctxs : t.ctxs.map unmetered = s.ctxs.map unmetered

namespace SameWorld

theorem refl (s : State) : SameWorld s s := ⟨rfl, rfl, rfl, rfl, rfl, rfl, rfl, rfl⟩

theorem trans {s t u : State} (a : SameWorld s t) (b : SameWorld t u) : SameWorld s u :=
  ⟨b.tile.trans a.tile, b.rest.trans a.rest, b.sel.trans a.sel, b.now.trans a.now, b.locks.trans a.locks, b.nodes.trans a.nodes,
    b.badPages.trans a.badPages, b.ctxs.trans a.ctxs⟩

theorem ite {s t u : State} {c : Prop} [Decidable c] (a : SameWorld s t) (b : SameWorld s u) : SameWorld s (if c then t else u) := by
  split <;> assumption

theorem foldl {α : Type} {f : State → α → State} (h : ∀ t x, SameWorld t (f t x)) (l : List α) (s : State) : SameWorld s (l.foldl f s) :=
  List.foldlRecOn (motive := SameWorld s) l f (.refl s) fun t ht x _ => ht.trans (h t x)
end SameWorld

/-! ### Messages, events and reports -/

section
variable (s : State)

theorem sameWorld_after (n e a) : SameWorld s (s.after n e a) := ⟨rfl, rfl, rfl, rfl, rfl, rfl, rfl, rfl⟩
theorem sameWorld_notify (t f) : SameWorld s (s.notify t f) := ⟨rfl, rfl, rfl, rfl, rfl, rfl, rfl, rfl⟩
theorem sameWorld_links (l) : SameWorld s { s with links := l } := ⟨rfl, rfl, rfl, rfl, rfl, rfl, rfl, rfl⟩
theorem sameWorld_unacked (l) : SameWorld s { s with unacked := l } := ⟨rfl, rfl, rfl, rfl, rfl, rfl, rfl, rfl⟩

theorem sameWorld_watchKey (n) : SameWorld s (s.watchKey n) := by
  unfold State.watchKey
  split
  · exact .refl s
  · exact .trans (.ite ((sameWorld_links s _).trans (sameWorld_notify _ _ _)) (.refl s)) (.ite (sameWorld_after _ _ _ _) (.refl _))

theorem sameWorld_onLink (dst path w) : SameWorld s (s.onLink dst path w) := (sameWorld_links s _).trans (sameWorld_watchKey _ _)

theorem sameWorld_emit (dst w) : SameWorld s (s.emit dst w) := by
  refine .ite (.refl s) ?_
  split
  · exact ⟨rfl, rfl, rfl, rfl, rfl, rfl, rfl, rfl⟩
  · refine .trans ?_ (sameWorld_onLink _ _ _ _)
    cases w <;> exact ⟨rfl, rfl, rfl, rfl, rfl, rfl, rfl, rfl⟩

theorem sameWorld_tell (dst m) : SameWorld s (s.tell dst m) := sameWorld_emit s _ _

theorem sameWorld_dispatch (u) : SameWorld s (s.dispatch u) := by
  refine .ite ((sameWorld_unacked s _).trans (sameWorld_after _ _ _ _)) (.ite ((sameWorld_unacked s _).trans (sameWorld_after _ _ _ _)) ?_)
  split
  · exact sameWorld_unacked s _
  · refine .trans ?_ (sameWorld_onLink _ _ _ _)
    exact ⟨rfl, rfl, rfl, rfl, rfl, rfl, rfl, rfl⟩

theorem sameWorld_sendRaw (c own write elem p) : SameWorld s (s.sendRaw c own write elem p) :=
  .trans (t := { s with pktN := s.pktN + 1 }) ⟨rfl, rfl, rfl, rfl, rfl, rfl, rfl, rfl⟩ (sameWorld_dispatch _ _)

theorem sameWorld_tellAll (c m) : SameWorld s (s.tellAll c m) := .foldl (fun t _ => sameWorld_tell t _ _) _ _

theorem sameWorld_tellArrival (k) : SameWorld s (s.tellArrival k) :=
  .ite (.refl s) (.trans (t := { s with hbarTold := k :: s.hbarTold }) ⟨rfl, rfl, rfl, rfl, rfl, rfl, rfl, rfl⟩ (sameWorld_tellAll _ _ _))

theorem sameWorld_hbarEnd (t c) : SameWorld s (s.hbarEnd t c) := .ite (sameWorld_tellArrival s _) (.refl s)
end

/-! ### Accesses and debits -/

section
variable (s : State)

theorem sameWorld_writeBytes (k bs) : SameWorld s (s.writeBytes k bs) := ⟨rfl, rfl, rfl, rfl, rfl, rfl, rfl, rfl⟩
theorem sameWorld_freeVal (w) : SameWorld s (s.freeVal w).2 := ⟨rfl, rfl, rfl, rfl, rfl, rfl, rfl, rfl⟩
theorem sameWorld_yields (k n) : SameWorld s (s.yields k n) := ⟨rfl, rfl, rfl, rfl, rfl, rfl, rfl, rfl⟩

theorem sameWorld_mapCtx (c : Nat) {f : Ctx → Ctx} (h : ∀ x, unmetered (f x) = unmetered x) : SameWorld s (s.mapCtx c f) := by
  refine ⟨rfl, rfl, rfl, rfl, rfl, rfl, rfl, ?_⟩
  rw [mapCtx_ctxs, List.map_map]
  refine List.map_congr_left fun x _ => ?_
  rw [Function.comp_apply, apply_ite unmetered, h, ite_self]

theorem sameWorld_monitor (c va n w) : SameWorld s (s.monitor c va n w) := sameWorld_mapCtx s c fun _ => rfl

theorem sameWorld_debit (c ns) : SameWorld s (s.debit c ns) :=
  .foldl (fun t (x : Ctx) => sameWorld_mapCtx t x.cnum (f := fun y => { y with balance := y.balance - ns }) fun _ => rfl) _ _

theorem sameWorld_smash (k n : Nat) (l : List Nat) : SameWorld s (s.smash k n l) := by
  induction l generalizing s with
  | nil => exact .refl s
  | cons b bs ih =>
    unfold State.smash
    exact .ite (((sameWorld_freeVal s 128).trans (sameWorld_writeBytes _ _ _)).trans (ih _)) (ih s)

theorem sameWorld_store (k bs) : SameWorld s (s.store k bs) := (sameWorld_writeBytes s k bs).trans (sameWorld_smash _ _ _ _)

theorem sameWorld_lay (l : List (Nat × Nat)) (bs : List Byte) : SameWorld s (s.lay l bs) := by
  induction l generalizing s bs with
  | nil => exact .refl s
  | cons p ps ih => exact ((sameWorld_yields s _ _).trans (sameWorld_store _ _ _)).trans (ih _ _)

theorem sameWorld_struckAt (cls c va n r w) : SameWorld s (s.struckAt cls c va n r w) :=
  .ite (.refl s) (.ite (.trans (.ite (sameWorld_monitor s _ _ _ _) (.refl s)) (sameWorld_monitor _ _ _ _ _))
    (.ite (sameWorld_monitor s _ _ _ _) (.refl s)))

theorem sameWorld_deviceError (cls c va n w) : SameWorld s (s.deviceError cls c va n w) :=
  .ite ((sameWorld_struckAt s _ _ _ _ _ _).trans (sameWorld_notify _ _ _)) (.refl s)
end

section
variable {s t : State} {c va n : Nat} {bs : List Byte}

theorem sameWorld_gread (e : s.gread c va n = .ok (t, bs)) : SameWorld s t := by
  unfold State.gread at e
  split at e
  · exact nomatch e
  · split at e
    · exact nomatch e
    · cases e
      exact (sameWorld_monitor s _ _ _ _).trans (.foldl (fun u p => sameWorld_yields u _ _) _ _)

theorem sameWorld_gwrite (e : s.gwrite c va bs = .ok t) : SameWorld s t := by
  unfold State.gwrite at e
  split at e
  · exact nomatch e
  · cases e
    exact (sameWorld_monitor s _ _ _ _).trans (sameWorld_lay _ _ _)

theorem sameWorld_gwriteParts {base : Nat} {l : List (Nat × List Byte)} (e : s.gwriteParts c base l = .ok t) : SameWorld s t := by
  induction l generalizing s with
  | nil => cases e; exact .refl _
  | cons p ps ih =>
    unfold State.gwriteParts at e
    split at e
    · exact nomatch e
    · next u eq => exact (sameWorld_gwrite eq).trans (ih e)

theorem sameWorld_greadNat {x : Nat} (e : s.greadNat c va n = .ok (t, x)) : SameWorld s t := by
  unfold State.greadNat at e
  split at e
  · exact nomatch e
  · next u b eq => cases e; exact sameWorld_gread eq

theorem sameWorld_gatomic {k : Nat} (e : s.gatomic c va n = .ok (t, k)) : SameWorld s t := by
  unfold State.gatomic at e
  split at e
  · exact nomatch e
  · split at e
    · exact nomatch e
    · cases e
      exact ((sameWorld_monitor s _ _ _ _).trans (sameWorld_monitor _ _ _ _ _)).trans (sameWorld_yields _ _ _)
end

end Sys2Proof.Laws
end

section
/-! The system instructions, reserved encodings and the end of a stream (O14). -/

namespace Sys2Proof.Laws

open Machine

/-! ### The core with the turn through a trap and through the completion of the task -/

/-- A stream with the same PC, loop frames, registers and end. -/
structure SameStream (x y : CoreSt) : Prop where
  fin : y.fin = x.fin
  loops : y.loops = x.loops
  g : y.g = x.g
  pc : y.pc = x.pc

@[simp] theorem mapCores_core (t : Tile) (f : CoreSt → CoreSt) (c : CoreId) : (t.mapCores f).core c = f (t.core c) := by cases c <;> rfl

section
variable {s : State}

theorem takeTrap_sel (c t) : (s.takeTrap c t).sel = s.sel := by unfold State.takeTrap; split <;> rfl
theorem takeTrap_locks (c t) : (s.takeTrap c t).locks = s.locks := by unfold State.takeTrap; split <;> rfl

theorem takeTrap_stream (c t e) : SameStream (s.tile.core e) ((s.takeTrap c t).tile.core e) := by
  unfold State.takeTrap
  split
  · exact ⟨rfl, rfl, rfl, rfl⟩
  · cases e <;> exact ⟨rfl, rfl, rfl, rfl⟩

/-- The stream with the turn through a trap of any core. -/
theorem takeTrap_core (c t) : (s.takeTrap c t).core = (s.takeTrap c t).tile.core s.sel := by rw [State.core, takeTrap_sel]

theorem unreported_setCore {t : Tile} {c : CoreId} {x : CoreSt} (h : x.late = (t.core c).late) (e : CoreId) :
    (t.setCore c x).unreported e = t.unreported e := by
  have late : ((t.setCore c x).core e).late = (t.core e).late := by
    by_cases he : e = c
    · rw [he, tile_setCore_core, h]
    · rw [tile_setCore_core_ne _ _ _ _ he]
  rw [Tile.unreported, Tile.unreported, late, tile_setCore_ops]

/-- The stream whose fault is left is one that has a fault to report. -/
theorem unreported_of_doneFault {t : Tile} {c : CoreId} {x : Trap} (h : t.doneFault = some (c, x)) : t.unreported c = some x := by
  unfold Tile.doneFault at h
  split at h
  · obtain ⟨e, -, he⟩ := List.exists_of_findSome?_eq_some h
    obtain ⟨y, hy, eq⟩ := Option.map_eq_some_iff.mp he
    cases eq
    exact hy
  · exact nomatch h

/-- Until all three streams have ended, the task is not complete and no fault is reported for it. -/
theorem tryComplete_of_running {c : CoreId} (h : (s.tile.core c).fin = false) : s.tryComplete = s := by
  have ends : (s.tile.lc.fin && s.tile.cc.fin && s.tile.sc.fin) = false := by cases c <;> simp_all [Tile.core]
  have done : s.taskDone = false := by cases c <;> simp_all [State.taskDone, Tile.core]
  simp [State.tryComplete, done, Tile.doneFault, ends]

/-- A stream with no fault to report goes through the completion of its task as it is: only another stream's fault is reported then. -/
theorem tryComplete_stream (h : s.tile.unreported s.sel = none) :
    s.tryComplete.sel = s.sel ∧ s.tryComplete.locks = s.locks ∧ SameStream s.core s.tryComplete.core := by
  unfold State.tryComplete
  split
  · exact ⟨rfl, rfl, rfl, rfl, rfl, rfl⟩
  · split
    · exact ⟨rfl, rfl, rfl, rfl, rfl, rfl⟩
    · next c x fault =>
      have other : s.sel ≠ c := by
        rintro rfl
        exact nomatch (unreported_of_doneFault fault).symm.trans h
      split
      · exact ⟨rfl, rfl, rfl, rfl, rfl, rfl⟩
      · refine ⟨takeTrap_sel _ _, takeTrap_locks _ _, ?_⟩
        have same := takeTrap_stream (s := s.setTile (s.tile.setCore c { s.tile.core c with fin := false, pc := (s.tile.core c).pc - 4 }))
          (some c) x s.sel
        rw [setTile_tile, tile_setCore_core_ne _ _ _ _ other] at same
        rw [takeTrap_core]
        exact same
end

/-! ### The end of a stream (R38, R99, R179, R185) -/

/-- The core with the turn once its stream has ended. -/
def endedCore (s : State) : CoreSt := { s.core with pc := s.core.pc + 4, loops := [], fin := true, wait := .run, next := s.now + 1 }

/-- The state in which a stream has ended, before the other packages are told and the task's completion is looked at. -/
def streamEnded (s : State) : State :=
  let t := s.setCore (endedCore s)
  { t with locks := t.locks.filter fun l => !(l.tile == s.tile.ptile && l.core == s.sel) }

section
variable {s : State}

theorem endStream_eq (s : State) : s.endStream = ((streamEnded s).hbarEnd s.tile.task s.sel).tryComplete := rfl

theorem streamEnded_core (s : State) : (streamEnded s).core = endedCore s := setCore_core s _

theorem hbarEnd_core (t c) : (s.hbarEnd t c).core = s.core := by
  have same := sameWorld_hbarEnd s t c
  rw [State.core, same.tile, same.sel, State.core]

theorem not_held_of_mem_streamEnded_locks {l : Lock} (h : l ∈ (streamEnded s).locks) : ¬(l.tile = s.tile.ptile ∧ l.core = s.sel) := by
  simpa [imp_iff_not_or] using (List.mem_filter.mp h).2

/-- What the end of a stream with no fault to report leaves. -/
theorem endStream_stream (h : s.tile.unreported s.sel = none) :
    s.endStream.core.fin = true ∧ s.endStream.core.loops = [] ∧ s.endStream.core.g = s.core.g ∧ s.endStream.core.pc = s.core.pc + 4 ∧
      ∀ l ∈ s.endStream.locks, ¬(l.tile = s.tile.ptile ∧ l.core = s.sel) := by
  have told := sameWorld_hbarEnd (streamEnded s) s.tile.task s.sel
  have silent : ((streamEnded s).hbarEnd s.tile.task s.sel).tile.unreported ((streamEnded s).hbarEnd s.tile.task s.sel).sel = none := by
    rw [told.tile, told.sel]
    exact (unreported_setCore (x := endedCore s) rfl s.sel).trans h
  obtain ⟨-, locks, fin, loops, g, pc⟩ := tryComplete_stream silent
  rw [hbarEnd_core, streamEnded_core] at fin loops g pc
  refine ⟨fin, loops, g, pc, fun l hl => not_held_of_mem_streamEnded_locks ?_⟩
  rwa [← told.locks, ← locks]

theorem endStream_due {c : CoreId} (other : c ≠ s.sel) (runs : (s.tile.core c).fin = false) (alone : s.tile.task.gang = false) :
    s.endStream.due = s.due := by
  have quiet : (streamEnded s).hbarEnd s.tile.task s.sel = streamEnded s := by simp [State.hbarEnd, alone]
  have same : ((streamEnded s).tile.core c).fin = false := (congrArg CoreSt.fin (tile_setCore_core_ne _ _ _ _ other)).trans runs
  rw [endStream_eq, quiet, tryComplete_of_running same]
  rfl

theorem report_none (h : s.tile.unreported s.sel = none) : report s = .ok () := by rw [report, h]
theorem report_some {t : Trap} (h : s.tile.unreported s.sel = some t) : report s = .error (.trap t) := by rw [report, h]
end

/-- Settles O14: done by whether its stream has a fault to report and port pushes that have not landed. -/
theorem systemInstructions : Obligations.SystemInstructions := by
  intro w s h
  refine ⟨common_ok _ h, common_ok _ h, common_ok _ h, common_ok _ h, rfl, fun silent landed => ?_, fun silent pending => ?_, fun t fault => ?_⟩
  · obtain ⟨fin, loops, g, pc, locks⟩ := endStream_stream silent
    refine ⟨s.endStream, ?_, fin, loops, g, endStream_mem s, locks, fun ⟨c, other, runs⟩ => ⟨pc, endStream_due other runs⟩⟩
    refine (common_ok _ h).trans ?_
    rw [report_none silent, settled_ok landed]
    rfl
  · refine (common_ok _ h).trans ?_
    have waits : settled s = .error (.wait .other) := if_neg pending
    rw [report_none silent, waits]
    rfl
  · refine (common_ok _ h).trans ?_
    rw [report_some fault]
    rfl

end Sys2Proof.Laws
end

section
/-! Contexts and tiles found by number through the changes made to them. -/

namespace Sys2Proof.Laws

open Machine

/-! ### Contexts by number -/

section
variable {s t : State} {c : Nat} {x : Ctx}

theorem ctx?_cnum (h : s.ctx? c = some x) : x.cnum = c := eq_of_beq (List.find?_some (p := fun x : Ctx => x.cnum == c) h)

/-- A context is found where it was, the same but for its monitors and balance. -/
theorem ctx?_of_unmetered (h : t.ctxs.map unmetered = s.ctxs.map unmetered) (found : s.ctx? c = some x) :
    ∃ y, t.ctx? c = some y ∧ unmetered y = unmetered x := by
  have look (u : State) : (u.ctxs.map unmetered).find? (fun x => x.cnum == c) = (u.ctx? c).map unmetered := List.find?_map
  refine Option.map_eq_some_iff.mp ?_
  rw [← look t, h, look s, found]
  rfl

theorem mapCtx_ctx? (n : Nat) {f : Ctx → Ctx} (num : ∀ x, (f x).cnum = x.cnum) :
    (s.mapCtx n f).ctx? c = (s.ctx? c).map fun x => if x.cnum = n then f x else x := by
  have same (x : Ctx) : (if x.cnum = n then f x else x).cnum = x.cnum := by split <;> simp [num]
  rw [State.ctx?, mapCtx_ctxs, List.find?_map, State.ctx?]
  simp only [Function.comp_def, same]

theorem mapCtx_ctx?_self {f : Ctx → Ctx} (num : ∀ x, (f x).cnum = x.cnum) (h : s.ctx? c = some x) :
    (s.mapCtx c f).ctx? c = some (f x) := by
  rw [mapCtx_ctx? c num, h, Option.map_some, if_pos (ctx?_cnum h)]
end

/-! ### Tiles by number -/

section
variable {s : State} {pt : BitVec 8}

theorem findTile_focus (s : State) : s.findTile s.tile.ptile = some s.tile := by simp [State.findTile, State.tiles]

theorem findTile_ptile {t : Tile} (h : s.findTile pt = some t) : t.ptile = pt :=
  eq_of_beq (List.find?_some (p := fun t : Tile => t.ptile == pt) h)

theorem findTile_of_eq {t : State} (tile : t.tile = s.tile) (rest : t.rest = s.rest) : t.findTile pt = s.findTile pt := by
  rw [State.findTile, State.tiles, tile, rest]; rfl

theorem mapTile_tiles (f : Tile → Tile) : (s.mapTile pt f).tiles = s.tiles.map fun t => if t.ptile = pt then f t else t := rfl

theorem findTile_mapTile {f : Tile → Tile} (num : ∀ t, t.ptile = pt → (f t).ptile = pt) :
    (s.mapTile pt f).findTile pt = (s.findTile pt).map f := by
  have same (t : Tile) : ((if t.ptile = pt then f t else t).ptile == pt) = (t.ptile == pt) := by
    by_cases h : t.ptile = pt
    · simp [h, num t h]
    · simp [h]
  rw [State.findTile, mapTile_tiles, List.find?_map]
  simp only [Function.comp_def, same]
  cases h : s.tiles.find? fun t => t.ptile == pt with
  | none => simp [State.findTile, h]
  | some t => simp [State.findTile, h, findTile_ptile h]

/-- A change made with the tile in focus in focus. -/
theorem onFocus_focus {f : State → State} (h : (f s).tile.ptile = s.tile.ptile) :
    s.onFocus s.tile.ptile f = { f s with sel := s.sel } := by
  have there : s.swap s.tile.ptile = some s := if_pos rfl
  have back : (f s).swap s.tile.ptile = some (f s) := if_pos h
  rw [State.onFocus, State.onCore, there]
  exact congrArg (fun o : Option State => (o.map fun u => { u with sel := s.sel }).getD s) back
end

/-! ### Events scheduled for this cycle -/

theorem soon_after (s : State) (e : Instr) (a : EvArg) : Soon (s.after 0 e a) s.now e a := ⟨_, self_mem_after_due s 0 e a, rfl, rfl, rfl⟩

theorem soon_after_of_soon {s : State} {now : Nat} {e : Instr} {a : EvArg} (h : Soon s now e a) (n : Nat) (e' : Instr) (a' : EvArg) :
    Soon (s.after n e' a') now e a := by
  obtain ⟨d, hd, h⟩ := h
  exact ⟨d, mem_after_due.mpr (.inr hd), h⟩

end Sys2Proof.Laws
end

section
/-! Dies that save late (R438), and the commit of a save (R321). -/

namespace Sys2Proof.Laws

open Machine

section
variable {s : State} {c d : Nat} {x : Ctx} (arg : s.arg = .num c) (found : s.ctx? c = some x)
include arg found

/-! ### Late dies (R438) -/

section
variable (out : x.out = true) (deadline : x.deadline = some d)
include out deadline

theorem does_saveDeadline : Does .saveDeadline s
    (if s.now < d then s
    else if (s.lateDies x).isEmpty then s.mapCtx c fun y => { y with deadline := none }
    else s.after (s.tickT * 300) .gracePeriodEnd (.num c)) := by
  show execSaveDeadline s = _
  rw [execSaveDeadline, arg]
  simp only [found, deadline, out, Bool.true_eq_false, false_or]
  split
  · rfl
  · split <;> rfl

theorem does_gracePeriodEnd : Does .gracePeriodEnd s
    (match s.lateDies x with
    | [] => s
    | e :: _ => (s.mapCtx c fun y => { y with torn := true }).notify { cls := .ctxTorn, addr := e } c) := by
  show execGracePeriodEnd s = _
  rw [execGracePeriodEnd, arg]
  simp only [found, deadline, out, Bool.true_eq_false, reduceCtorEq, or_self, if_false]
  cases s.lateDies x <;> rfl
end
end

/-- R438. -/
theorem lateDies : Claim.LateDies := by
  intro c d x s arg found out deadline
  have late := does_saveDeadline arg found out deadline
  have ends := does_gracePeriodEnd arg found out deadline
  refine ⟨fun past some_ => ?_, fun past none_ => ?_, fun early => ?_, fun none_ => ?_, fun e es some_ => ?_⟩
  · rwa [if_neg (Nat.not_lt.mpr past), if_neg (by simpa using some_)] at late
  · rwa [if_neg (Nat.not_lt.mpr past), if_pos (by simpa using none_)] at late
  · rwa [if_pos early] at late
  · rwa [none_] at ends
  · rw [some_] at ends
    exact ⟨_, _, ends, mapCtx_ctx?_self (fun _ => rfl) found, rfl, rfl, _, List.mem_append_right _ List.mem_cons_self, rfl, rfl, rfl⟩

end Sys2Proof.Laws
end

section
/-! The bound of a drain (R318, R319) and the commit of a save (R321). -/

namespace Sys2Proof.Laws

open Machine

/-! ### The bound of a drain -/

section
variable {s : State}

theorem saveCost_pos (t : Tile) : 0 < saveCost t := by
  unfold saveCost
  omega

theorem dropLocks_saving (pt) : (s.dropLocks pt).tile.saving = s.tile.saving := by
  show (if s.tile.ptile = pt then _ else s.tile : Tile).saving = _
  split <;> rfl

theorem dropLocks_drain (pt) : (s.dropLocks pt).tile.drain = s.tile.drain := by
  show (if s.tile.ptile = pt then _ else s.tile : Tile).drain = _
  split <;> rfl

theorem beginSave_focus (resident : s.tile.resident = true) (saving : s.tile.saving = none) :
    s.beginSave s.tile.ptile =
      ((s.mapTile s.tile.ptile fun u => { u with saving := some (s.now + saveCost u), drain := none }).dropLocks s.tile.ptile).after
        (saveCost s.tile) .checkpoint (.tile s.tile.ptile) := by
  simp [State.beginSave, findTile_focus, resident, saving]

variable (arg : s.arg = .tile s.tile.ptile)
include arg

theorem does_drainBound {k : Nat} (drain : s.tile.drain = some k) (due : k ≤ s.now) (resident : s.tile.resident = true)
    (saving : s.tile.saving = none) :
    ∃ t, Does .drainBound s t ∧ t.tile.saving = some (s.now + saveCost s.tile) ∧ t.tile.drain = none ∧ t.mem = s.mem ∧
      Later t s.now .checkpoint (.tile s.tile.ptile) := by
  refine ⟨s.beginSave s.tile.ptile, ?_, ?_⟩
  · show execDrainBound s = _
    rw [execDrainBound, arg]
    simp [findTile_focus, drain, due, resident]
  · rw [beginSave_focus resident saving]
    refine ⟨?_, ?_, rfl, later_after _ _ _ (saveCost_pos _)⟩
    · rw [after_tile, dropLocks_saving, mapTile_focus]
    · rw [after_tile, dropLocks_drain, mapTile_focus]

theorem does_drainBound_of_none (drain : s.tile.drain = none) : Does .drainBound s s := by
  show execDrainBound s = _
  rw [execDrainBound, arg]
  simp [findTile_focus, drain]
end

/-! ### The commit -/

/-- Whether a task of a context is still to be saved before the context's images can be committed. -/
def savesBusy (s : State) (c : Nat) (x : Ctx) : Bool := s.tiles.any fun t => t.resident && t.task.cnum == c && (t.saving.isSome || x.out)

/-- Whether a context has something to commit: an image not yet valid, or a switch out under way. -/
def commitDue (x : Ctx) : Bool := (x.saved.any fun i => !i.valid) || (x.out && x.deadline.isSome)

/-- A context whose images are committed under a GEN. -/
def committed (gen : Nat) (y : Ctx) : Ctx :=
  { y with gen := (y.gen + 1) % 2 ^ 64, torn := false, deadline := none
           saved := y.saved.map fun i => { i with valid := true, gen := (gen + 1) % 2 ^ 64 } }

theorem commitDue_eq_true {x : Ctx} : commitDue x = true ↔ (∃ i ∈ x.saved, i.valid = false) ∨ (x.out = true ∧ x.deadline ≠ none) := by
  simp [commitDue, Option.isSome_iff_ne_none]

section
variable {s : State} {c : Nat} {x : Ctx} (arg : s.arg = .num c) (found : s.ctx? c = some x)
include arg found

theorem does_saveCommit_idle (h : savesBusy s c x = true ∨ commitDue x = false) : Does .saveCommit s s := by
  show execSaveCommit s = _
  rw [execSaveCommit, arg]
  simp only [found]
  exact if_pos h

theorem does_saveCommit {u : State} (free : savesBusy s c x = false) (due : commitDue x = true) (fits : x.areaFits = true)
    (written : s.writeDirectory x = .ok u) :
    Does .saveCommit s ((u.mapCtx c (committed x.gen)).after 0 .distributorPlace .none) := by
  show execSaveCommit s = _
  have go : ¬(savesBusy s c x = true ∨ commitDue x = false) := by simp [free, due]
  rw [execSaveCommit, arg]
  simp only [found, fits, written]
  exact if_neg go
end

end Sys2Proof.Laws
end

section
/-! A task that leaves its tile: what is settled before, what is debited, what follows (R124, R135, R310, R313). -/

namespace Sys2Proof.Laws

open Machine

/-! ### Who is on a tile -/

/-- The tile has the same number and the same task, resident or not as before. -/
structure SameOccupant (t u : Tile) : Prop where
  ptile : u.ptile = t.ptile
  resident : u.resident = t.resident
  task : u.task = t.task

namespace SameOccupant

theorem refl (t : Tile) : SameOccupant t t := ⟨rfl, rfl, rfl⟩

theorem trans {t u v : Tile} (a : SameOccupant t u) (b : SameOccupant u v) : SameOccupant t v :=
  ⟨b.ptile.trans a.ptile, b.resident.trans a.resident, b.task.trans a.task⟩

theorem ite {t u v : Tile} {c : Prop} [Decidable c] (a : SameOccupant t u) (b : SameOccupant t v) : SameOccupant t (if c then u else v) := by
  split <;> assumption
end SameOccupant

section
variable (t : Tile) (c : CoreId)

theorem sameOccupant_setCore (x : CoreSt) : SameOccupant t (t.setCore c x) := by cases c <;> exact ⟨rfl, rfl, rfl⟩

theorem sameOccupant_land (x : Land) : SameOccupant t (t.land c x) := by
  cases x with
  | g r x => exact .ite (.refl t) (sameOccupant_setCore t c _)
  | v r x f => exact ⟨rfl, rfl, rfl⟩
  | data r x => exact ⟨rfl, rfl, rfl⟩
  | tag r f => exact ⟨rfl, rfl, rfl⟩
  | p r x => exact .ite (.refl t) ⟨rfl, rfl, rfl⟩

theorem sameOccupant_landAll : SameOccupant t (t.landAll c) :=
  List.foldlRecOn (motive := SameOccupant t) _ _ (sameOccupant_setCore t c _) fun u hu _ _ => hu.trans (sameOccupant_land u c _)
end

/-! ### Results landed and counts settled -/

/-- The same task is on the tile in focus; time, nodes and contexts are the same, the contexts but for their monitors and balances. -/
structure SameTask (s t : State) : Prop where
  tile : SameOccupant s.tile t.tile
  now : t.now = s.now
  nodes : t.nodes = s.nodes
  ctxs : t.ctxs.map unmetered = s.ctxs.map unmetered

namespace SameTask

theorem refl (s : State) : SameTask s s := ⟨.refl _, rfl, rfl, rfl⟩

theorem trans {s t u : State} (a : SameTask s t) (b : SameTask t u) : SameTask s u :=
  ⟨a.tile.trans b.tile, b.now.trans a.now, b.nodes.trans a.nodes, b.ctxs.trans a.ctxs⟩

theorem foldl {α : Type} {f : State → α → State} (h : ∀ t x, SameTask t (f t x)) (l : List α) (s : State) : SameTask s (l.foldl f s) :=
  List.foldlRecOn (motive := SameTask s) l f (.refl s) fun t ht x _ => ht.trans (h t x)
end SameTask

theorem SameWorld.sameTask {s t : State} (h : SameWorld s t) : SameTask s t := ⟨h.tile ▸ .refl _, h.now, h.nodes, h.ctxs⟩

section
variable (s : State)

theorem sameTask_setTile {t : Tile} (h : SameOccupant s.tile t) : SameTask s (s.setTile t) := ⟨h, rfl, rfl, rfl⟩

theorem sameTask_sendCounts (c e g) : SameTask s (s.sendCounts c e g) :=
  (sameTask_setTile s (sameOccupant_setCore s.tile c _)).trans (sameWorld_sendRaw _ _ _ _ _ _).sameTask

theorem sameTask_settleCounts (c) : SameTask s (s.settleCounts c) := by
  refine .trans (.foldl (fun t x => ?_) _ _) (sameTask_setTile _ (sameOccupant_setCore _ c _))
  split
  · exact .refl t
  · exact sameTask_sendCounts t _ _ _

/-- The counts of all three streams settled. -/
def settleAll : State := ((s.settleCounts .load).settleCounts .compute).settleCounts .store

theorem sameTask_settleAll : SameTask s (settleAll s) :=
  ((sameTask_settleCounts s _).trans (sameTask_settleCounts _ _)).trans (sameTask_settleCounts _ _)

theorem sameTask_dropIdle (tid) : SameTask s (s.dropIdle tid) := ⟨.refl _, rfl, rfl, rfl⟩

theorem sameTask_landEverything : SameTask s s.landEverything := by
  refine .trans ?_ (sameTask_setTile _ (((sameOccupant_landAll _ _).trans (sameOccupant_landAll _ _)).trans (sameOccupant_landAll _ _)))
  exact (sameTask_setTile s (t := { s.tile with pushes := [] }) ⟨rfl, rfl, rfl⟩).trans
    (.foldl (fun u (p : Push) => (sameWorld_store u p.key (leBytes 256 p.val.toNat)).sameTask) _ _)
end

/-! ### Leaving the tile (R310, R313, R321) -/

/-- A tile that its task has left. -/
def vacated (t : Tile) : Tile := { t with resident := false, stop := none, saving := none, drain := none }

theorem sameWorld_codesFree (s : State) : SameWorld s s.codesFree := .foldl (fun t _ => sameWorld_after t _ _ _) _ _

/-- What is left when the task on the tile in focus leaves it. -/
structure Leaves (s t : State) : Prop where
  tile : t.tile = vacated s.tile
  now : t.now = s.now
  nodes : t.nodes = s.nodes
  ctxs : t.ctxs.map unmetered = s.ctxs.map unmetered
  report : Soon t s.now .dieReport (.num (pdie s.tile.ptile.toNat))
  commit : Soon t s.now .saveCommit (.num s.tile.task.cnum)
  place : Soon t s.now .distributorPlace .none

theorem leave_eq {s : State} (h : s.tile.resident = true) : s.leave s.tile.ptile =
    (((((s.debit s.tile.task.cnum (s.since (max s.tile.task.started s.tickAt))).mapTile s.tile.ptile vacated).codesFree.after 0 .dieReport
      (.num (pdie s.tile.ptile.toNat))).after 0 .saveCommit (.num s.tile.task.cnum)).after 0 .distributorPlace .none) := by
  simp only [State.leave, findTile_focus, h]
  rfl

theorem leaves {s : State} (h : s.tile.resident = true) : Leaves s (s.leave s.tile.ptile) := by
  rw [leave_eq h]
  have debited := sameWorld_debit s s.tile.task.cnum (s.since (max s.tile.task.started s.tickAt))
  generalize s.debit s.tile.task.cnum (s.since (max s.tile.task.started s.tickAt)) = d at debited ⊢
  have freed := sameWorld_codesFree (d.mapTile s.tile.ptile vacated)
  generalize (d.mapTile s.tile.ptile vacated).codesFree = v at freed ⊢
  have now : v.now = s.now := freed.now.trans debited.now
  refine ⟨?_, now, freed.nodes.trans debited.nodes, freed.ctxs.trans debited.ctxs, ?_, ?_, ?_⟩
  · show v.tile = _
    rw [freed.tile, ← debited.tile, mapTile_focus]
  · rw [← now]
    exact soon_after_of_soon (soon_after_of_soon (soon_after v _ _) _ _ _) _ _ _
  · rw [← now]
    exact soon_after_of_soon (soon_after (v.after 0 _ _) _ _) _ _ _
  · rw [← now]
    exact soon_after _ _ _

end Sys2Proof.Laws
end

section
/-! The image of a task written and its tile left (R319 to R321), and the claims on saves. -/

namespace Sys2Proof.Laws

open Machine

/-! ### The image written -/

/-- The state of a task that is saved: results landed, counts settled, idle packets dropped (R120, R124, R135, R194). -/
def settledForSave (s : State) : State := (settleAll s.landEverything).dropIdle s.tile.task.id

/-- The record of an image of tile t in slot k, with the barrier slots that u has in the scratch of tile pt. -/
def imageOf (u : State) (pt : BitVec 8) (x : Ctx) (k : Nat) (t : Tile) : Image where
  slot := k
  gen := x.gen
  valid := false
  tile := t
  disp := none
  bars := (u.bars.filter (inScratch pt)).map fun k => k - tileKey pt.toNat
  errs := (u.errs.filter fun e => inScratch pt e.1).map fun e => (e.1 - tileKey pt.toNat, e.2)
  writes := []

/-- The nanoseconds by which a save that is under a deadline is late (R438). -/
def lateness (s : State) (x : Ctx) : Nat :=
  match x.deadline with
  | some d => if x.out then s.since (min d s.now) else 0
  | none => 0

/-- A context with one more image. -/
def withImage (i : Image) (y : Ctx) : Ctx := { y with saved := y.saved ++ [i] }

/-- A state in which an image of a tile has been recorded, a late save debited and the tile left. -/
def imaged (u : State) (pt : BitVec 8) (c : Nat) (i : Image) (late : Nat) : State :=
  (((u.dropBars pt).mapCtx c (withImage i)).debit c late).leave pt

section
variable {s u : State}

theorem sameTask_settledForSave (s : State) : SameTask s (settledForSave s) :=
  ((sameTask_landEverything s).trans (sameTask_settleAll _)).trans (sameTask_dropIdle _ _)

theorem imaged_mem (pt c i late) : (imaged u pt c i late).mem = u.mem := by simp [imaged, State.dropBars]

theorem imaged_leaves {c : Nat} {i : Image} (late : Nat) (resident : u.tile.resident = true) :
    Leaves ((u.dropBars u.tile.ptile).mapCtx c (withImage i)) (imaged u u.tile.ptile c i late) := by
  have debited := sameWorld_debit ((u.dropBars u.tile.ptile).mapCtx c (withImage i)) c late
  unfold imaged
  generalize ((u.dropBars u.tile.ptile).mapCtx c (withImage i)).debit c late = d at debited ⊢
  have same : d.tile = u.tile := debited.tile
  have left : Leaves d (d.leave u.tile.ptile) := same ▸ leaves (same ▸ resident)
  exact ⟨left.tile.trans (congrArg vacated same), left.now.trans debited.now, left.nodes.trans debited.nodes, left.ctxs.trans debited.ctxs,
    debited.now ▸ debited.tile ▸ left.report, debited.now ▸ debited.tile ▸ left.commit, debited.now ▸ left.place⟩

/-- A task whose image can be written has it recorded and leaves its tile. -/
theorem saveTile_eq {x : Ctx} {k : Nat} (found : s.ctx? s.tile.task.cnum = some x) (slot : x.freeSlot = some k)
    (clean : s.savePoisoned s.tile = false)
    (written : (settledForSave s).gwriteParts x.parent (x.slotAt k) ((settledForSave s).imageParts (settledForSave s).tile.frozen) = .ok u) :
    ∃ i late, i.slot = k ∧ i.tile = (settledForSave s).tile.frozen ∧ i.valid = false ∧ s.saveTile = imaged u s.tile.ptile x.cnum i late := by
  refine ⟨imageOf u s.tile.ptile x k (settledForSave s).tile.frozen, lateness (settledForSave s) x, rfl, rfl, rfl, ?_⟩
  unfold settledForSave settleAll at written
  unfold State.saveTile
  -- The search for a free slot is made a variable: the kernel would evaluate it to reduce the match on it.
  obtain ⟨free, search⟩ : ∃ f, f = Ctx.freeSlot := ⟨_, rfl⟩
  rw [← search] at slot ⊢
  simp only [found, slot, clean, written]
  rfl

/-- A checkpoint whose cycles have passed, with nothing of the task under way, writes the image. -/
theorem execCheckpoint_eq {w : Nat} (arg : s.arg = .tile s.tile.ptile) (saving : s.tile.saving = some w) (due : w ≤ s.now)
    (resident : s.tile.resident = true) (settled : s.tile.unsettled = false) (quiet : s.inFlight s.tile.task.id = false)
    (counts : s.countsReady = true) : execCheckpoint s = .next (s.onFocus s.tile.ptile State.saveTile) := by
  have there : s.swap s.tile.ptile = some s := if_pos rfl
  have early : ¬s.now < w := Nat.not_lt.mpr due
  rw [execCheckpoint, arg]
  simp [findTile_focus, saving, early, resident, settled, quiet, there, counts]

theorem does_checkpoint {w k : Nat} {x : Ctx} (arg : s.arg = .tile s.tile.ptile) (saving : s.tile.saving = some w) (due : w ≤ s.now)
    (resident : s.tile.resident = true) (settled : s.tile.unsettled = false) (quiet : s.inFlight s.tile.task.id = false)
    (counts : s.countsReady = true) (found : s.ctx? s.tile.task.cnum = some x) (slot : x.freeSlot = some k)
    (clean : s.savePoisoned s.tile = false)
    (written : (settledForSave s).gwriteParts x.parent (x.slotAt k) ((settledForSave s).imageParts (settledForSave s).tile.frozen) = .ok u) :
    ∃ t y i, Does .checkpoint s t ∧ t.tile.resident = false ∧ t.mem = u.mem ∧ t.ctx? x.cnum = some y ∧ i ∈ y.saved ∧ i.slot = k ∧
      i.tile = (settledForSave s).tile.frozen ∧ i.valid = false ∧ Soon t s.now .saveCommit (.num x.cnum) := by
  have task : SameTask s u := (sameTask_settledForSave s).trans (sameWorld_gwriteParts written).sameTask
  have num : x.cnum = s.tile.task.cnum := ctx?_cnum found
  obtain ⟨i, late, islot, itile, ivalid, eq⟩ := saveTile_eq found slot clean written
  have left : Leaves ((u.dropBars u.tile.ptile).mapCtx x.cnum (withImage i)) s.saveTile := by
    rw [eq, ← task.tile.ptile]
    exact imaged_leaves late (task.tile.resident.trans resident)
  have mem : s.saveTile.mem = u.mem := by rw [eq, imaged_mem]
  obtain ⟨y, now, -⟩ := ctx?_of_unmetered task.ctxs (num ▸ found)
  obtain ⟨z, found', same⟩ :=
    ctx?_of_unmetered left.ctxs (mapCtx_ctx?_self (s := u.dropBars u.tile.ptile) (f := withImage i) (fun _ => rfl) now)
  have saved : z.saved = y.saved ++ [i] := congrArg Ctx.saved same
  have ptile : s.saveTile.tile.ptile = s.tile.ptile := (congrArg Tile.ptile left.tile).trans task.tile.ptile
  refine ⟨{ s.saveTile with sel := s.sel }, z, i, ?_, congrArg Tile.resident left.tile, mem, found', by simp [saved], islot, itile, ivalid, ?_⟩
  · show execCheckpoint s = _
    rw [execCheckpoint_eq arg saving due resident settled quiet counts, onFocus_focus ptile]
  · rw [num, ← task.now, ← task.tile.task]
    exact left.commit
end

/-- R318 to R321. -/
theorem saving : Claim.Saving := by
  intro c k x u s
  refine ⟨fun arg drain due resident idle => does_drainBound arg drain due resident idle, fun arg none_ => does_drainBound_of_none arg none_,
    fun w arg saves due resident settled quiet counts found _ slot clean written =>
      does_checkpoint arg saves due resident settled quiet counts found slot clean written,
    fun arg found => ⟨fun busy => does_saveCommit_idle arg found (.inl busy), fun valid quiet => ?_, fun free due fits written => ?_⟩⟩
  · refine does_saveCommit_idle arg found (.inr (Bool.eq_false_iff.mpr fun due => ?_))
    rcases commitDue_eq_true.mp due with ⟨i, hi, h⟩ | ⟨out, deadline⟩
    · exact nomatch (valid i hi).symm.trans h
    · exact quiet.elim (fun h => nomatch h.symm.trans out) deadline
  · have same : SameWorld s u := sameWorld_gwriteParts written
    obtain ⟨y, now, eq⟩ := ctx?_of_unmetered same.ctxs found
    have gen : y.gen = x.gen := by simpa [unmetered] using congrArg Ctx.gen eq
    refine ⟨_, committed x.gen y, does_saveCommit arg found free (commitDue_eq_true.mpr due) fits written, rfl,
      mapCtx_ctx?_self (fun _ => rfl) now, ?_, rfl, fun i hi => ?_, same.now ▸ soon_after _ _ _⟩
    · rw [committed, gen]
    · obtain ⟨j, -, rfl⟩ := List.mem_map.mp hi
      exact ⟨rfl, by rw [committed, gen]⟩

end Sys2Proof.Laws
end

section
/-! The completion of a task and of its node (R38). -/

namespace Sys2Proof.Laws

open Machine

/-! ### Nodes by address -/

section
variable {s t : State}

theorem nodeRec_of_nodes (h : t.nodes = s.nodes) (c addr : Nat) : t.nodeRec c addr = s.nodeRec c addr := by
  rw [State.nodeRec, State.node?, h]
  rfl

theorem nodeRec_key (s : State) (c addr : Nat) : (s.nodeRec c addr).cnum = c ∧ (s.nodeRec c addr).addr = addr := by
  rw [State.nodeRec, State.node?]
  cases h : s.nodes.find? fun n => n.cnum == c && n.addr == addr with
  | none => exact ⟨rfl, rfl⟩
  | some n => simpa using List.find?_some h

theorem nodeRec_putNode {n : NodeRec} {c addr : Nat} (hc : n.cnum = c) (ha : n.addr = addr) : (s.putNode n).nodeRec c addr = n := by
  simp [State.nodeRec, State.node?, State.putNode, hc, ha]
end

/-! ### The tile in focus through what a node's completion sets off -/

section
variable (s : State)

theorem packetsEnd_same : s.packetsEnd.tile = s.tile ∧ s.packetsEnd.nodes = s.nodes :=
  List.foldlRecOn (motive := fun t : State => t.tile = s.tile ∧ t.nodes = s.nodes) _ _ ⟨rfl, rfl⟩ fun _ h _ _ => h

theorem nodeEnded_tile (c addr l) : (s.nodeEnded c addr l).tile = s.tile := (packetsEnd_same _).1
theorem nodeEnded_nodes (c addr l) : (s.nodeEnded c addr l).nodes = s.nodes := (packetsEnd_same _).2
theorem store_tile (k bs) : (s.store k bs).tile = s.tile := (sameWorld_store s k bs).tile
theorem tell_tile (dst m) : (s.tell dst m).tile = s.tile := (sameWorld_tell s dst m).tile
theorem notify_tile (t f) : (s.notify t f).tile = s.tile := rfl
theorem putNode_tile (n) : (s.putNode n).tile = s.tile := rfl

theorem waiters_tile {c k rec : Nat} {t : State} {l} (e : s.waiters c k rec = .ok (t, l)) : t.tile = s.tile := by
  induction k generalizing s rec l with
  | zero => cases e; rfl
  | succ k ih =>
    unfold State.waiters at e
    split at e
    · cases e; rfl
    · split at e
      · exact nomatch e
      · next u key eq =>
        have same := (sameWorld_gatomic eq).tile
        dsimp only at e
        split at e
        · cases e; exact same
        · split at e
          · exact nomatch e
          · next v m eq' => cases e; exact (ih _ eq').trans same

theorem futEnd_tile {c va st : Nat} {f : Nat → Nat} {t : State} {l : List Nat} (e : s.futEnd c va st f = .ok (t, l)) : t.tile = s.tile := by
  unfold State.futEnd at e
  split at e
  · exact nomatch e
  · next u k eq =>
    have same := (sameWorld_gatomic eq).tile
    dsimp only at e
    split at e
    · exact nomatch e
    · split at e
      · exact nomatch e
      · split at e
        · exact nomatch e
        · next v eq' => cases e; rw [store_tile, freeVal_tile, waiters_tile _ eq', same]
        · next v l' eq' => cases e; exact (store_tile v _ _).trans ((waiters_tile _ eq').trans same)

theorem futureOf_tile (c addr) : (s.futureOf c addr).1.tile = s.tile := by
  unfold State.futureOf
  split
  · next t x eq => exact (sameWorld_greadNat eq).tile
  · exact (sameWorld_struckAt s _ _ _ _ _ _).tile

theorem poisonNodes_tile (src k) (l : List (Nat × Nat)) : (poisonNodes src k l s).tile = s.tile := by
  induction k generalizing s l with
  | zero => rfl
  | succ k ih =>
    cases l with
    | nil => rfl
    | cons w ws =>
      unfold poisonNodes
      split
      · rw [ih, notify_tile]
      · split
        · rw [ih, tell_tile]
        · next e va _ _ =>
          dsimp only
          have future (n : NodeRec) : (((s.putNode n).nodeEnded w.1 va []).after 0 .nodeDecrement (.node w.1 va src)).tile = s.tile := nodeEnded_tile _ _ _ _
          split
          · rw [ih, futureOf_tile]; exact future _
          · split
            · rw [ih, futureOf_tile]; exact future _
            · split
              · rw [ih, tell_tile, futureOf_tile]; exact future _
              · split
                · rw [ih, futureOf_tile]; exact future _
                · next u l eq => rw [ih, futEnd_tile _ eq, futureOf_tile]; exact future _

theorem futPoison_tile (c pod pcode) : (s.futPoison c pod pcode).tile = s.tile := by
  unfold State.futPoison
  split
  · rfl
  · split
    · rfl
    · split
      · exact tell_tile _ _ _
      · split
        · rfl
        · next t l eq => rw [poisonNodes_tile, futEnd_tile _ eq]

theorem reject_tile (c addr check) (img : Option NodeImg) : (s.reject c addr check img).tile = s.tile := by
  cases img with
  | none => exact nodeEnded_tile _ _ _ _
  | some x => exact (nodeEnded_tile _ _ _ _).trans (futPoison_tile _ _ _ _)

theorem decrement_tile (c addr src want) : (s.decrement c addr src want).1.tile = s.tile := by
  unfold State.decrement
  split
  · rw [reject_tile, (sameWorld_deviceError _ _ _ _ _ _).tile, (sameWorld_struckAt _ _ _ _ _ _ _).tile]
  · next t bs eq =>
    have read := (sameWorld_gread eq).tile
    split
    · rw [reject_tile, (sameWorld_deviceError _ _ _ _ _ _).tile, (sameWorld_struckAt _ _ _ _ _ _ _).tile, read]
    · next u k eq' =>
      have same : u.tile = s.tile := (sameWorld_gatomic eq').tile.trans read
      dsimp only
      split
      · rw [reject_tile, same]
      · split
        · exact same
        · have stored (bs) : (u.store k bs).tile = s.tile := (store_tile u k bs).trans same
          split
          · exact stored _
          · split
            · exact stored _
            · split
              · exact stored _
              · split
                · exact (reject_tile _ _ _ _ _).trans (stored _)
                · exact stored _

theorem decrementAll_tile (c addr nodeid) (l : List Nat) : (s.decrementAll c addr nodeid l).1.tile = s.tile := by
  have step (t : State) (a i : Nat) : (t.decrement c a none (some (i, 7))).1.tile = t.tile := decrement_tile t _ _ _ _
  delta State.decrementAll State.decrementAll._f
  -- The decrement is made a variable: the kernel would evaluate it to reduce the recursion on the list.
  obtain ⟨dec, hdec⟩ : ∃ f, f = State.decrement := ⟨_, rfl⟩
  rw [← hdec] at step ⊢
  induction l generalizing s with
  | nil => rfl
  | cons i is ih => exact (ih _).trans (step s _ _)

theorem futNodes_tile (c src) (l : List Nat) : (s.futNodes c src l).tile = s.tile := by
  induction l generalizing s with
  | nil => rfl
  | cons pod l ih =>
    unfold State.futNodes
    split
    · exact ih _
    · split
      · exact (ih _).trans (tell_tile _ _ _)
      · exact ih _

theorem resolveNode_tile (c addr fut v) : (s.resolveNode c addr fut v).tile = s.tile := by
  unfold State.resolveNode
  split
  · rfl
  · split
    · rfl
    · split
      · exact tell_tile _ _ _
      · split
        · rfl
        · next t l eq => rw [futNodes_tile, futEnd_tile _ eq]

theorem successors_tile {c va : Nat} {t : State} {l : List Nat} (e : s.successors c va = some (t, l)) : t.tile = s.tile := by
  unfold State.successors at e
  split at e
  · exact nomatch e
  · split at e
    · exact nomatch e
    · next u n eq =>
      split at e
      · exact nomatch e
      · split at e
        · exact nomatch e
        · next v bs eq' =>
          dsimp only at e
          split at e
          · cases e; exact (sameWorld_gread eq').tile.trans (sameWorld_greadNat eq).tile
          · exact nomatch e

theorem nodeComplete_tile (c addr) : (s.nodeComplete c addr).tile = s.tile := by
  have resolved (n fut v) : ((s.putNode n).resolveNode c addr fut v).tile = s.tile := resolveNode_tile _ _ _ _ _
  unfold State.nodeComplete
  dsimp only
  split
  · rw [nodeEnded_tile, resolved]
  · split
    · rw [reject_tile, resolved]
    · next t l eq => rw [nodeEnded_tile, decrementAll_tile, successors_tile _ eq, resolved]

/-- A node with neither future nor successors is complete, and nothing more. -/
theorem nodeComplete_nodeRec {c addr : Nat} (fut : nodeFuture (s.nodeRec c addr).img = 0) (succs : nodeSuccs (s.nodeRec c addr).img = 0) :
    (s.nodeComplete c addr).nodeRec c addr = { s.nodeRec c addr with st := 3, ended := true } := by
  obtain ⟨num, at_⟩ := nodeRec_key s c addr
  simp only [State.nodeComplete, succs, State.resolveNode, fut, if_true]
  rw [nodeRec_of_nodes (nodeEnded_nodes _ _ _ _)]
  exact nodeRec_putNode num at_
end

/-! ### The task completes -/

/-- A node that counts one task more as complete, and keeps a0 of the task with number 0. -/
def counted (n : NodeRec) (inst : Nat) (a0 : Word) : NodeRec := { n with left := n.left - 1, a0 := if inst = 0 then a0 else n.a0 }

/-- What is left in the tile's queues is discarded. -/
def emptied (s : State) : State := s.setTile { s.tile with q := {} }

/-- The state in which the task on the tile in focus has left it, before its node counts it. -/
def departed (s : State) : State := (emptied (settleAll s)).leave (settleAll s).tile.ptile

section
variable {s : State}

theorem resident_of_taskDone (h : s.taskDone = true) : s.tile.resident = true := by
  simp only [State.taskDone, Bool.and_eq_true] at h
  tauto

theorem sameTask_emptied (s : State) : SameTask s (emptied s) := ⟨⟨rfl, rfl, rfl⟩, rfl, rfl, rfl⟩

theorem sameTask_emptied_settleAll (s : State) : SameTask s (emptied (settleAll s)) := (sameTask_settleAll s).trans (sameTask_emptied _)

theorem departed_mem (s : State) : (departed s).mem = s.mem := by simp [departed, emptied, settleAll]

theorem departed_leaves (h : s.tile.resident = true) : Leaves (emptied (settleAll s)) (departed s) := by
  rw [departed, ← (sameTask_emptied (settleAll s)).tile.ptile]
  exact leaves ((sameTask_emptied_settleAll s).tile.resident.trans h)

theorem departed_nodeRec (h : s.tile.resident = true) (c addr : Nat) : (departed s).nodeRec c addr = s.nodeRec c addr :=
  nodeRec_of_nodes ((departed_leaves h).nodes.trans (sameTask_emptied_settleAll s).nodes) c addr

theorem completeTask_eq (h : s.tile.resident = true) {n : NodeRec} (hn : s.nodeRec s.tile.task.cnum s.tile.task.node = n) :
    s.completeTask = if n.st ≠ 2 ∨ n.run ≠ s.tile.task.run then departed s
    else if n.left = 1 then
      ((departed s).putNode (counted n s.tile.task.inst (s.tile.cc.rg 4))).nodeComplete s.tile.task.cnum s.tile.task.node
    else (departed s).putNode (counted n s.tile.task.inst (s.tile.cc.rg 4)) := by
  rw [← hn, ← departed_nodeRec h]
  rfl

theorem completeTask_tile (h : s.tile.resident = true) : s.completeTask.tile = vacated (emptied (settleAll s)).tile := by
  rw [completeTask_eq h rfl]
  split
  · exact (departed_leaves h).tile
  · split
    · rw [nodeComplete_tile, putNode_tile, (departed_leaves h).tile]
    · rw [putNode_tile, (departed_leaves h).tile]

theorem does_taskCompletion (arg : s.arg = .tile s.tile.ptile) (done : s.taskDone = true) (runs : s.tile.stop = none) :
    Does .taskCompletion s { s.completeTask with sel := s.sel } := by
  have resident := resident_of_taskDone done
  have ptile : s.completeTask.tile.ptile = s.tile.ptile :=
    (congrArg Tile.ptile (completeTask_tile resident)).trans (sameTask_emptied_settleAll s).tile.ptile
  have go : (if s.taskDone = true ∧ s.tile.stop = none then s.completeTask else s) = s.completeTask := if_pos ⟨done, runs⟩
  show execTaskCompletion s = _
  rw [execTaskCompletion, arg]
  dsimp only
  rw [onFocus_focus (by rw [go, ptile]), go]

theorem does_taskCompletion_of_not_done (arg : s.arg = .tile s.tile.ptile) (left : s.taskDone = false) : Does .taskCompletion s s := by
  have stay : (if s.taskDone = true ∧ s.tile.stop = none then s.completeTask else s) = s := if_neg (by simp [left])
  show execTaskCompletion s = _
  rw [execTaskCompletion, arg]
  dsimp only
  rw [onFocus_focus (by rw [stay]), stay]

/-- What the leave of a task that completes sets off, whatever is done to the node. -/
theorem departed_soon (h : s.tile.resident = true) :
    Soon (departed s) s.now .distributorPlace .none ∧ Soon (departed s) s.now .dieReport (.num (pdie s.tile.ptile.toNat)) := by
  have same := sameTask_emptied_settleAll s
  have left := departed_leaves h
  rw [← same.now, ← same.tile.ptile]
  exact ⟨left.place, left.report⟩
end

/-- R38. -/
theorem tasksComplete : Claim.TasksComplete := by
  intro s arg
  refine ⟨fun left => does_taskCompletion_of_not_done arg left, fun done runs others => ?_, fun done runs st run last => ?_⟩
  · have resident := resident_of_taskDone done
    have vacant : s.completeTask.tile.resident = false := congrArg Tile.resident (completeTask_tile resident)
    have does := does_taskCompletion arg done runs
    obtain ⟨place, report⟩ := departed_soon resident
    have mem := departed_mem s
    obtain ⟨num, at_⟩ := nodeRec_key s s.tile.task.cnum s.tile.task.node
    generalize hn : s.nodeRec s.tile.task.cnum s.tile.task.node = n at others num at_ ⊢
    have eq := completeTask_eq resident hn
    generalize s.completeTask = t at vacant does eq
    generalize departed s = u at place report mem eq
    refine ⟨_, does, vacant, ?_⟩
    by_cases h : n.st ≠ 2 ∨ n.run ≠ s.tile.task.run
    · rw [if_pos h] at eq
      subst eq
      exact ⟨mem, place, report, fun st run => (h.elim (· st) (· run)).elim⟩
    · rw [if_neg h, if_neg fun last => others ⟨by simp_all, by simp_all, last⟩] at eq
      subst eq
      have counts := nodeRec_putNode (s := u) (n := counted n s.tile.task.inst (s.tile.cc.rg 4)) num at_
      exact ⟨mem, place, report, fun st _ => ⟨congrArg NodeRec.left counts, (congrArg NodeRec.st counts).trans st⟩⟩
  · have resident := resident_of_taskDone done
    have vacant : s.completeTask.tile.resident = false := congrArg Tile.resident (completeTask_tile resident)
    refine ⟨_, does_taskCompletion arg done runs, vacant, fun fut succs => ?_⟩
    obtain ⟨num, at_⟩ := nodeRec_key s s.tile.task.cnum s.tile.task.node
    generalize hn : s.nodeRec s.tile.task.cnum s.tile.task.node = n at st run last fut succs num at_
    have eq := completeTask_eq resident hn
    rw [if_neg (by simp [st, run]), if_pos last] at eq
    have counts := nodeRec_putNode (s := departed s) (n := counted n s.tile.task.inst (s.tile.cc.rg 4)) num at_
    have complete := nodeComplete_nodeRec ((departed s).putNode (counted n s.tile.task.inst (s.tile.cc.rg 4)))
      (by rw [counts]; exact fut) (by rw [counts]; exact succs)
    rw [← eq] at complete
    generalize s.completeTask = t at complete ⊢
    exact ⟨congrArg NodeRec.st complete, congrArg NodeRec.ended complete⟩

end Sys2Proof.Laws
end

section
/-! The start of a node's task on a tile (R36). -/

namespace Sys2Proof.Laws

open Machine

/-! ### A tile made ready for a context (R23, R85, R445) -/

/-- The struck translations are the same, and the contexts but for their monitors and balances. -/
structure SameBooks (s t : State) : Prop where
  badPages : t.badPages = s.badPages
  ctxs : t.ctxs.map unmetered = s.ctxs.map unmetered

theorem SameWorld.sameBooks {s t : State} (h : SameWorld s t) : SameBooks s t := ⟨h.badPages, h.ctxs⟩

namespace SameBooks

theorem refl (s : State) : SameBooks s s := ⟨rfl, rfl⟩

theorem trans {s t u : State} (a : SameBooks s t) (b : SameBooks t u) : SameBooks s u :=
  ⟨b.badPages.trans a.badPages, b.ctxs.trans a.ctxs⟩

theorem ite {s t u : State} {c : Prop} [Decidable c] (a : SameBooks s t) (b : SameBooks s u) : SameBooks s (if c then t else u) := by
  split <;> assumption
end SameBooks

section
variable (s : State) (pt : BitVec 8)

theorem sameWorld_readBack (k n : Nat) : SameWorld s (s.readBack k n) :=
  .foldl (fun t (u : Nat) => .trans (t := { t with retired := u :: t.retired }) ⟨rfl, rfl, rfl, rfl, rfl, rfl, rfl, rfl⟩ (sameWorld_notify _ _ _)) _ _

theorem sameBooks_mapTile (f : Tile → Tile) : SameBooks s (s.mapTile pt f) := ⟨rfl, rfl⟩

/-- The scratch and the ring of a tile zero, and no barrier slots in its scratch. -/
def wiped : State := ((s.dropBars pt).zeroBytes (tileKey pt.toNat) (2 ^ 21)).zeroBytes (ringKey pt.toNat 0) (2 ^ 17)

/-- An empty tile of a context. -/
def emptyTile (o : Option Nat) : Tile := { Tile.empty pt with owner := o }

theorem scrubTile_eq (o) : s.scrubTile pt o = ((wiped s pt).mapTile pt fun _ => emptyTile pt o).readBack (tileKey pt.toNat) (2 ^ 21) := rfl

theorem sameBooks_scrubTile (o) : SameBooks s (s.scrubTile pt o) := by
  have wipes : SameBooks s (wiped s pt) := ⟨rfl, rfl⟩
  rw [scrubTile_eq]
  exact (wipes.trans (sameBooks_mapTile _ pt _)).trans (sameWorld_readBack _ _ _).sameBooks

/-- A state in which a tile has state. -/
def withTile : State := if (s.findTile pt).isSome then s else { s with rest := s.rest ++ [Tile.empty pt] }

theorem ensureTile_eq (c) : s.ensureTile pt c =
    if (((withTile s pt).findTile pt).bind (·.owner)) = some c then withTile s pt else (withTile s pt).scrubTile pt (some c) := rfl

theorem sameBooks_ensureTile (c) : SameBooks s (s.ensureTile pt c) := by
  have grown : SameBooks s (withTile s pt) := .ite (.refl s) ⟨rfl, rfl⟩
  rw [ensureTile_eq]
  exact grown.trans (.ite (.refl _) (sameBooks_scrubTile _ _ _))

theorem withTile_findTile : ((withTile s pt).findTile pt).isSome = true := by
  unfold withTile
  split
  · assumption
  · simp [State.findTile, State.tiles, Tile.empty]

theorem scrubTile_findTile (o) : ((s.scrubTile pt o).findTile pt).isSome = (s.findTile pt).isSome := by
  have same := sameWorld_readBack ((wiped s pt).mapTile pt fun _ => emptyTile pt o) (tileKey pt.toNat) (2 ^ 21)
  have mapped := findTile_mapTile (s := wiped s pt) (f := fun _ => emptyTile pt o) (pt := pt) fun _ _ => rfl
  rw [scrubTile_eq, findTile_of_eq same.tile same.rest, mapped, Option.isSome_map]
  rfl

/-- The tile exists. -/
theorem ensureTile_findTile (c) : ((s.ensureTile pt c).findTile pt).isSome = true := by
  rw [ensureTile_eq]
  split
  · exact withTile_findTile s pt
  · rw [scrubTile_findTile, withTile_findTile]
end

/-! ### The state at entry -/

section
variable (x : NodeImg) (inst now lo : Nat)

theorem entryCore_rg_of_ne {r : GReg} (h : ∀ k ∈ ([4, 5, 6] : List GReg), r ≠ k) : (entryCore x inst now lo).rg r = 0 := by
  rw [entryCore, rg_wg_ne _ _ _ _ (h 6 (by decide)), rg_wg_ne _ _ _ _ (h 5 (by decide)), rg_wg_ne _ _ _ _ (h 4 (by decide))]
  simp [CoreSt.rg, CoreSt.empty]

theorem entryCore_args : (entryCore x inst now lo).rg 4 = wrap32 inst ∧ (entryCore x inst now lo).rg 5 = wrap32 (nodeCount x) ∧
    (entryCore x inst now lo).rg 6 = wrap32 (nodeId x) := by
  have nat (n : Nat) : wrap32 n = BitVec.ofNat 32 n := BitVec.ofInt_natCast 32 n
  refine ⟨?_, ?_, ?_⟩
  · rw [entryCore, rg_wg_ne _ _ _ _ (by decide), rg_wg_ne _ _ _ _ (by decide), rg_wg _ _ _ (by decide), nat]
  · rw [entryCore, rg_wg_ne _ _ _ _ (by decide), rg_wg _ _ _ (by decide), nat]
  · rw [entryCore, rg_wg _ _ _ (by decide), nat]

theorem entryCore_pc : (entryCore x inst now lo).pc = wrap32 (0x10000 + 4 * nodeField x lo 16) := by
  rw [entryCore, wg_pc, wg_pc, wg_pc]
  exact (BitVec.ofInt_natCast 32 (0x10000 + 4 * nodeField x lo 16)).symm

theorem wg_fin (c : CoreSt) (r : GReg) (v : Word) : (c.wg r v).fin = c.fin := by unfold CoreSt.wg; split <;> rfl
theorem wg_stklim (c : CoreSt) (r : GReg) (v : Word) : (c.wg r v).stklim = c.stklim := by unfold CoreSt.wg; split <;> rfl
theorem wg_precise (c : CoreSt) (r : GReg) (v : Word) : (c.wg r v).precise = c.precise := by unfold CoreSt.wg; split <;> rfl
theorem wg_checkstall (c : CoreSt) (r : GReg) (v : Word) : (c.wg r v).checkstall = c.checkstall := by unfold CoreSt.wg; split <;> rfl

theorem entryCore_rest : (entryCore x inst now lo).fin = false ∧ (entryCore x inst now lo).loops = [] ∧ (entryCore x inst now lo).stklim = 0 ∧
    (entryCore x inst now lo).precise = nodeFlag x 0 ∧ (entryCore x inst now lo).checkstall = nodeFlag x 1 := by
  simp [entryCore, wg_fin, wg_loops, wg_stklim, wg_precise, wg_checkstall, CoreSt.empty]

theorem entryCore_h : (entryCore x inst now lo).h[0] = entryHandle (nodeField x 128 56) ∧
    ∀ k : Fin 16, k ≠ 0 → (entryCore x inst now lo).h[k] = 0 := by
  simp only [entryCore, wg_h]
  refine ⟨Vector.getElem_set_self _, fun k h => ?_⟩
  have ne : 0 ≠ k.val := fun e => h (Fin.ext e.symm)
  simp [Vector.getElem_set_ne _ _ ne]
end

/-! ### The tile of a task at its start -/

/-- The tile of a task that has just started. -/
def startedTile (s : State) (n : NodeRec) (inst l : Nat) (pt : BitVec 8) : Tile :=
  let req := nodeField n.img 336 8
  { Tile.empty pt with owner := some n.cnum, resident := true, task := s.newTask n inst l
                       lc := entryCore n.img inst s.now 32, cc := entryCore n.img inst s.now 48
                       sc := entryCore n.img inst s.now 64, vallot := if req = 0 then 8 else BitVec.ofNat 6 req }

theorem startTask_findTile (s : State) (n : NodeRec) (inst l : Nat) (pt : BitVec 8) :
    (s.startTask n inst l pt).findTile pt = some (startedTile (s.ensureTile pt n.cnum) n inst l pt) := by
  obtain ⟨t, found⟩ := Option.isSome_iff_exists.mp (ensureTile_findTile s pt n.cnum)
  have started := findTile_mapTile (s := s.ensureTile pt n.cnum) (pt := pt) (f := fun _ => startedTile (s.ensureTile pt n.cnum) n inst l pt)
    fun _ _ => rfl
  rw [found] at started
  exact (findTile_of_eq rfl rfl).trans started

/-- R36. -/
theorem startState : Claim.StartState := by
  intro n inst l pt s x
  refine ⟨_, startTask_findTile s n inst l pt, rfl, rfl, rfl, rfl, rfl, rfl, rfl, rfl, rfl, ?_, rfl, rfl, rfl, rfl, rfl, rfl, fun k => ?_, ?_⟩
  · show (if nodeField x 336 8 = 0 then (8 : BitVec 6) else BitVec.ofNat 6 (nodeField x 336 8)).toNat = _
    split
    · rfl
    · exact BitVec.toNat_ofNat _ 6
  · simp [startedTile, Tile.empty]
  · intro c lo mem y
    have eq : y = entryCore x inst (s.ensureTile pt n.cnum).now lo := by
      simp only [List.mem_cons, Prod.mk.injEq, List.mem_nil_iff, or_false] at mem
      rcases mem with ⟨rfl, rfl⟩ | ⟨rfl, rfl⟩ | ⟨rfl, rfl⟩ <;> rfl
    rw [eq]
    generalize (s.ensureTile pt n.cnum).now = now
    obtain ⟨fin, loops, stklim, precise, stall⟩ := entryCore_rest x inst now lo
    obtain ⟨a, b, c⟩ := entryCore_args x inst now lo
    obtain ⟨h0, hk⟩ := entryCore_h x inst now lo
    exact ⟨entryCore_pc x inst now lo, fin, loops, stklim, a, b, c, fun r h => entryCore_rg_of_ne x inst now lo h, precise, stall, h0, hk⟩

end Sys2Proof.Laws
end

section
/-! Reports and the placing of a node's tasks (R310, R311, R315). -/

namespace Sys2Proof.Laws

open Machine

/-! ### Contexts that may run -/

section
variable {s t : State}

theorem ctx?_of_ctxs (h : t.ctxs = s.ctxs) (c : Nat) : t.ctx? c = s.ctx? c := by
  rw [State.ctx?, h]
  rfl

theorem chain_of_ctxs (h : t.ctxs = s.ctxs) (n c : Nat) : t.chain n c = s.chain n c := by
  induction n generalizing c with
  | zero => rfl
  | succ n ih => simp only [State.chain, ctx?_of_ctxs h, ih]

theorem runnable_of_ctxs (h : t.ctxs = s.ctxs) (c : Nat) : t.runnable c = s.runnable c := by
  rw [State.runnable, State.lineage, chain_of_ctxs h]
  rfl
end

/-! ### Reports -/

theorem reportAll_eq (s : State) : ∃ r, s.reportAll = { s with reports := r } := by
  refine List.foldlRecOn (motive := fun t : State => ∃ r, t = { s with reports := r }) _ _ ⟨s.reports, rfl⟩ ?_
  rintro _ ⟨r, rfl⟩ d -
  exact ⟨_, rfl⟩

section
variable (s : State)

theorem reportAll_nodes : s.reportAll.nodes = s.nodes := by
  obtain ⟨r, eq⟩ := reportAll_eq s
  rw [eq]

theorem reportAll_ctxs : s.reportAll.ctxs = s.ctxs := by
  obtain ⟨r, eq⟩ := reportAll_eq s
  rw [eq]

theorem report_mem_reports {d : Nat} {x : Ctx} {r : Nat × Nat × Nat × Nat} (mem : x ∈ s.ctxs) (rep : s.reportOf x d = some r) :
    r ∈ (s.report d).reports :=
  List.mem_append_left _ (List.mem_filterMap.mpr ⟨x, mem, rep⟩)
end

/-! ### The distributor -/

section
variable {s : State}

theorem does_distributorPlace (settled : s.settling = false) : Does .distributorPlace s
    ((orderBy waitsBefore s.waitingWork).foldl (fun t w => match w with
      | .image c k _ => (t.restoreGroup c k).reportAll
      | .node c a _ _ _ => t.placeNode c a) s.reportAll) := by
  show execDistributorPlace s = _
  rw [execDistributorPlace, settled]
  rfl

theorem startTask_nodeRec (s : State) (n : NodeRec) (i l : Nat) (p : BitVec 8) :
    (s.startTask n i l p).nodeRec n.cnum n.addr = { n with st := 2, place := n.place.erase i } := nodeRec_putNode rfl rfl

/-- A node with one task left to place, and a tile for it, has it started there. -/
theorem placeNode_one {c a i l : Nat} {p : BitVec 8} {n : NodeRec} (node : s.nodeRec c a = n) (single : nodeGang n.img = false)
    (alive : n.dead = false) (ready : n.st = 1) (place : n.place = [i]) (run : s.runnable c = true) (free : s.tileFor n i [] = some (l, p)) :
    s.placeNode c a = (s.startTask n i l p).reportAll := by
  obtain ⟨hc, ha⟩ : n.cnum = c ∧ n.addr = a := node ▸ nodeRec_key s c a
  have each : State.placeEach n [i] s = (s.startTask n i l p).reportAll := by simp [State.placeEach, free, hc, ha, node]
  have after : ((s.startTask n i l p).reportAll.nodeRec c a).place = [] := by
    rw [nodeRec_of_nodes (reportAll_nodes _), ← hc, ← ha, startTask_nodeRec, place]
    simp
  simp [State.placeNode, node, single, alive, ready, place, run, each, after]
end

/-- R310, R311, R315. -/
theorem placing : Claim.Placing := by
  intro d c a l i pr ra id p s
  refine ⟨fun arg => ⟨s.report d, ?_, rfl, rfl, rfl, fun x mem r rep => report_mem_reports s mem rep⟩, fun settling => ?_, fun settled none_ => ?_,
    fun settled one => ?_⟩
  · show execDieReport s = _
    rw [execDieReport, arg]
  · show execDistributorPlace s = _
    rw [execDistributorPlace, if_pos settling]
  · have placed := does_distributorPlace settled
    rwa [none_] at placed
  · intro n single alive ready place run free
    have placed := does_distributorPlace settled
    rw [one] at placed
    rw [← placeNode_one (nodeRec_of_nodes (reportAll_nodes s) c a) single alive ready place
      ((runnable_of_ctxs (reportAll_ctxs s) c).trans run) free]
    exact placed

end Sys2Proof.Laws
end

section
/-! What an access to a context's save area depends on (R354, R356), and events held for saved state (R323). -/

namespace Sys2Proof.Laws

open Machine

/-! ### Translation -/

/-- What translation reads of a context. -/
def winsOf (x : Ctx) : Nat × Nat × List Window := (x.cnum, x.parent, x.wins)

/-- Translations are the same. -/
structure SameMap (s t : State) : Prop where
  wins : t.ctxs.map winsOf = s.ctxs.map winsOf
  badPages : t.badPages = s.badPages

namespace SameMap

theorem trans {s t u : State} (a : SameMap s t) (b : SameMap t u) : SameMap s u := ⟨b.wins.trans a.wins, b.badPages.trans a.badPages⟩
end SameMap

theorem sameMap_of_unmetered {s t : State} (ctxs : t.ctxs.map unmetered = s.ctxs.map unmetered) (badPages : t.badPages = s.badPages) :
    SameMap s t := by
  have wins (u : State) : u.ctxs.map winsOf = (u.ctxs.map unmetered).map winsOf := by rw [List.map_map]; rfl
  exact ⟨by rw [wins t, ctxs, ← wins s], badPages⟩

theorem sameMap_mapCtx (s : State) (c : Nat) {f : Ctx → Ctx} (h : ∀ x, winsOf (f x) = winsOf x) : SameMap s (s.mapCtx c f) := by
  refine ⟨?_, rfl⟩
  rw [mapCtx_ctxs, List.map_map]
  refine List.map_congr_left fun x _ => ?_
  rw [Function.comp_apply, apply_ite winsOf, h, ite_self]

section
variable {s t : State} (h : SameMap s t)
include h

theorem mapped_of_sameMap (n c va : Nat) : t.mapped n c va = s.mapped n c va := by
  have look (u : State) (c : Nat) : (u.ctxs.map winsOf).find? (fun x => x.1 == c) = (u.ctx? c).map winsOf := List.find?_map
  induction n generalizing c va with
  | zero => rfl
  | succ n ih =>
    have same : (t.ctx? c).map winsOf = (s.ctx? c).map winsOf := by rw [← look, ← look, h.wins]
    unfold State.mapped
    cases hs : s.ctx? c with
    | none => rw [hs] at same; rw [Option.map_eq_none_iff.mp same]
    | some x =>
      rw [hs] at same
      obtain ⟨y, hy, eq⟩ := Option.map_eq_some_iff.mp same
      obtain ⟨num, parent, wins⟩ : y.cnum = x.cnum ∧ y.parent = x.parent ∧ y.wins = x.wins := by simpa [winsOf] using eq
      simp only [hy, num, parent, wins, ih]

theorem xlate_of_sameMap (c va acc : Nat) : t.xlate c va acc = s.xlate c va acc := by
  rw [State.xlate, State.xlate, mapped_of_sameMap h, h.badPages]

theorem pieces_of_sameMap (c acc k va n : Nat) : t.pieces c acc k va n = s.pieces c acc k va n := by
  induction k generalizing va n with
  | zero => rfl
  | succ k ih => simp only [State.pieces, xlate_of_sameMap h, ih]

theorem spans_of_sameMap (c acc va n : Nat) : t.spans c acc va n = s.spans c acc va n := pieces_of_sameMap h c acc _ va n

/-- A write of as many bytes at the same place goes through. -/
theorem gwrite_of_sameMap {c va : Nat} {bs cs : List Byte} {u : State} (len : cs.length = bs.length) (ok : s.gwrite c va bs = .ok u) :
    ∃ v, t.gwrite c va cs = .ok v := by
  unfold State.gwrite at ok ⊢
  rw [spans_of_sameMap h, len]
  split at ok
  · exact nomatch ok
  · exact ⟨_, rfl⟩
end

/-! ### What is written -/

/-- Memory, its live barrier slots and the count of free values are the same. -/
structure SameCells (s t : State) : Prop where
  mem : t.mem = s.mem
  bars : t.bars = s.bars
  freeN : t.freeN = s.freeN

section
variable {s t : State}

theorem sameCells_writeBytes (h : SameCells s t) (k bs) : SameCells (s.writeBytes k bs) (t.writeBytes k bs) :=
  ⟨by rw [writeBytes_mem, writeBytes_mem, h.mem], h.bars, h.freeN⟩

theorem sameCells_smash (h : SameCells s t) (k n : Nat) (l : List Nat) : SameCells (s.smash k n l) (t.smash k n l) := by
  induction l generalizing s t with
  | nil => exact h
  | cons b bs ih =>
    have drawn : SameCells (s.freeVal 128).2 (t.freeVal 128).2 := ⟨h.mem, h.bars, congrArg (· + 1) h.freeN⟩
    have value : (t.freeVal 128).1 = (s.freeVal 128).1 := by rw [State.freeVal, State.freeVal, h.freeN]
    unfold State.smash
    rw [value]
    split
    · exact ih (sameCells_writeBytes drawn _ _)
    · exact ih h

theorem sameCells_store (h : SameCells s t) (k bs) : SameCells (s.store k bs) (t.store k bs) := by
  rw [State.store, State.store, h.bars]
  exact sameCells_smash (sameCells_writeBytes h k bs) _ _ _

theorem sameCells_lay (h : SameCells s t) (l : List (Nat × Nat)) (bs : List Byte) : SameCells (s.lay l bs) (t.lay l bs) := by
  induction l generalizing s t bs with
  | nil => exact h
  | cons p ps ih =>
    have yielded : SameCells (s.yields p.1 p.2) (t.yields p.1 p.2) := ⟨h.mem, h.bars, h.freeN⟩
    exact ih (sameCells_store yielded p.1 (bs.take p.2)) _

/-- The same write leaves the same memory. -/
theorem gwrite_mem_of_same {c va : Nat} {bs : List Byte} {u v : State} (map : SameMap s t) (cells : SameCells s t)
    (hs : s.gwrite c va bs = .ok u) (ht : t.gwrite c va bs = .ok v) : v.mem = u.mem := by
  unfold State.gwrite at hs ht
  rw [spans_of_sameMap map] at ht
  cases pieces : s.spans c 2 va bs.length with
  | error e => rw [pieces] at hs; exact nomatch hs
  | ok l =>
    rw [pieces] at hs ht
    cases hs
    cases ht
    have counted : SameCells (s.monitor c va bs.length true) (t.monitor c va bs.length true) := ⟨cells.mem, cells.bars, cells.freeN⟩
    exact (sameCells_lay counted l bs).mem
end

/-! ### Held events -/

/-- A context with one more event held. -/
def withHeld (k : Nat) (e : HeldEv) (y : Ctx) : Ctx := { y with held := y.held ++ [(k, e)] }

section
variable {s : State} {c k : Nat} {e : HeldEv} {x : Ctx} (arg : s.arg = .held c k e) (found : s.ctx? c = some x) (kept : x.lost = false)
  (saved : (x.saved.any fun i => i.slot == k) = true)
include arg found kept saved

theorem does_heldEvent_full (full : 57344 < (s.heldAll x).length + (s.heldBytes k e).length) :
    Does .heldEvent s (s.lostCtx c (x.save + 8192)) := by
  show execHeldEvent s = _
  rw [execHeldEvent, arg]
  simp only [found, kept, saved, full]
  rfl

theorem does_heldEvent {z : State} (fits : (s.heldAll x).length + (s.heldBytes k e).length ≤ 57344)
    (written : s.gwrite x.parent (x.save + 8192) (fit (min ((s.heldAll x ++ s.heldBytes k e).length + 16) 57344)
      (s.heldAll x ++ s.heldBytes k e)) = .ok z) :
    ∃ t y, Does .heldEvent s t ∧ t.ctx? c = some y ∧ y.held = x.held ++ [(k, e)] ∧ t.mem = z.mem := by
  have map : SameMap s (s.mapCtx c (withHeld k e)) := sameMap_mapCtx s c fun _ => rfl
  have queued : (s.mapCtx c (withHeld k e)).ctx? c = some (withHeld k e x) := mapCtx_ctx?_self (fun _ => rfl) found
  have all : (s.mapCtx c (withHeld k e)).heldAll (withHeld k e x) = s.heldAll x ++ s.heldBytes k e := by
    show (x.held ++ [(k, e)]).flatMap (fun e => s.heldBytes e.1 e.2) = _
    rw [List.flatMap_append, List.flatMap_singleton]
    rfl
  obtain ⟨t, ht⟩ := gwrite_of_sameMap map rfl written
  have write : (s.mapCtx c (withHeld k e)).writeHeld c = t := by
    rw [State.writeHeld, queued]
    show (match State.gwrite _ x.parent (x.save + 8192) _ with
      | .error (_, a) => _
      | .ok t => t) = t
    rw [all, ht]
  obtain ⟨y, now, same⟩ := ctx?_of_unmetered (sameWorld_gwrite ht).ctxs queued
  refine ⟨t, y, ?_, now, congrArg Ctx.held same, gwrite_mem_of_same map ⟨rfl, rfl, rfl⟩ written ht⟩
  show execHeldEvent s = _
  rw [execHeldEvent, arg, ← write]
  simp only [found, kept, saved, Nat.not_lt.mpr fits]
  rfl
end

end Sys2Proof.Laws
end

section
/-! A committed image restored on its tile (R322, R414). -/

namespace Sys2Proof.Laws

open Machine

/-! ### A change made with another tile in focus -/

section
variable {s t : State} {pt : BitVec 8} {f : State → State}

theorem swap_ctxs (e : s.swap pt = some t) : t.ctxs = s.ctxs := by
  unfold State.swap at e
  split at e
  · cases e; rfl
  · split at e
    · exact nomatch e
    · cases e; rfl

theorem onFocus_ctxs (keep : ∀ u, SameWorld u (f u)) (s : State) (pt : BitVec 8) :
    (s.onFocus pt f).ctxs.map unmetered = s.ctxs.map unmetered := by
  unfold State.onFocus State.onCore
  split
  · rfl
  · next t there =>
    cases back : (f { t with sel := s.sel }).swap s.tile.ptile with
    | none => rfl
    | some u =>
      show u.ctxs.map unmetered = _
      rw [swap_ctxs back, (keep _).ctxs, swap_ctxs there]

/-- Only one element of a list satisfies a condition, and it is found. -/
theorem find?_eq_some_of_unique {α : Type} {p : α → Bool} {l : List α} {z : α} (mem : z ∈ l) (hz : p z = true)
    (only : ∀ e ∈ l, p e = true → e = z) : l.find? p = some z := by
  cases h : l.find? p with
  | none => exact absurd hz (List.find?_eq_none.mp h z mem)
  | some e => rw [only e (List.mem_of_find?_eq_some h) (List.find?_some h)]

theorem findTile_other (other : s.tile.ptile ≠ pt) : s.findTile pt = s.rest.find? fun t => t.ptile == pt := by
  simp [State.findTile, State.tiles, other]

theorem swap_other (other : s.tile.ptile ≠ pt) {z : Tile} (found : s.findTile pt = some z) :
    s.swap pt = some { s with tile := z, rest := s.rest.map fun u => if u.ptile = pt then s.tile else u } := by
  rw [findTile_other other] at found
  rw [State.swap, if_neg other, found]

/-- Tiles that change places and change back: the one that was not in focus is found as it was. -/
theorem findTile_swap_swap {z : Tile} {u : State} (other : s.tile.ptile ≠ pt) (found : s.findTile pt = some z)
    (tile : t.tile = z) (rest : t.rest = s.rest.map fun u => if u.ptile = pt then s.tile else u) (back : t.swap s.tile.ptile = some u) :
    u.findTile pt = some z := by
  have num : z.ptile = pt := findTile_ptile found
  have away : t.tile.ptile ≠ s.tile.ptile := by rw [tile, num]; exact other.symm
  rw [findTile_other other] at found
  rw [State.swap, if_neg away] at back
  split at back
  · exact nomatch back
  · next w hw =>
    cases back
    have wnum : w.ptile = s.tile.ptile := eq_of_beq (List.find?_some (p := fun t : Tile => t.ptile == s.tile.ptile) hw)
    have off : w.ptile ≠ pt := wnum ▸ other
    rw [findTile_other off]
    dsimp only
    rw [rest, tile, List.map_map]
    refine find?_eq_some_of_unique (List.mem_map.mpr ⟨z, List.mem_of_find?_eq_some found, ?_⟩) (by simp [num]) fun e he hp => ?_
    · simp [num]
    · obtain ⟨v, -, rfl⟩ := List.mem_map.mp he
      by_cases h : v.ptile = pt
      · simp [h]
      · by_cases h' : v.ptile = s.tile.ptile
        · simp [h', other]
        · simp [h, h'] at hp

theorem onFocus_findTile (keep : ∀ u, SameWorld u (f u)) {z : Tile} (found : s.findTile pt = some z) :
    (s.onFocus pt f).findTile pt = some z := by
  by_cases focus : s.tile.ptile = pt
  · subst focus
    rw [onFocus_focus (congrArg Tile.ptile (keep s).tile), ← found]
    exact findTile_of_eq (keep s).tile (keep s).rest
  · rw [State.onFocus, State.onCore, swap_other focus found]
    dsimp only
    generalize hv : f _ = v
    have same : SameWorld _ v := hv ▸ keep _
    cases back : v.swap s.tile.ptile with
    | none => exact found
    | some u =>
      have found' : u.findTile pt = some z := findTile_swap_swap focus found same.tile same.rest back
      exact found'
end

/-! ### The image on its tile -/

theorem sameWorld_opEnds (s : State) (o : Op) : SameWorld s (s.opEnds o) :=
  .trans (.ite (sameWorld_after s _ _ _) (.refl s)) (sameWorld_after _ _ _ _)

theorem sameWorld_restart (s : State) (o : Op) : SameWorld s (s.restart o) := .ite (sameWorld_opEnds s o) (sameWorld_after s _ _ _)

theorem sameWorld_restartEngines (s : State) : SameWorld s s.restartEngines :=
  .trans (.trans (.foldl sameWorld_restart _ _) (.ite (.refl _) (sameWorld_after _ _ _ _))) (.foldl (fun t _ => sameWorld_after t _ _ _) _ _)

theorem sameWorld_putRing (s : State) (pt : Nat) (l : List Nat) (bs : List Byte) : SameWorld s (s.putRing pt l bs) := by
  induction l generalizing s bs with
  | nil => exact .refl s
  | cons k ks ih => exact (sameWorld_writeBytes s _ _).trans (ih _ _)

/-- A context one of whose images is restored. -/
def without (k : Nat) (y : Ctx) : Ctx := { y with saved := y.saved.filter (fun j => j.slot ≠ k), held := y.held.filter fun e => e.1 ≠ k }

/-- The tile of an image where it is restored, before what refers to it is moved. -/
def unpacked (s : State) (i : Image) (pt : BitVec 8) (l : Nat) : State := (s.mapTile pt fun _ => i.onTile pt l s.now).dropBars pt

/-- The barrier slots of an image, and what refers to the saved task, moved to its tile. -/
def rejoined (s : State) (i : Image) (pt : BitVec 8) : State :=
  ({ s with bars := i.bars.map (tileKey pt.toNat + ·) ++ s.bars
            errs := (i.errs.map fun e => (tileKey pt.toNat + e.1, e.2)) ++ s.errs } : State).rebase i.tile.task.id i.tile.ptile pt

/-- The image of context c's task on a tile, with the image's bytes. -/
def reloaded (s : State) (c : Nat) (i : Image) (pt : BitVec 8) (l : Nat) (b : List Byte) : State :=
  (rejoined (((unpacked (s.ensureTile pt c) i pt l).writeBytes (tileKey pt.toNat) (b.drop 163840)).putRing pt.toNat i.tile.ringSlots
    (b.drop 32768)) i pt).mapCtx c (without i.slot)

section
variable (s : State) (c : Nat) (i : Image) (pt : BitVec 8) (l : Nat) (b : List Byte)

theorem sameWorld_rejoined : SameWorld s (rejoined s i pt) := ⟨rfl, rfl, rfl, rfl, rfl, rfl, rfl, rfl⟩

theorem reloaded_findTile : ∃ now, (reloaded s c i pt l b).findTile pt = some (i.onTile pt l now) := by
  obtain ⟨t, found⟩ := Option.isSome_iff_exists.mp (ensureTile_findTile s pt c)
  refine ⟨(s.ensureTile pt c).now, ?_⟩
  have put : (unpacked (s.ensureTile pt c) i pt l).findTile pt = some (i.onTile pt l (s.ensureTile pt c).now) := by
    have mapped := findTile_mapTile (s := s.ensureTile pt c) (pt := pt) (f := fun _ => i.onTile pt l (s.ensureTile pt c).now) fun _ _ => rfl
    rw [found] at mapped
    exact mapped
  generalize hu : unpacked (s.ensureTile pt c) i pt l = u at put
  have same := ((sameWorld_writeBytes u (tileKey pt.toNat) (b.drop 163840)).trans
    (sameWorld_putRing _ pt.toNat i.tile.ringSlots (b.drop 32768))).trans (sameWorld_rejoined _ i pt)
  rw [reloaded, hu, findTile_of_eq (mapCtx_tile _ _ _) (mapCtx_rest _ _ _), findTile_of_eq same.tile same.rest, put]

/-- The books before the contexts hear of it, and what they hear. -/
theorem reloaded_eq : ∃ v, reloaded s c i pt l b = v.mapCtx c (without i.slot) ∧ SameBooks s v := by
  refine ⟨_, rfl, ?_⟩
  refine (sameBooks_ensureTile s pt c).trans (.trans (t := unpacked (s.ensureTile pt c) i pt l) ?_ (SameWorld.sameBooks ?_))
  · exact ⟨rfl, rfl⟩
  · exact ((sameWorld_writeBytes _ _ _).trans (sameWorld_putRing _ _ _ _)).trans (sameWorld_rejoined _ _ _)
end

/-! ### The restore -/

/-- A restore whose reads and write go through, of an image with no stop, for a context that holds no event. -/
theorem restoreOn_eq {s v w y t : State} {x : Ctx} {i : Image} {p : BitVec 8} {l : Nat} {h d b : List Byte} (running : i.tile.stop = none)
    (undisposed : i.disp = none) (unheld : x.held = []) (head : s.gread x.parent x.save 4096 = .ok (v, h))
    (dir : v.gread x.parent (x.dirAt i.slot) 16 = .ok (w, d))
    (body : w.gread x.parent (x.slotAt i.slot) (163840 + i.tile.task.limit) = .ok (y, b))
    (gen : leNat (h.take 8) = x.gen) (zero : leNat (h.drop 26) = 0)
    (entry : leNat d = dirEntry i.tile.task.node i.tile.task.inst i.slot true)
    (write : y.gwrite x.parent (x.dirAt i.slot) (leBytes 16 (dirEntry i.tile.task.node i.tile.task.inst i.slot false)) = .ok t) :
    s.restoreOn x i p l =
      (((reloaded t x.cnum i p l b).writeHeld x.cnum).onFocus p State.restartEngines).after 0 .dieReport (.num (pdie p.toNat)) := by
  have good : ¬(leNat (h.take 8) ≠ x.gen ∨ leNat (h.drop 26) ≠ 0 ∨ leNat d ≠ dirEntry i.tile.task.node i.tile.task.inst i.slot true) := by
    simp [gen, zero, entry]
  rw [State.restoreOn, head]
  simp only [bind, Except.bind, dir, body]
  rw [if_neg good, write]
  simp only [running, undisposed, unheld]
  rfl

/-- A context with no events held has a zero entry written where its hold queue begins. -/
theorem writeHeld_eq {s z : State} {c : Nat} {x : Ctx} (found : s.ctx? c = some x) (unheld : x.held = [])
    (write : s.gwrite x.parent (x.save + 8192) (List.replicate 16 0) = .ok z) : s.writeHeld c = z := by
  have none_ : s.heldAll x = [] := by rw [State.heldAll, unheld]; rfl
  rw [State.writeHeld, found]
  simp only [none_]
  rw [show fit (min (([] : List Byte).length + 16) 57344) [] = List.replicate 16 0 from rfl, write]

theorem restoreGroup_single {s : State} {c k l : Nat} {p : BitVec 8} {x : Ctx} {i : Image} (found : s.ctx? c = some x)
    (image : (x.saved.find? fun i => i.slot == k && i.valid) = some i) (single : i.tile.task.gang = false) (run : s.runnable c = true)
    (kept : x.lost = false) (free : s.restoreTile x i [] = some (l, p)) : s.restoreGroup c k = s.restoreOn x i p l := by
  have tiles : s.tilesForImages x (x.imagesWith i) [] = some [(i, l, p)] := by simp [Ctx.imagesWith, single, State.tilesForImages, free]
  simp [State.restoreGroup, found, image, run, tiles, kept]

theorem onTile_core (i : Image) (pt : BitVec 8) (l now : Nat) (n : CoreId) :
    ((i.onTile pt l now).core n).pc = (i.tile.core n).pc ∧ ((i.onTile pt l now).core n).g = (i.tile.core n).g ∧
      ((i.onTile pt l now).core n).h = (i.tile.core n).h ∧ ((i.onTile pt l now).core n).loops = (i.tile.core n).loops := by
  cases n <;> exact ⟨rfl, rfl, rfl, rfl⟩

/-- The save area and the hold queue of a context are not among what its monitors and its balance change. -/
theorem area_of_unmetered {x y : Ctx} (h : unmetered y = unmetered x) : y.parent = x.parent ∧ y.save = x.save ∧ y.held = x.held :=
  ⟨(congrArg Ctx.parent h :), (congrArg Ctx.save h :), (congrArg Ctx.held h :)⟩

/-- A restore that goes through puts the image on its tile and forgets it. -/
theorem restored {t z : State} {c l : Nat} {p : BitVec 8} {x : Ctx} {i : Image} (b : List Byte) (found : t.ctx? c = some x)
    (unheld : x.held = []) (write : t.gwrite x.parent (x.save + 8192) (List.replicate 16 0) = .ok z) :
    ∃ now y, (((reloaded t c i p l b).writeHeld c).onFocus p State.restartEngines).findTile p = some (i.onTile p l now) ∧
      (((reloaded t c i p l b).writeHeld c).onFocus p State.restartEngines).ctx? c = some y ∧ ∀ j ∈ y.saved, j.slot ≠ i.slot := by
  obtain ⟨now, tile⟩ := reloaded_findTile t c i p l b
  obtain ⟨v, eq, books⟩ := reloaded_eq t c i p l b
  obtain ⟨y, there, same⟩ := ctx?_of_unmetered books.ctxs found
  have known : (reloaded t c i p l b).ctx? c = some (without i.slot y) := eq ▸ mapCtx_ctx?_self (fun _ => rfl) there
  have map : SameMap t (reloaded t c i p l b) :=
    eq ▸ (sameMap_of_unmetered books.ctxs books.badPages).trans (sameMap_mapCtx v c fun _ => rfl)
  generalize reloaded t c i p l b = r at tile known map
  obtain ⟨parent, save, held⟩ := area_of_unmetered same
  obtain ⟨q, wrote⟩ := gwrite_of_sameMap map rfl write
  have queue : r.writeHeld c = q := by
    refine writeHeld_eq known ?_ ?_
    · show y.held.filter _ = []
      rw [held, unheld]
      rfl
    · show r.gwrite y.parent (y.save + 8192) _ = _
      rw [parent, save, wrote]
  have world : SameWorld r q := sameWorld_gwrite wrote
  rw [queue]
  obtain ⟨y', there', same'⟩ := ctx?_of_unmetered ((onFocus_ctxs sameWorld_restartEngines q p).trans world.ctxs) known
  refine ⟨now, y', onFocus_findTile sameWorld_restartEngines ((findTile_of_eq world.tile world.rest).trans tile), there', ?_⟩
  have saved : y'.saved = y.saved.filter fun j => j.slot ≠ i.slot := congrArg Ctx.saved same'
  intro j hj
  rw [saved] at hj
  simpa using (List.mem_filter.mp hj).2

/-- R322, R323. -/
theorem restoring : Claim.Restoring := by
  intro c k x i e s found num
  refine ⟨?_, fun arg kept saved => ?_⟩
  · intro arg image single running undisposed run kept unheld l p v h w d y b t z free head dir body gen zero entry write queue
    have world : SameWorld s t := ((sameWorld_gread head).trans ((sameWorld_gread dir).trans (sameWorld_gread body))).trans (sameWorld_gwrite write)
    obtain ⟨x', there, same⟩ := ctx?_of_unmetered world.ctxs found
    obtain ⟨parent, save, held⟩ := area_of_unmetered same
    obtain ⟨now, m, tile, known, gone⟩ := restored (i := i) (l := l) (p := p) b there (held.trans unheld) (z := z) (by rw [parent, save, queue])
    have does : Does .restore s ((((reloaded t c i p l b).writeHeld c).onFocus p State.restartEngines).after 0 .dieReport
        (.num (pdie p.toNat))) := by
      show execRestore s = _
      rw [execRestore, arg, ← num, ← restoreOn_eq running undisposed unheld head dir body gen zero entry write, num]
      exact congrArg Host.Outcome.next (restoreGroup_single found image single run kept free)
    generalize ((reloaded t c i p l b).writeHeld c).onFocus p State.restartEngines = r at does tile known
    exact ⟨r.after 0 _ _, i.onTile p l now, does, tile, rfl, rfl, rfl, rfl, rfl, onTile_core i p l now, m, known, gone⟩
  · have listed : (x.saved.any fun i => i.slot == k) = true := by simpa using saved
    exact ⟨fun z fits written => does_heldEvent arg found kept listed fits written, does_heldEvent_full arg found kept listed⟩

end Sys2Proof.Laws
end

section
/-! The claims on tasks together. -/

namespace Sys2Proof.Laws

open Machine

/-- Settles O42, by the claims on starting, placing, completing, saving, saving late and restoring. -/
theorem tasksAndSaves : Obligations.TasksAndSaves := ⟨startState, placing, tasksComplete, saving, lateDies, restoring⟩

end Sys2Proof.Laws
end

section
/-! Elements of packed vectors, the numbers drawn for a list of results, and the width of a rounded result (R64, R68, R69, R71). -/

namespace Sys2Proof.Laws

open Machine

/-! ### Elements (R64) -/

theorem packNat_digit (w : Nat) (l : List Nat) (e : Nat) : packNat w l / 2 ^ (e * w) % 2 ^ w = nth l e % 2 ^ w := by
  induction l generalizing e with
  | nil => simp [packNat, nth]
  | cons x xs ih =>
    cases e with
    | zero => simp [packNat, nth]
    | succ e =>
      have rest : packNat w (x :: xs) / 2 ^ w = packNat w xs := by
        rw [packNat, Nat.add_mul_div_right _ _ (Nat.two_pow_pos w), Nat.div_eq_of_lt (Nat.mod_lt _ (Nat.two_pow_pos w)), Nat.zero_add]
      rw [Nat.succ_mul, Nat.add_comm, pow_add, ← Nat.div_div_eq_div_mul, rest, ih]
      rfl

section
variable {f : Fmt} {e : Nat}

theorem elemAt_lt (f : Fmt) (x : BitVec 2048) (e : Nat) : elemAt f x e < 2 ^ f.width := Nat.mod_lt _ (Nat.two_pow_pos _)

/-- The elements of a register lie within its 2,048 bits. -/
theorem elemAt_ofNat (n : Nat) (h : e < f.elems) : elemAt f (BitVec.ofNat 2048 n) e = n / 2 ^ (e * f.width) % 2 ^ f.width := by
  have fits : e * f.width + f.width ≤ 2048 := Nat.succ_mul e _ ▸ Nat.mul_le_of_le_div _ _ _ h
  rw [elemAt, BitVec.toNat_ofNat]
  refine Nat.eq_of_testBit_eq fun j => ?_
  simp only [Nat.testBit_mod_two_pow, Nat.testBit_div_two_pow]
  by_cases hj : j < f.width
  · simp [hj, show j + e * f.width < 2048 by omega]
  · simp [hj]

theorem elemAt_pack (l : List Nat) (h : e < f.elems) : elemAt f (pack f l) e = nth l e % 2 ^ f.width :=
  (elemAt_ofNat _ h).trans (packNat_digit _ _ _)

theorem elemAt_pack_map_range (r : Nat → Nat) (h : e < f.elems) :
    elemAt f (pack f ((List.range f.elems).map r)) e = r e % 2 ^ f.width := by
  simp [elemAt_pack _ h, nth, h]

theorem unpack_eq (f : Fmt) (x : BitVec 2048) : unpack f x = (List.range f.elems).map (elemAt f x) := by
  simp only [unpack, Nat.shiftRight_eq_div_pow]
  rfl

theorem unpack_zip (f : Fmt) (x y : BitVec 2048) :
    (unpack f x).zip (unpack f y) = (List.range f.elems).map fun e => (elemAt f x e, elemAt f y e) := by
  rw [unpack_eq, unpack_eq, List.zip_map']

theorem unpack_zip_zip (f : Fmt) (x y z : BitVec 2048) : ((unpack f x).zip (unpack f y)).zip (unpack f z) =
    (List.range f.elems).map fun e => ((elemAt f x e, elemAt f y e), elemAt f z e) := by
  rw [unpack_zip, unpack_eq, List.zip_map']
end

/-! ### Draws (R68, R69) -/

theorem lfsrSteps_add (m n : Nat) (x : Word) : lfsrSteps (m + n) x = lfsrSteps n (lfsrSteps m x) := by
  induction m generalizing x with
  | zero => rw [Nat.zero_add]; rfl
  | succ m ih => rw [Nat.succ_add]; exact ih (lfsrStep x)

theorem drawIf_eq (yes : Bool) (l : Word) : drawIf yes l = (drawAt yes l 0, drawn yes l 1) := by cases yes <;> rfl

theorem drawn_zero (yes : Bool) (l : Word) : drawn yes l 0 = l := by cases yes <;> rfl

theorem drawn_drawn (yes : Bool) (l : Word) (m n : Nat) : drawn yes (drawn yes l m) n = drawn yes l (m + n) := by
  cases yes with
  | false => rfl
  | true => simp [drawn, Nat.mul_add, lfsrSteps_add]

theorem drawAt_drawn (yes : Bool) (l : Word) (m n : Nat) : drawAt yes (drawn yes l m) n = drawAt yes l (m + n) := by
  cases yes with
  | false => rfl
  | true => simp [drawAt, drawn, ← lfsrSteps_add, ← Nat.mul_add, Nat.add_assoc]

theorem roundDraw_eq (f : Fmt) (md : Rm) (l : Word) (x : FpNum) :
    roundDraw f md l x = (fpRound f md (drawAt (md = .sr) l 0) x, drawn (md = .sr) l 1) := by
  rw [roundDraw, drawIf_eq]

/-- Where each result takes one draw, or none, the result at a place of the list takes the draw of that number. -/
theorem mapDraw_eq_mapIdx {α β : Type} (yes : Bool) (g : Nat → α → β) (l : Word) (as : List α) :
    mapDraw (fun l a => (g (drawAt yes l 0) a, drawn yes l 1)) l as = (as.mapIdx fun e => g (drawAt yes l e), drawn yes l as.length) := by
  induction as generalizing l with
  | nil => simp [mapDraw, drawn_zero]
  | cons a as ih => simp only [mapDraw, ih, drawAt_drawn, drawn_drawn, List.mapIdx_cons, List.length_cons, Nat.add_comm 1]

theorem mapDraw_range {α β : Type} (yes : Bool) (g : Nat → α → β) (l : Word) (n : Nat) (as : Nat → α) :
    mapDraw (fun l a => (g (drawAt yes l 0) a, drawn yes l 1)) l ((List.range n).map as) =
      ((List.range n).map fun e => g (drawAt yes l e) (as e), drawn yes l n) := by
  rw [mapDraw_eq_mapIdx, List.length_map, List.length_range]
  exact congrArg (·, _) (List.ext_getElem (by simp) (by simp))

/-! ### The width of a rounded result (R57, R71) -/

section
variable {f : Fmt} (fp : f.isFp = true)
include fp

theorem isInt_of_isFp : f.isInt = false := by
  revert fp
  cases f <;> decide

/-- A sign bit stands above the fixed magnitudes of a floating-point format. -/
theorem magnitudes_lt : 0 < f.width ∧ f.nan < 2 ^ (f.width - 1) ∧ f.infinity < 2 ^ (f.width - 1) ∧ f.maxFinite < 2 ^ (f.width - 1) := by
  revert fp
  cases f <;> decide

theorem two_pow_width : 2 ^ f.width = 2 ^ (f.width - 1) + 2 ^ (f.width - 1) := by
  rw [← Nat.two_mul, ← pow_succ', Nat.sub_add_cancel (magnitudes_lt fp).1]

theorem nan_lt : f.nan < 2 ^ f.width := by
  obtain ⟨-, nan, -⟩ := magnitudes_lt fp
  have := two_pow_width fp
  omega

theorem withSign_lt (neg : Bool) {x : Nat} (h : x < 2 ^ (f.width - 1)) : withSign f neg x < 2 ^ f.width := by
  have := two_pow_width fp
  unfold withSign
  split <;> omega

theorem overflow_lt (md : Rm) (neg : Bool) : overflow f md neg < 2 ^ (f.width - 1) := by
  obtain ⟨-, -, inf, max⟩ := magnitudes_lt fp
  have either (c : Prop) [Decidable c] {x y : Nat} (hx : x < 2 ^ (f.width - 1)) (hy : y < 2 ^ (f.width - 1)) :
      (if c then x else y) < 2 ^ (f.width - 1) := by split <;> assumption
  refine either _ max ?_
  cases md with
  | rne => exact inf
  | rz => exact max
  | ru => exact either _ max inf
  | rd => exact either _ inf max
  | sr => exact max

theorem finite_or_overflow_lt (md : Rm) (neg : Bool) (bits : Nat) :
    (if f.maxFinite < bits then overflow f md neg else bits) < 2 ^ (f.width - 1) := by
  obtain ⟨-, -, -, max⟩ := magnitudes_lt fp
  split
  · exact overflow_lt fp md neg
  · omega

theorem fpRound_lt (md : Rm) (r : Nat) (x : FpNum) : fpRound f md r x < 2 ^ f.width := by
  obtain ⟨-, -, inf, -⟩ := magnitudes_lt fp
  cases x with
  | nan => exact nan_lt fp
  | inf neg => exact withSign_lt fp neg inf
  | fin neg m e =>
    rw [fpRound]
    split
    · exact withSign_lt fp neg (Nat.two_pow_pos _)
    · exact withSign_lt fp neg (finite_or_overflow_lt fp md neg _)
end

end Sys2Proof.Laws
end

section
/-! Vector instructions that complete: the tile that their results are computed from, and results element by element (R64, R69, R212). -/

namespace Sys2Proof.Laws

open Machine

/-! ### What tokens and ports leave of the tile -/

/-- Nothing differs in the tile in focus but its token queues and its ports. -/
def TileButPorts (s t : State) : Prop := ∃ q ps, t.tile = { s.tile with q := q, ports := ps }

theorem TileButPorts.refl (s : State) : TileButPorts s s := ⟨_, _, rfl⟩

theorem TileButPorts.trans {s t u : State} (a : TileButPorts s t) (b : TileButPorts t u) : TileButPorts s u := by
  obtain ⟨q, ps, ha⟩ := a
  obtain ⟨q', ps', hb⟩ := b
  exact ⟨q', ps', by rw [hb, ha]⟩

theorem mapQueue_tile (s : State) (x y : CoreId) (f : Queue → Queue) : ∃ q, (mapQueue s x y f).tile = { s.tile with q := q } := ⟨_, rfl⟩

theorem withTokens_tile (s : State) (k : Tok) (x : Slot) : ∃ q, (withTokens s k x).tile = { s.tile with q := q } := by
  have step (yes : Bool) (y z : CoreId) (f : Queue → Queue) {t : State} (h : ∃ q, t.tile = { s.tile with q := q }) :
      ∃ q, (if yes then mapQueue t y z f else t).tile = { s.tile with q := q } := by
    obtain ⟨q, hq⟩ := h
    split
    · obtain ⟨q', hq'⟩ := mapQueue_tile t y z f
      exact ⟨q', by rw [hq', hq]⟩
    · exact ⟨q, hq⟩
  exact step _ _ _ _ (step _ _ _ _ (step _ _ _ _ (step _ _ _ _ ⟨_, rfl⟩)))

theorem tileButPorts_withTokens (s : State) (k : Tok) (x : Slot) : TileButPorts s (withTokens s k x) := by
  obtain ⟨q, hq⟩ := withTokens_tile s k x
  exact ⟨q, _, hq⟩

theorem tileButPorts_advance (s : State) (c : VCode) : TileButPorts s (s.advance c) := ⟨_, _, rfl⟩

theorem tileButPorts_popOne {s t : State} {c : VCode} {x : BitVec 2048} (e : popOne s c = .ok (x, t)) : TileButPorts s t := by
  unfold popOne at e
  split at e
  · cases hk : portKey s c 1 with
    | error h => rw [hk] at e; exact nomatch e
    | ok k =>
      simp only [hk, bind, Except.bind, Except.ok.injEq, Prod.mk.injEq] at e
      exact e.2 ▸ tileButPorts_advance s c
  · cases e; exact .refl s

theorem tileButPorts_popAll {s u : State} {cs : List VCode} {xs : List (BitVec 2048)} (e : popAll s cs = .ok (xs, u)) : TileButPorts s u := by
  induction cs generalizing s xs with
  | nil => cases e; exact .refl _
  | cons c cs ih =>
    cases hx : popOne s c with
    | error h => rw [popAll, hx] at e; exact nomatch e
    | ok x =>
      cases hy : popAll x.2 cs with
      | error h => simp [popAll, hx, hy, bind, Except.bind] at e
      | ok y =>
        simp only [popAll, hx, hy, bind, Except.bind] at e
        cases e
        exact (tileButPorts_popOne hx).trans (ih hy)

theorem tileButPorts_pushKey {s t : State} {d : VCode} {key : Option Nat} (e : pushKey s d = .ok (key, t)) : TileButPorts s t := by
  unfold pushKey at e
  split at e
  · cases hk : portKey s d 2 with
    | error h => rw [hk] at e; exact nomatch e
    | ok k => rw [hk] at e; cases e; exact tileButPorts_advance s d
  · cases e; exact .refl s

/-! ### A vector instruction completes -/

/-- A vector instruction that is ready completes with what it computes from its sources and from the tile, whose queues and ports alone
have changed by then. -/
theorem vecGives {i : Instr} {s : State} {k : Tok} {d : VCode} {cs : List VCode} {gs : List GReg} {os : List Reg} {tagsOk : List Fmt → Bool}
    {lat : List Fmt → Nat} {f : Tile → List Fmt → List (BitVec 2048) → VResult} {ts : List Fmt} {L : Nat}
    {P : List (BitVec 2048) → BitVec 2048 → Fmt → Word → Prop} (form : exec i s = vector k d cs gs os tagsOk lat f s)
    (tags : s.tile.srcTags cs = ts) (allowed : tagsOk ts = true) (late : lat ts = L)
    (result : ∀ q ps xs, let y := f { s.tile with q := q, ports := ps } ts xs; P xs y.1 y.2.1 y.2.2) :
    VecGives i s k d cs gs os L P := by
  rintro xs key w ⟨range, ready, regs, ⟨u, pops, push⟩, clean⟩
  obtain ⟨q, ps, moved⟩ := ((tileButPorts_withTokens s k _).trans (tileButPorts_popAll pops)).trans (tileButPorts_pushKey push)
  refine ⟨_, _, _, ?_, result q ps xs⟩
  have inAllotment : ((d :: cs).all fun c => !isVReg c || decide (c.toNat < s.tile.vallot.toNat)) = true :=
    List.all_eq_true.mpr fun c mem => by simpa [← Bool.not_eq_true, imp_iff_not_or] using range c mem
  rw [form, vector, tags, late]
  refine priv_ok (check_true _ _ inAllotment) ready regs ?_
  simp only [check_true _ _ allowed, pops, push, clean, moved, bind, Except.bind]

/-! ### Results element by element -/

section
variable {f : Fmt} {e : Nat} (h : e < f.elems)
include h

theorem elemAt_elementwise (op : Fmt → Nat → Nat → Nat) (t : Tile) (ts : List Fmt) (xs : List (BitVec 2048)) :
    elemAt f (elementwise op t (f :: ts) xs).1 e = op f (elemAt f (arg0 xs) e) (elemAt f (arg1 xs) e) % 2 ^ f.width := by
  show elemAt f (pack f (((unpack f (arg0 xs)).zip (unpack f (arg1 xs))).map fun x => op f x.1 x.2)) e = _
  rw [unpack_zip, List.map_map, elemAt_pack_map_range _ h]
  rfl

theorem elemAt_unary (op : Fmt → Nat → Nat) (t : Tile) (ts : List Fmt) (xs : List (BitVec 2048)) :
    elemAt f (unary op t (f :: ts) xs).1 e = op f (elemAt f (arg0 xs) e) % 2 ^ f.width := by
  show elemAt f (pack f ((unpack f (arg0 xs)).map (op f))) e = _
  rw [unpack_eq, List.map_map, elemAt_pack_map_range _ h]
  rfl
end

/-! ### Results rounded in element order (R69, R71) -/

/-- A result under a floating-point tag: element e is the value r e rounded by the tile's mode, with the draw numbered e under SR. -/
def RoundsTo (t : Tile) (f : Fmt) (r : Nat → FpNum) (y : VResult) : Prop :=
  y.2.1 = f ∧ y.2.2 = drawn (t.rmode = .sr) t.lfsrc f.elems ∧
    ∀ e, e < f.elems → elemAt f y.1 e = fpRound f t.rmode (drawAt (t.rmode = .sr) t.lfsrc e) (r e)

section
variable {f : Fmt} (fp : f.isFp = true)
include fp

theorem roundsTo_mapDraw {α : Type} (t : Tile) (v : α → FpNum) (as : Nat → α) :
    RoundsTo t f (fun e => v (as e))
      (let (ys, l) := mapDraw (fun l x => roundDraw f t.rmode l (v x)) t.lfsrc ((List.range f.elems).map as); (pack f ys, f, l)) := by
  simp only [roundDraw_eq, mapDraw_range (t.rmode = .sr) (fun r (x : α) => fpRound f t.rmode r (v x))]
  refine ⟨rfl, rfl, fun e h => ?_⟩
  rw [elemAt_pack_map_range _ h, Nat.mod_eq_of_lt (fpRound_lt fp _ _ _)]

theorem roundsTo_arith (i : Int → Int → Int) (r : Bool → FpNum → FpNum → FpNum) (t : Tile) (ts : List Fmt) (xs : List (BitVec 2048)) :
    RoundsTo t f (fun e => r (t.rmode = .rd) (fpVal f (elemAt f (arg0 xs) e)) (fpVal f (elemAt f (arg1 xs) e))) (arith i r t (f :: ts) xs) := by
  have float : (tag0 (f :: ts)).isInt = false := isInt_of_isFp fp
  rw [arith, float, unpack_zip]
  exact roundsTo_mapDraw fp t (fun x : Nat × Nat => r (t.rmode = .rd) (fpVal f x.1) (fpVal f x.2)) _
end

end Sys2Proof.Laws
end

section
/-! Vector floating point (O24). -/

namespace Sys2Proof.Laws

open Machine

/-! ### Minimum and maximum (R221) -/

section
variable {f : Fmt} {x y : Nat}

theorem pickFp_of_unordered (big : Bool) (h : (fpVal f x).cmp (fpVal f y) = none) : pickFp big f x y = f.nan := by rw [pickFp, h]

theorem pickFp_of_cmp {z : Int} (big : Bool) (h : (fpVal f x).cmp (fpVal f y) = some z) :
    pickFp big f x y = if (if z = 0 then (fpVal f x).sign && !(fpVal f y).sign else decide (z < 0)) = big then y else x := by
  rw [pickFp, h]

theorem pickFp_lt (fp : f.isFp = true) (big : Bool) (hx : x < 2 ^ f.width) (hy : y < 2 ^ f.width) : pickFp big f x y < 2 ^ f.width := by
  cases h : (fpVal f x).cmp (fpVal f y) with
  | none => rw [pickFp_of_unordered big h]; exact nan_lt fp
  | some z =>
    rw [pickFp_of_cmp big h]
    generalize (if z = 0 then (fpVal f x).sign && !(fpVal f y).sign else decide (z < 0)) = less
    split <;> assumption

/-- What is picked: a NaN where one takes part, else by the order of the values, and of zeros by their signs. -/
def Picks (big : Bool) (f : Fmt) (x y r : Nat) : Prop :=
  ((fpVal f x).cmp (fpVal f y) = none → r = f.nan) ∧
  ∀ z, (fpVal f x).cmp (fpVal f y) = some z →
    (z < 0 → r = if big then y else x) ∧ (0 < z → r = if big then x else y) ∧
    (z = 0 → (fpVal f x).sign = true → (fpVal f y).sign = false → r = if big then y else x) ∧
    (z = 0 → (fpVal f x).sign = false → (fpVal f y).sign = true → r = if big then x else y) ∧ (r = x ∨ r = y)

theorem picks_pickFp (big : Bool) (f : Fmt) (x y : Nat) : Picks big f x y (pickFp big f x y) := by
  refine ⟨pickFp_of_unordered big, fun z h => ?_⟩
  have lesser (l : (if z = 0 then (fpVal f x).sign && !(fpVal f y).sign else decide (z < 0)) = true) :
      pickFp big f x y = if big then y else x := by
    rw [pickFp_of_cmp big h, l]
    cases big <;> rfl
  have greater (l : (if z = 0 then (fpVal f x).sign && !(fpVal f y).sign else decide (z < 0)) = false) :
      pickFp big f x y = if big then x else y := by
    rw [pickFp_of_cmp big h, l]
    cases big <;> rfl
  refine ⟨fun neg => lesser ?_, fun pos => greater ?_, fun zero sx sy => lesser ?_, fun zero sx sy => greater ?_, ?_⟩
  · simp [neg, neg.ne]
  · simp [pos.ne', pos.le]
  · simp [zero, sx, sy]
  · simp [zero, sx]
  · rw [pickFp_of_cmp big h]
    exact (ite_eq_or_eq _ y x).symm
end

/-! ### Absolute value and negation (R221) -/

theorem withSign_flip (f : Fmt) {x : Nat} (pos : 0 < f.width) (h : x < 2 ^ f.width) :
    withSign f (!x.testBit (f.width - 1)) (x % 2 ^ (f.width - 1)) = x ^^^ 2 ^ (f.width - 1) := by
  obtain ⟨v, hv⟩ : ∃ v, f.width = v + 1 := ⟨f.width - 1, by omega⟩
  rw [hv] at h
  have low : x % 2 ^ v < 2 ^ v := Nat.mod_lt _ (Nat.two_pow_pos v)
  have beyond (j : Nat) (hj : v < j) : x.testBit j = false :=
    Nat.testBit_lt_two_pow (h.trans_le (Nat.pow_le_pow_right (by decide) hj))
  rw [withSign, hv, Nat.add_sub_cancel, Nat.add_comm, ← Nat.mul_one (2 ^ v), Nat.two_pow_add_eq_or_of_lt (by simpa using low), Nat.mul_one]
  refine Nat.eq_of_testBit_eq fun j => ?_
  rcases lt_trichotomy j v with below | rfl | above
  · cases x.testBit v <;> simp [below, below.ne']
  · cases e : x.testBit j <;> simp [e]
  · cases x.testBit v <;> simp [beyond j above, above.ne, above.not_gt]

section
variable {f : Fmt} (fp : f.isFp = true) {x : Nat}
include fp

theorem signOp_abs : signOp true f x = if fpVal f x = .nan then f.nan else x % 2 ^ (f.width - 1) := by
  simp [signOp, isInt_of_isFp fp]

theorem signOp_neg (h : x < 2 ^ f.width) : signOp false f x = if fpVal f x = .nan then f.nan else x ^^^ 2 ^ (f.width - 1) := by
  simp [signOp, isInt_of_isFp fp, withSign_flip f (magnitudes_lt fp).1 h]

theorem signOp_lt (abs : Bool) : signOp abs f x < 2 ^ f.width := by
  have low : x % 2 ^ (f.width - 1) < 2 ^ (f.width - 1) := Nat.mod_lt _ (Nat.two_pow_pos _)
  simp only [signOp, isInt_of_isFp fp]
  split
  · contradiction
  · split
    · exact nan_lt fp
    · cases abs with
      | true => exact withSign_lt fp false low
      | false => exact withSign_lt fp _ low
end

/-! ### The instructions' results -/

/-- R232: what vfma computes: the exact product and sum of three elements, rounded once. -/
def fused (t : Tile) (ts : List Fmt) (xs : List (BitVec 2048)) : VResult :=
  let f := tag0 ts
  let (ys, l) := mapDraw (fun l x =>
      roundDraw f t.rmode l (FpNum.add (t.rmode = .rd) ((fpVal f x.1.1).mul (fpVal f x.1.2)) (fpVal f x.2))) t.lfsrc
    (((unpack f (arg0 xs)).zip (unpack f (arg1 xs))).zip (unpack f (arg2 xs)))
  (pack f ys, f, l)

theorem execVfma_eq (k : Tok) (a b c : VCode) (s : State) :
    execVfma k a b c s = vector k a [b, c, a] [] [] (sameTag Fmt.isFp) (fun _ => 5) fused s := rfl

theorem roundsTo_fused {f : Fmt} (fp : f.isFp = true) (t : Tile) (ts : List Fmt) (xs : List (BitVec 2048)) :
    RoundsTo t f (fun e => FpNum.add (t.rmode = .rd) ((fpVal f (elemAt f (arg0 xs) e)).mul (fpVal f (elemAt f (arg1 xs) e)))
      (fpVal f (elemAt f (arg2 xs) e))) (fused t (f :: ts) xs) := by
  rw [fused, show tag0 (f :: ts) = f from rfl, unpack_zip_zip]
  exact roundsTo_mapDraw fp t (fun x : (Nat × Nat) × Nat => FpNum.add (t.rmode = .rd) ((fpVal f x.1.1).mul (fpVal f x.1.2)) (fpVal f x.2)) _

section
variable {f : Fmt} (fp : f.isFp = true) {e : Nat} (h : e < f.elems) (t : Tile) (ts : List Fmt) (xs : List (BitVec 2048))
include fp h

theorem elemAt_pick (big : Bool) :
    elemAt f (elementwise (fun f x y => if f.isInt then pickInt big f x y else pickFp big f x y) t (f :: ts) xs).1 e =
      pickFp big f (elemAt f (arg0 xs) e) (elemAt f (arg1 xs) e) := by
  rw [elemAt_elementwise h, isInt_of_isFp fp]
  exact Nat.mod_eq_of_lt (pickFp_lt fp big (elemAt_lt ..) (elemAt_lt ..))

theorem elemAt_signOp (abs : Bool) : elemAt f (unary (signOp abs) t (f :: ts) xs).1 e = signOp abs f (elemAt f (arg0 xs) e) := by
  rw [elemAt_unary h, Nat.mod_eq_of_lt (signOp_lt fp abs)]
end

section
variable {f : Fmt}

theorem sameTag_replicate {ok : Fmt → Bool} (h : ok f = true) :
    sameTag ok [f] = true ∧ sameTag ok [f, f] = true ∧ sameTag ok [f, f, f] = true := by
  simp [sameTag, h]

variable (fp : f.isFp = true)
include fp

theorem isNum_of_isFp : isNum f = true := by simp [isNum, fp]

theorem latIntFp_of_isFp (i n : Nat) (ts : List Fmt) : latIntFp i n (f :: ts) = n := by simp [latIntFp, tag0, isInt_of_isFp fp]
end

/-- Settles O24: results that round by `roundsTo_mapDraw`, minimum and maximum by `picks_pickFp`, signs by `signOp_abs` and
`signOp_neg`. -/
theorem vectorFloatingPoint : Obligations.VectorFloatingPoint := by
  intro k a b c f s fp md sr rd rounds el pick
  obtain ⟨one, two, -⟩ := sameTag_replicate (isNum_of_isFp fp)
  obtain ⟨-, -, three⟩ := sameTag_replicate fp
  have late := latIntFp_of_isFp fp
  refine ⟨fun tags => ⟨?vadd, ?vsub, ?vmul, ?vmin, ?vmax⟩, fun tags => ⟨?vabs, ?vneg⟩, fun tags => ?vfma⟩
  case vadd => exact vecGives (show _ = execVadd k a b c s from rfl) tags two (late ..) fun q ps xs => roundsTo_arith fp _ _ _ _ _
  case vsub => exact vecGives (show _ = execVsub k a b c s from rfl) tags two (late ..) fun q ps xs => roundsTo_arith fp _ _ _ _ _
  case vmul => exact vecGives (show _ = execVmul k a b c s from rfl) tags two (late ..) fun q ps xs => roundsTo_arith fp _ _ _ _ _
  case vmin =>
    exact vecGives (show _ = execVmin k a b c s from rfl) tags two (late ..) fun q ps xs =>
      ⟨rfl, rfl, fun e h => elemAt_pick fp h _ _ xs false ▸ picks_pickFp false f _ _⟩
  case vmax =>
    exact vecGives (show _ = execVmax k a b c s from rfl) tags two (late ..) fun q ps xs =>
      ⟨rfl, rfl, fun e h => elemAt_pick fp h _ _ xs true ▸ picks_pickFp true f _ _⟩
  case vabs =>
    exact vecGives (show _ = execVabs k a b s from rfl) tags one (late ..) fun q ps xs =>
      ⟨rfl, rfl, fun e h => (elemAt_signOp fp h _ _ xs true).trans (signOp_abs fp)⟩
  case vneg =>
    exact vecGives (show _ = execVneg k a b s from rfl) tags one (late ..) fun q ps xs =>
      ⟨rfl, rfl, fun e h => (elemAt_signOp fp h _ _ xs false).trans (signOp_neg fp (elemAt_lt ..))⟩
  case vfma =>
    refine vecGives ((show _ = execVfma k a b c s from rfl).trans (execVfma_eq ..)) tags three rfl fun q ps xs => ?_
    exact roundsTo_fused fp _ _ xs

end Sys2Proof.Laws
end

section
/-! Scalar floating point (O33). -/

namespace Sys2Proof.Laws

open Machine

/-! ### A scalar floating-point instruction completes -/

section
variable {i : Instr} {s : State} {k : Tok} {d : GReg} {rs : List GReg} {L : Nat} (ready : TokensReady s k) (regs : Avail s rs [] [d])
include ready regs

/-- A scalar instruction that is ready completes with what it computes from the tile, whose queues alone have changed by then. -/
theorem fpGives {f : Tile → Nat × Word} {x : Nat} {l : Word} (form : exec i s = scalarFp k d rs L f s)
    (result : ∀ q, f { s.tile with q := q } = (x, l)) : FpGives i s k d L x l := by
  obtain ⟨q, moved⟩ := withTokens_tile s k s.token
  have computed : f (withTokens s k s.token).tile = (x, l) := by rw [moved, result]
  rw [FpGives, form, scalarFp]
  exact priv_ok rfl ready regs (by rw [computed])

/-- One that takes no draw. -/
theorem fpGives_exact {x : Nat} (form : exec i s = scalarFp k d rs L (fun t => (x, t.lfsrc)) s) : FpGives i s k d L x s.tile.lfsrc :=
  fpGives ready regs form fun _ => rfl

/-- One that converts by RMODE, under SR with one draw (R72, R243). -/
theorem fpGives_withDraw {f : Rm → Nat → Nat} {x : Nat} (form : exec i s = scalarFp k d rs L (withDraw f) s)
    (value : f s.tile.rmode (drawAt (s.tile.rmode = .sr) s.tile.lfsrc 0) = x) :
    FpGives i s k d L x (drawn (s.tile.rmode = .sr) s.tile.lfsrc 1) :=
  fpGives ready regs form fun _ => by simp only [withDraw, drawIf_eq, value]

/-- One whose exact result is rounded by RMODE, under SR with one draw (R71, R241). -/
theorem fpGives_rounded {v : Bool → FpNum} {x : FpNum} (form : exec i s = scalarFp k d rs L (rounded v) s)
    (value : v (s.tile.rmode = .rd) = x) :
    FpGives i s k d L (fpRound .fp32 s.tile.rmode (drawAt (s.tile.rmode = .sr) s.tile.lfsrc 0) x)
      (drawn (s.tile.rmode = .sr) s.tile.lfsrc 1) :=
  fpGives ready regs form fun _ => by rw [← value, rounded, roundDraw_eq]
end

/-! ### The compare's class (R242) -/

theorem cmp_eq_some {x y : FpNum} {z : Int} (h : x.cmp y = some z) : z = -1 ∨ z = 0 ∨ z = 1 := by
  have sign (n : Int) : n.sign = -1 ∨ n.sign = 0 ∨ n.sign = 1 := by
    rcases lt_trichotomy n 0 with neg | rfl | pos
    · exact .inl (Int.sign_eq_neg_one_of_neg neg)
    · exact .inr (.inl rfl)
    · exact .inr (.inr (Int.sign_eq_one_of_pos pos))
  cases x with
  | nan => exact nomatch h
  | inf a =>
    cases y with
    | nan => exact nomatch h
    | inf b => cases a <;> cases b <;> cases h <;> decide
    | fin b n f => cases a <;> cases h <;> decide
  | fin a m e =>
    cases y with
    | nan => exact nomatch h
    | inf b => cases b <;> cases h <;> decide
    | fin b n f => cases h; exact sign _

/-- The number that fcmp gives to an order: 8 for none, 1, 2 and 4 for less, equal and greater. -/
def cmpClass : Option Int → Nat
  | none => 8
  | some c => if c < 0 then 1 else if c = 0 then 2 else 4

theorem cmpClass_cmp (x y : FpNum) :
    cmpClass (x.cmp y) = if x.cmp y = none then 8 else if x.cmp y = some 0 then 2 else if x.cmp y = some (-1) then 1 else 4 := by
  cases h : x.cmp y with
  | none => rfl
  | some z => rcases cmp_eq_some h with rfl | rfl | rfl <;> decide

theorem execFcmp_eq (k : Tok) (d a b : GReg) (s : State) :
    execFcmp k d a b s = scalarFp k d [a, b] 4 (fun t => (cmpClass ((s.f a).cmp (s.f b)), t.lfsrc)) s := rfl

/-- Settles O33: each instruction rounds, converts or takes its result as it is, by `fpGives_rounded`, `fpGives_withDraw` and
`fpGives_exact`. -/
theorem scalarFloatingPoint : Obligations.ScalarFloatingPoint := by
  intro k d a b s ready md sr rd r x y z rounds takes conv int
  refine ⟨fun regs => ⟨?fadd, ?fsub, ?fmul, ?fdiv, ?fmin, ?fmax, ?fcmp⟩, fun regs => ?ffma,
    fun regs => ⟨?fsqrt, ?fcvtWS, ?fcvtWuS, ?fcvtSW, ?fcvtSWu, ?fcvtBfS, ?fcvtSBf, ?fcvtHS, ?fcvtSH⟩⟩
  case fadd => exact fpGives_rounded ready regs (show _ = execFadd k d a b s from rfl) rfl
  case fsub => exact fpGives_rounded ready regs (show _ = execFsub k d a b s from rfl) rfl
  case fmul => exact fpGives_rounded ready regs (show _ = execFmul k d a b s from rfl) rfl
  case fdiv => exact fpGives_rounded ready regs (show _ = execFdiv k d a b s from rfl) rfl
  case fmin => exact fpGives_exact ready regs (show _ = execFmin k d a b s from rfl)
  case fmax => exact fpGives_exact ready regs (show _ = execFmax k d a b s from rfl)
  case fcmp => exact cmpClass_cmp x y ▸ fpGives_exact ready regs ((show _ = execFcmp k d a b s from rfl).trans (execFcmp_eq ..))
  case ffma => exact fpGives_rounded ready regs (show _ = execFfma k d a b s from rfl) rfl
  case fsqrt => exact fpGives_rounded ready regs (show _ = execFsqrt k d a s from rfl) rfl
  case fcvtWS => exact fpGives_withDraw ready regs (show _ = execFcvtWS k d a s from rfl) rfl
  case fcvtWuS => exact fpGives_withDraw ready regs (show _ = execFcvtWuS k d a s from rfl) rfl
  case fcvtSW => exact fpGives_withDraw ready regs (show _ = execFcvtSW k d a s from rfl) rfl
  case fcvtSWu => exact fpGives_withDraw ready regs (show _ = execFcvtSWu k d a s from rfl) rfl
  case fcvtBfS => exact fpGives_withDraw ready regs (show _ = execFcvtBfS k d a s from rfl) rfl
  case fcvtSBf => exact fpGives_exact ready regs (show _ = execFcvtSBf k d a s from rfl)
  case fcvtHS => exact fpGives_withDraw ready regs (show _ = execFcvtHS k d a s from rfl) rfl
  case fcvtSH => exact fpGives_exact ready regs (show _ = execFcvtSH k d a s from rfl)

end Sys2Proof.Laws
end

section
/-! Numbers in memory: what is read of bytes that were written, least significant first (R5). -/

namespace Sys2Proof.Laws

open Machine

/-! ### The bytes of a number -/

@[simp] theorem leBytes_length (n x : Nat) : (leBytes n x).length = n := by
  induction n generalizing x with
  | zero => rfl
  | succ n ih => rw [leBytes, List.length_cons, ih]

theorem leNat_leBytes (n x : Nat) : leNat (leBytes n x) = x % 256 ^ n := by
  induction n generalizing x with
  | zero => simp [leBytes, leNat, Nat.mod_one]
  | succ n ih => rw [leBytes, leNat, ih, BitVec.toNat_ofNat, pow_succ' 256 n, Nat.mod_mul (a := 256)]

theorem leNat_lt (bs : List Byte) : leNat bs < 256 ^ bs.length := by
  induction bs with
  | nil => decide
  | cons b bs ih =>
    have := b.isLt
    rw [leNat, List.length_cons, Nat.pow_succ']
    omega

/-! ### The bytes of a list of words -/

@[simp] theorem wordBytes_length (l : List Nat) : (wordBytes l).length = 4 * l.length := by
  induction l with
  | nil => rfl
  | cons x xs ih =>
    rw [wordBytes, List.flatMap_cons, List.length_append, leBytes_length, ← wordBytes, ih, List.length_cons]
    omega

theorem wordBytes_word (l : List Nat) {j : Nat} (h : j < l.length) : ((wordBytes l).drop (4 * j)).take 4 = leBytes 4 l[j] := by
  induction l generalizing j with
  | nil => exact absurd h (Nat.not_lt_zero _)
  | cons x xs ih =>
    rw [wordBytes, List.flatMap_cons, ← wordBytes]
    cases j with
    | zero => exact List.take_left' (leBytes_length 4 x)
    | succ j =>
      rw [Nat.mul_succ, Nat.add_comm, ← List.drop_drop, List.drop_left' (leBytes_length 4 x)]
      exact ih (Nat.lt_of_succ_lt_succ h)

/-! ### Runs of bytes -/

@[simp] theorem readRange_length (m : Mem) (k n : Nat) : (Mem.readRange m k n).length = n := by simp [Mem.readRange]

theorem readRange_congr {m m' : Mem} {k n : Nat} (h : ∀ a, k ≤ a → a < k + n → Mem.read m a = Mem.read m' a) :
    Mem.readRange m k n = Mem.readRange m' k n :=
  List.map_congr_left fun _ hi => h _ (Nat.le_add_right ..) (Nat.add_lt_add_left (List.mem_range.mp hi) k)

theorem readRange_writeRange_inside (m : Mem) (k : Nat) {bs : List Byte} {o n : Nat} (h : o + n ≤ bs.length) :
    Mem.readRange (Mem.writeRange m k bs) (k + o) n = (bs.drop o).take n := by
  refine List.ext_getElem (by simp; omega) fun j hj _ => ?_
  rw [readRange_length] at hj
  have here : bs[o + j]? = some bs[o + j] := List.getElem?_eq_getElem _
  simp [Mem.readRange, Nat.add_assoc, read_writeRange_inside m k here]

theorem readRange_writeRange_outside (m : Mem) {k a n : Nat} {bs : List Byte} (h : a + n ≤ k ∨ k + bs.length ≤ a) :
    Mem.readRange (Mem.writeRange m k bs) a n = Mem.readRange m a n :=
  readRange_congr fun _ _ _ => read_writeRange_outside m (by omega)

/-! ### Numbers -/

section
variable (s : State)

theorem readNat_lt (k n : Nat) : s.readNat k n < 256 ^ n := by
  have := leNat_lt (Mem.readRange s.mem k n)
  rwa [readRange_length] at this

theorem readNat_writeBytes_inside (k : Nat) {bs : List Byte} {o n : Nat} (h : o + n ≤ bs.length) :
    (s.writeBytes k bs).readNat (k + o) n = leNat ((bs.drop o).take n) :=
  congrArg leNat (readRange_writeRange_inside s.mem k h)

theorem readNat_writeBytes_outside {k a n : Nat} {bs : List Byte} (h : a + n ≤ k ∨ k + bs.length ≤ a) :
    (s.writeBytes k bs).readNat a n = s.readNat a n :=
  congrArg leNat (readRange_writeRange_outside s.mem h)

theorem readNat_writeNat (k n x : Nat) : (s.writeNat k n x).readNat k n = x % 256 ^ n := by
  have fits : 0 + n ≤ (leBytes n x).length := by simp
  have := readNat_writeBytes_inside s k fits
  rwa [Nat.add_zero, List.drop_zero, List.take_of_length_le (by simp), leNat_leBytes] at this

theorem read_writeNat_outside {k n x a : Nat} (h : a < k ∨ k + n ≤ a) : Mem.read (s.writeNat k n x).mem a = Mem.read s.mem a :=
  read_writeRange_outside s.mem (by simpa using h)

/-- The four bytes of a word, the last one on top. -/
theorem ofNat_readNat_word (k : Nat) : BitVec.ofNat 32 (s.readNat k 4) =
    Mem.read s.mem (k + 3) ++ Mem.read s.mem (k + 2) ++ Mem.read s.mem (k + 1) ++ Mem.read s.mem k := by
  have step {n : Nat} (x : BitVec n) (b : Byte) (l : List Byte) (h : leNat l = x.toNat) : leNat (b :: l) = (x ++ b).toNat := by
    rw [leNat, h, BitVec.toNat_append, ← Nat.shiftLeft_add_eq_or_of_lt b.isLt, Nat.shiftLeft_eq]
    omega
  refine BitVec.eq_of_toNat_eq ?_
  rw [BitVec.toNat_ofNat, Nat.mod_eq_of_lt (show s.readNat k 4 < 2 ^ 32 from readNat_lt s k 4)]
  refine step _ _ _ (step _ _ _ (step _ _ _ ?_))
  simp [leNat]
end

end Sys2Proof.Laws
end

section
/-! Load-lock, store-unlock and the scratch atomics (O6). -/

namespace Sys2Proof.Laws

open Machine

/-! ### Checks and effective addresses -/

theorem check_false {p : Prop} [Decidable p] (t : Trap) (h : ¬p) : check p t = .error (.trap t) := if_neg h

theorem await_false {p : Prop} [Decidable p] (w : Wait) (h : ¬p) : await p w = .error (.wait w) := if_neg h

theorem scalarAt_ok {s : State} {base : GReg} {a : Word} {n acc k : Nat} (h : Reach s base a n n acc k) : scalarAt s base a n acc = .ok k :=
  accessAt_ok h

/-- The effective address of a base register and an immediate, as the model adds them (R163). -/
theorem wrap32_add_imm (x : Word) (i : BitVec 15) : wrap32 (x.toNat + i.toInt) = x + imm i := by
  rw [wrap32, BitVec.ofInt_add, BitVec.ofInt_natCast, BitVec.ofNat_toNat, BitVec.setWidth_eq]
  rfl

/-! ### Load-lock (R98, R165) -/

section
variable {s : State} {d a : GReg} {i : BitVec 15} {k : Nat} (h : AvailIssued s [a] [d]) (r : Reach s a (s.opd a + imm i) 4 4 1 k)
include h r

theorem exec_lld_free (none_ : s.heldLock = none) (free : s.lockBlocked (lockOf k) = false) : exec (.lld d a i) s =
    .next ((((s.lockServed (lockOf k)).lock (lockOf k)).putG d (BitVec.ofNat 32 (s.readNat k 4))).spoil k 4).retire := by
  show execLld d a i s = _
  simp [execLld, commonIssued_ok _ h, scalarAt_ok r, none_, free, finishIssued, bind, Except.bind]

theorem exec_lld_blocked (none_ : s.heldLock = none) (blocked : s.lockBlocked (lockOf k) = true) :
    exec (.lld d a i) s = .next ((s.lockWait (lockOf k)).parkIssued [a] .other) := by
  show execLld d a i s = _
  simp [execLld, commonIssued_ok _ h, scalarAt_ok r, none_, blocked, finishIssued, bind, Except.bind]

theorem exec_lld_holding (holds : s.heldLock ≠ none) :
    Raises (.lld d a i) s { cls := .lockState, access := 1, addr := (s.opd a + imm i).toNat } := by
  show execLld d a i s = _
  simp only [execLld, commonIssued_ok _ h, scalarAt_ok r, check_false _ holds, finishIssued, bind, Except.bind]
end

/-! ### Store-unlock (R99, R165) -/

section
variable {s : State} {g a : GReg} {i : BitVec 15} {k : Nat} (h : Avail s [g, a] [] []) (r : Reach s a (s.g a + imm i) 4 4 2 k)
  (landed : Settled s)
include h r landed

theorem exec_sul_reached : exec (.sul g a i) s =
    if s.core.lost then .next ((s.setCore { s.core with lost := false }).takeTrap (some s.sel)
      { cls := .lockLost, access := 2, addr := (s.g a + imm i).toNat })
    else if s.heldLock.map (fun l => (l.bank, l.bit)) ≠ some (lockOf k) then
      .next (s.takeTrap (some s.sel) { cls := .lockState, access := 2, addr := (s.g a + imm i).toNat })
    else .next ((s.unlock (lockOf k)).storeNat k 4 (s.g g).toNat).retire := by
  show execSul g a i s = _
  simp only [execSul, hazards_ok h, scalarAt_ok r, settled_ok landed, bind, Except.bind]
  rfl

theorem exec_sul_held (sound : s.core.lost = false) {x : Lock} (held : s.heldLock = some x) (bit : (x.bank, x.bit) = lockOf k) :
    exec (.sul g a i) s = .next ((s.unlock (lockOf k)).storeNat k 4 (s.g g).toNat).retire := by
  simp [exec_sul_reached h r landed, sound, held, bit]

theorem exec_sul_not_held (sound : s.core.lost = false) (other : ∀ x, s.heldLock = some x → (x.bank, x.bit) ≠ lockOf k) :
    Raises (.sul g a i) s { cls := .lockState, access := 2, addr := (s.g a + imm i).toNat } := by
  have differs : s.heldLock.map (fun l => (l.bank, l.bit)) ≠ some (lockOf k) := fun e => by
    obtain ⟨x, held, bit⟩ := Option.map_eq_some_iff.mp e
    exact other x held bit
  rw [Raises, exec_sul_reached h r landed, if_neg (by simp [sound]), if_pos differs]

theorem exec_sul_lost (lost : s.core.lost = true) : exec (.sul g a i) s =
    .next ((s.setCore { s.core with lost := false }).takeTrap (some s.sel)
      { cls := .lockLost, access := 2, addr := (s.g a + imm i).toNat }) := by
  rw [exec_sul_reached h r landed, if_pos lost]
end

/-! ### The scratch atomics (R166) -/

/-- An atomic by its new value f of the word: it swaps it in where the bit of the word is free for this core, and waits where it is not. -/
theorem amo_swaps {i : Instr} {s : State} {f : Word → Word} {d a : GReg} {rs : List GReg} {k : Nat} {old new : Word}
    (form : exec i s = amo f d a rs s) (h : AvailIssued s rs [d]) (r : Reach s a (s.opd a) 4 4 4 k)
    (read : BitVec.ofNat 32 (s.readNat k 4) = old) (value : f old = new) :
    (s.lockBlocked (lockOf k) = false → Settled s →
      exec i s = .next (((s.lockServed (lockOf k)).storeNat k 4 new.toNat).putG d old).retire) ∧
    (s.lockBlocked (lockOf k) = true → exec i s = .next ((s.lockWait (lockOf k)).parkIssued rs .other)) := by
  subst read value
  rw [form, amo, commonIssued_ok _ h, scalarAt_ok r]
  refine ⟨fun free landed => ?_, fun blocked => ?_⟩
  · simp [free, settled_ok landed, finishIssued, bind, Except.bind]
  · simp [blocked, finishIssued, bind, Except.bind]

theorem slt_iff (x y : Word) : x.slt y = true ↔ x.toInt < y.toInt := by simp [BitVec.slt]

theorem atomicOp_add (c x y : Word) : atomicOp 0 c y x = wrap32 (x.toNat + y.toNat) := by
  rw [wrap32, ← Nat.cast_add, BitVec.ofInt_natCast, BitVec.ofNat_add, BitVec.ofNat_toNat, BitVec.ofNat_toNat]
  simp [atomicOp]

theorem atomicOp_min (c x y : Word) : atomicOp 1 c y x = if x.toInt ≤ y.toInt then x else y := by
  rcases lt_trichotomy x.toInt y.toInt with lt | eq | gt
  · simp [atomicOp, slt_iff, lt, lt.le]
  · simp [BitVec.toInt_inj.mp eq, atomicOp]
  · simp [atomicOp, slt_iff, gt.not_gt, gt.not_ge]

theorem atomicOp_max (c x y : Word) : atomicOp 2 c y x = if x.toInt ≤ y.toInt then y else x := by
  rcases lt_trichotomy x.toInt y.toInt with lt | eq | gt
  · simp [atomicOp, slt_iff, lt, lt.le]
  · simp [BitVec.toInt_inj.mp eq, atomicOp]
  · simp [atomicOp, slt_iff, gt.not_gt, gt.not_ge]

/-- Settles O6: load-lock and store-unlock by the bit held and the bit of the word, the atomics by their codes. -/
theorem locksAndScratchAtomics : Obligations.LocksAndScratchAtomics := by
  intro d a b i k s l old y swaps
  have word : BitVec.ofNat 32 (s.readNat k 4) = old := ofNat_readNat_word s k
  refine ⟨?lld, ?sul, fun h r => ⟨?add, ?min, ?max, ?and, ?or, ?xor, ?swap⟩, fun h r => ?cas⟩
  case lld =>
    intro at_ h r
    have addr : at_ = s.opd a + imm i := wrap32_add_imm _ _
    rw [addr] at r ⊢
    exact ⟨fun none_ free => word ▸ exec_lld_free h r none_ free, exec_lld_blocked h r, exec_lld_holding h r⟩
  case sul =>
    intro at_ h r landed
    have addr : at_ = s.g a + imm i := wrap32_add_imm _ _
    rw [addr] at r ⊢
    exact ⟨fun sound x => exec_sul_held h r landed sound, exec_sul_not_held h r landed, exec_sul_lost h r landed⟩
  case add => exact amo_swaps rfl h r word (atomicOp_add ..)
  case min => exact amo_swaps rfl h r word (atomicOp_min ..)
  case max => exact amo_swaps rfl h r word (atomicOp_max ..)
  case and => exact amo_swaps rfl h r word rfl
  case or => exact amo_swaps rfl h r word rfl
  case xor => exact amo_swaps rfl h r word rfl
  case swap => exact amo_swaps rfl h r word rfl
  case cas => exact amo_swaps rfl h r word rfl

end Sys2Proof.Laws
end

section
/-! Barrier slots (O8). -/

namespace Sys2Proof.Laws

open Machine

/-! ### The operations (R93, R174) -/

section
variable {x : Bar} {n b : Nat}

theorem bar_init_fits (h : n < 2 ^ 16) : Bar.init n b =
    { phase := false, err := false, live := true, isOpen := decide (0 < n + b), ecode := 0, pend := n, bytes := b, chunk := 0 } := by
  simp only [Bar.init, if_pos h, decide_eq_false h.not_ge]

theorem bar_init_over (h : 2 ^ 16 ≤ n) : Bar.init n b =
    { phase := false, err := true, live := true, isOpen := decide (0 < b), ecode := 2, pend := 0, bytes := b, chunk := 0 } := by
  simp only [Bar.init, if_neg h.not_gt, decide_eq_true h, Nat.zero_add]

theorem bar_expect_fits (hp : x.pend + n < 2 ^ 16) (hb : x.bytes + b < 2 ^ 32) :
    x.expect n b false = Bar.flip { x with pend := x.pend + n, bytes := x.bytes + b, isOpen := true } := by
  simp only [Bar.expect, Bool.false_eq_true, if_false, if_pos hp, if_pos hb]

theorem bar_expect_clear (n b : Nat) : x.expect n b true = Bar.expect { x with chunk := 0, err := false, ecode := 0 } n b false := rfl

theorem bar_fail_keeps (x : Bar) (e : Nat) :
    (x.fail e).bytes = x.bytes ∧ { x.fail e with bytes := n, isOpen := true } = Bar.fail { x with bytes := n, isOpen := true } e ∧
      { x.fail e with isOpen := true } = Bar.fail { x with isOpen := true } e := by
  obtain ⟨_, err, _, _, _, _, _, _⟩ := x
  cases err <;> exact ⟨rfl, rfl, rfl⟩

theorem bar_expect_pend_over (hp : 2 ^ 16 ≤ x.pend + n) (hb : x.bytes + b < 2 ^ 32) :
    x.expect n b false = Bar.flip (Bar.fail { x with bytes := x.bytes + b, isOpen := true } 2) := by
  obtain ⟨bytes, kept, -⟩ := bar_fail_keeps (n := x.bytes + b) x 2
  simp only [Bar.expect, Bool.false_eq_true, if_false, if_neg hp.not_gt, bytes, if_pos hb, kept]

theorem bar_expect_bytes_over (hp : x.pend + n < 2 ^ 16) (hb : 2 ^ 32 ≤ x.bytes + b) :
    x.expect n b false = Bar.flip (Bar.fail { x with pend := x.pend + n, isOpen := true } 1) := by
  obtain ⟨-, -, kept⟩ := bar_fail_keeps (n := 0) { x with pend := x.pend + n } 1
  simp only [Bar.expect, Bool.false_eq_true, if_false, if_pos hp, if_neg hb.not_gt, kept]
end

/-- R93, R174. -/
theorem barrierSlotOperations : Claim.BarrierSlotOperations := by
  intro x n b c err flip
  refine ⟨bar_init_fits, bar_init_over, fun hp hb => ⟨bar_expect_fits hp hb, ?_⟩, bar_expect_pend_over, bar_expect_bytes_over,
    fun none_ => if_pos none_, fun some_ => if_neg some_.ne', fun short => if_pos short, fun fits => if_neg fits.not_gt⟩
  exact (bar_expect_clear n b).trans (bar_expect_fits hp hb)

/-! ### A slot in memory (R92) -/

theorem decide_eq_one {b : Bool} {n : Nat} (h : n = b.toNat) : decide (n = 1) = b := by
  rw [h]
  cases b <;> rfl

theorem bar_ofNat_toNat {x : Bar} (ecode : x.ecode < 8) (pend : x.pend < 2 ^ 16) (bytes : x.bytes < 2 ^ 32) :
    x.toNat < 2 ^ 128 ∧ Bar.ofNat x.toNat = x := by
  obtain ⟨phase, err, live, isOpen, ec, pe, by_, chunk⟩ := x
  have h0 := phase.toNat_le
  have h1 := err.toNat_le
  have h2 := live.toNat_le
  have h3 := isOpen.toNat_le
  have h4 := chunk.isLt
  simp only at ecode pend bytes
  simp only [Bar.ofNat, Bar.toNat, Bar.mk.injEq, Nat.testBit_eq_decide_div_mod_eq]
  refine ⟨by omega, decide_eq_one (by omega), decide_eq_one (by omega), decide_eq_one (by omega), decide_eq_one (by omega), by omega,
    by omega, by omega, BitVec.eq_of_toNat_eq ?_⟩
  rw [BitVec.toNat_ofNat]
  omega

/-- R92, R93. -/
theorem barrierSlotReadsBack : Claim.BarrierSlotReadsBack := by
  intro s k x ecode pend bytes
  obtain ⟨fits, back⟩ := bar_ofNat_toNat ecode pend bytes
  refine ⟨?_, fun a outside => read_writeNat_outside s outside⟩
  rw [State.bar, State.putBar, readNat_writeNat, Nat.mod_eq_of_lt (by omega), back]

/-- Settles O8: the operations by what fits in the fields of a slot, the slot read back by its bytes. -/
theorem barrierSlots : Obligations.BarrierSlots := ⟨barrierSlotOperations, barrierSlotReadsBack⟩

end Sys2Proof.Laws
end

section
/-! The barrier instructions (O9). -/

namespace Sys2Proof.Laws

open Machine

theorem settled_false {s : State} (pending : ¬Settled s) : settled s = .error (.wait .other) := await_false _ pending

/-! ### A slot that is reached -/

section
variable {s : State} {a : Word} {k : Nat} (h : SlotAt s a k)
include h

theorem liveAt_of_live (live : (s.bar k).live = true) : liveAt s a = .ok k := by
  rw [liveAt, slotAt_ok h]
  simp [live, bind, Except.bind]

theorem liveAt_of_dead (dead : (s.bar k).live = false) : liveAt s a = .error (.trap { cls := .barDead, addr := a.toNat }) := by
  rw [liveAt, slotAt_ok h]
  simp [check_false, dead, bind, Except.bind]
end

/-! ### The instructions that do not wait (R93, R174) -/

section
variable {s : State} {k : Nat} {a : GReg} (h : SlotAt s (s.g a) k)
include h

/-- Every instruction that first looks for a live slot raises BAR.DEAD of one that is not. -/
theorem raises_barDead {i : Instr} {rs ws : List GReg} {f : Nat → Act State} (form : exec i s = common s rs ws (liveAt s (s.g a) >>= f))
    (regs : Avail s rs [] ws) (dead : (s.bar k).live = false) : Raises i s { cls := .barDead, addr := (s.g a).toNat } := by
  rw [Raises, form, liveAt_of_dead h dead]
  exact common_raises regs _

theorem exec_live {i : Instr} {rs ws : List GReg} {f : Nat → Act State} (form : exec i s = common s rs ws (liveAt s (s.g a) >>= f))
    (regs : Avail s rs [] ws) (live : (s.bar k).live = true) : exec i s = finish s (f k) := by
  rw [form, liveAt_of_live h live]
  exact common_ok _ regs

theorem exec_barInit_live {c b : GReg} (regs : Avail s [c, a, b] [] []) (live : (s.bar k).live = true) :
    Raises (.barInit c a b) s { cls := .barLive, addr := (s.g a).toNat } := by
  show execBarInit c a b s = _
  simp [execBarInit, common_ok _ regs, slotAt_ok h, check_false, live, finish, bind, Except.bind]

/-- The state with a slot that bar.init has made. -/
def initSlot (s : State) (k : Nat) (x : Bar) : State :=
  let t := (s.putBar k x).forgetErr k
  { t with bars := k :: t.bars.filter (· ≠ k) }

theorem exec_barInit_dead {c b : GReg} (regs : Avail s [c, a, b] [] []) (dead : (s.bar k).live = false) :
    exec (.barInit c a b) s = .next (initSlot s k (Bar.init (s.g c).toNat (s.g b).toNat)).retire := by
  show execBarInit c a b s = _
  simp only [execBarInit, common_ok _ regs, slotAt_ok h, check_true _ _ dead, finish, bind, Except.bind]
  rfl
end

/-- R93, R174. -/
theorem barrierUpdates : Claim.BarrierUpdates := by
  intro c a b d k s h x at_ dead
  refine ⟨fun regs => ⟨exec_barInit_live h regs, fun free => ?init, raises_barDead h rfl regs, raises_barDead h rfl regs,
      fun live => ⟨?expect, ?clear⟩⟩,
    fun regs => ⟨raises_barDead h rfl regs, fun live landed => ?arrive, fun live pending => ?pending⟩,
    fun regs => ⟨raises_barDead h rfl regs, fun live => ?test⟩⟩
  case init => exact ⟨_, exec_barInit_dead h regs free, rfl, List.mem_cons_self, rfl⟩
  case expect => exact exec_live h (i := .barExpect c a b) rfl regs live
  case clear => exact exec_live h (i := .barExpectClr c a b) rfl regs live
  case arrive =>
    rw [exec_live h (i := .barArrive a) rfl regs live, settled_ok landed]
    rfl
  case pending =>
    rw [Waits, exec_live h (i := .barArrive a) rfl regs live, settled_false pending]
    rfl
  case test =>
    rw [← ofNat_readNat_word]
    exact exec_live h (i := .barTest d a b) rfl regs live

/-! ### The instructions that wait after their issue (R93, R175, R176, R411) -/

section
variable {s : State} {k : Nat} {a : GReg} (h : SlotAt s (s.opd a) k)
include h

/-- The observation of a slot, by what stands in it. -/
theorem waits_forms {i : Instr} {rs : List GReg} {ends : Bar → Bool} {ended : Prop}
    (form : exec i s = commonIssued s rs [] (barWait s (s.opd a) ends)) (regs : AvailIssued s rs []) (iff : ends (s.bar k) = true ↔ ended) :
    ((s.bar k).live = false → Raises i s { cls := .barDead, addr := (s.opd a).toNat }) ∧
    ((s.bar k).live = true → s.core.wait ≠ .barGone →
      ((s.bar k).err = true → Raises i s (barError s k (s.opd a))) ∧
      ((s.bar k).err = false → ended → exec i s = .next s.retire) ∧
      ((s.bar k).err = false → ¬ended → exec i s = .next (s.parkIssued rs (.bar k (isTileKey k))))) ∧
    (s.core.wait = .barGone → Raises i s { cls := .barDead, addr := (s.opd a).toNat }) := by
  have run : exec i s = finishIssued s rs (do
      check (s.core.wait ≠ .barGone ∧ (s.bar k).live = true) { cls := .barDead, addr := (s.opd a).toNat }
      check ((s.bar k).err = false) (barError s k (s.opd a))
      await (ends (s.bar k) = true) (.bar k (isTileKey k))
      .ok s.retire) := by
    rw [form, commonIssued_ok _ regs, barWait, slotAt_ok h]
    rfl
  have gone (no : ¬(s.core.wait ≠ .barGone ∧ (s.bar k).live = true)) : Raises i s { cls := .barDead, addr := (s.opd a).toNat } := by
    rw [Raises, run, check_false _ no]
    rfl
  refine ⟨fun dead => gone (by simp [dead]), fun live there => ?_, fun g => gone (by simp [g])⟩
  rw [Raises, run, check_true _ _ ⟨there, live⟩]
  refine ⟨fun err => ?_, fun sound e => ?_, fun sound e => ?_⟩
  · rw [check_false _ (by simp [err])]
    rfl
  · rw [check_true _ _ sound, await_true _ _ (iff.mpr e)]
    rfl
  · rw [check_true _ _ sound, await_false _ (mt iff.mp e)]
    rfl

variable (regs : AvailIssued s [a] [])
include regs

theorem exec_barRetire_dead (dead : (s.bar k).live = false) : Raises (.barRetire a) s { cls := .barDead, addr := (s.opd a).toNat } := by
  show execBarRetire a s = _
  rw [execBarRetire, commonIssued_ok _ regs, liveAt_of_dead h dead]
  rfl

/-- With no operation's fault to report, bar.retire retires the slot once nothing that names it is under way. -/
theorem exec_barRetire_live (live : (s.bar k).live = true)
    (silent : ((s.tile.naming k).findSome? fun o => if o.reported then none else o.fault) = none) :
    exec (.barRetire a) s = finishIssued s [a] (do
      await ((s.tile.naming k).all (fun o => o.fault.isSome) = true ∧
        s.reqs.all (fun r => r.tid != s.tile.task.id || (r.dbar != some k && r.sbar != some k)) = true) .other
      .ok (s.retireSlot k).retire) := by
  show execBarRetire a s = _
  rw [execBarRetire, commonIssued_ok _ regs, liveAt_of_live h live]
  simp only [bind, Except.bind, silent]
end

theorem retireSlot_mem (s : State) (k : Nat) : (s.retireSlot k).mem = (s.writeNat k 16 0).mem := by
  unfold State.retireSlot
  simp only
  split <;> rfl

/-- R93, R175, R176. -/
theorem barrierWaits : Claim.BarrierWaits := by
  intro c a b k s h x at_ m dead waits
  refine ⟨fun regs => waits_forms h rfl regs beq_iff_eq, fun regs => waits_forms h rfl regs bne_iff_ne, fun regs =>
    ⟨exec_barRetire_dead h regs, fun live unnamed others => ⟨?_, retireSlot_mem s k⟩, fun live ⟨o, named, runs⟩ quiet => ?_⟩⟩
  · have silent : ((s.tile.naming k).findSome? fun o => if o.reported then none else o.fault) = none := by rw [unnamed]; rfl
    rw [exec_barRetire_live h regs live silent, await_true _ _ ⟨by rw [unnamed]; rfl, by simpa using others⟩]
    rfl
  · have silent : ((s.tile.naming k).findSome? fun o => if o.reported then none else o.fault) = none :=
      List.findSome?_eq_none_iff.mpr fun o ho => by rcases quiet o ho with e | e <;> simp [e]
    have busy : (s.tile.naming k).all (fun o => o.fault.isSome) ≠ true := fun e => by simpa [runs] using List.all_eq_true.mp e o named
    rw [exec_barRetire_live h regs live silent, await_false _ fun e => busy e.1]
    rfl

/-- Settles O9: the instructions by whether their slot is live, those that wait by `waits_forms`. -/
theorem barrierInstructions : Obligations.BarrierInstructions := ⟨barrierUpdates, barrierWaits⟩

end Sys2Proof.Laws
end

section
/-! The handle instructions (O12). -/

namespace Sys2Proof.Laws

open Machine

/-! ### The fields of a handle (R86, R182) -/

theorem getLsbD_putField {w : Nat} (x : BitVec w) (lo n y : Nat) {j : Nat} (hj : j < w) :
    (putField x lo n y).getLsbD j = if lo ≤ j ∧ j < lo + n then y.testBit (j - lo) else x.getLsbD j := by
  simp only [putField, BitVec.getLsbD_or, BitVec.getLsbD_and, BitVec.getLsbD_not, BitVec.getLsbD_shiftLeft, BitVec.getLsbD_ofNat,
    Nat.testBit_two_pow_sub_one, hj, show j - lo < w by omega]
  by_cases low : j < lo
  · simp [low, low.not_ge]
  · by_cases high : j < lo + n
    · simp [low, high, show lo ≤ j by omega, show j - lo < n by omega]
    · simp [low, high, show ¬j - lo < n by omega]

/-- The field codes with the lowest bit and the width of their fields (R182). -/
def handleFields : List (BitVec 5 × Nat × Nat) :=
  [(0, 0, 32), (1, 32, 16), (2, 48, 2), (3, 50, 4), (4, 54, 16), (5, 70, 16), (6, 86, 16), (7, 102, 16), (8, 118, 32), (9, 150, 32),
   (10, 182, 32), (11, 214, 24), (12, 238, 1), (13, 239, 1), (14, 246, 10)]

theorem hField_eq {f : BitVec 5} {lo n : Nat} (h : (f, lo, n) ∈ handleFields) : hField f.toNat = (lo, n) :=
  have table : ∀ y ∈ handleFields, hField y.1.toNat = y.2 := by decide
  table _ h

/-! ### Checks of a handle instruction (R89, R444) -/

section
variable {s : State}

theorem regError_ok {h : HReg} (clean : Reg.h h ∉ s.core.bad) : regError s [.h h] = .ok () := check_true _ _ (by simpa using clean)

theorem awaitUnlocked_ok {h : HReg} (free : ¬(s.sel = .compute ∧ s.tile.locked h = true)) : awaitUnlocked s h = .ok () := await_true _ _ free

theorem awaitUnlocked_locked {h : HReg} (locked : s.sel = .compute ∧ s.tile.locked h = true) :
    awaitUnlocked s h = .error (.wait .other) := await_false _ (not_not_intro locked)
end

/-! ### The instructions (R182, R183) -/

section
variable {s : State} {h : HReg}

section
variable {a : GReg} {k : Nat} (regs : Avail s [a] [] [])
include regs

theorem exec_hld_reached (r : Reach s a (s.g a) 32 32 1 k) : exec (.hld h a) s = finish s (do
    check (Handle.fmt (BitVec.ofNat 256 (s.readNat k 32)) ≤ 10) { cls := .tagCheck }
    awaitUnlocked s h
    .ok (s.putH h (BitVec.ofNat 256 (s.readNat k 32))).retire) := by
  show execHld h a s = _
  rw [execHld, common_ok _ regs, scalarAt_ok r]
  rfl

theorem exec_hst_reached (clean : Reg.h h ∉ s.core.bad) (r : Reach s a (s.g a) 32 32 2 k) :
    exec (.hst h a) s = .next (s.storeNat k 32 (s.h h).toNat).retire := by
  show execHst h a s = _
  rw [execHst, common_ok _ regs, regError_ok clean, scalarAt_ok r]
  rfl

theorem exec_hset_clean (clean : Reg.h h ∉ s.core.bad) {f : BitVec 5} {lo n : Nat} (field : hField f.toNat = (lo, n)) :
    exec (.hset h a f) s = finish s (do
      check (f ≠ 3 ∨ (s.g a).toNat % 16 ≤ 10) { cls := .tagCheck }
      awaitUnlocked s h
      .ok (s.putH h (putField (s.h h) lo n (s.g a).toNat)).retire) := by
  show execHset h a f s = _
  rw [execHset, common_ok _ regs, regError_ok clean, field]
  rfl
end

theorem gives_hget {d : GReg} {f : BitVec 5} {lo n : Nat} (regs : Avail s [] [] [d]) (clean : Reg.h h ∉ s.core.bad)
    (field : hField f.toNat = (lo, n)) : Gives (.hget d h f) s d (wrap32 (fld lo n (s.h h) : BitVec n).toNat) := by
  show execHget d h f s = _
  rw [execHget, field]
  simp only [common_ok _ regs, regError_ok clean]
  rw [wrap32, BitVec.ofInt_natCast, fld, BitVec.extractLsb'_toNat, Nat.shiftRight_eq_div_pow]
  rfl

theorem exec_hmov_clean {m : HReg} (regs : Avail s [] [] []) (clean : Reg.h m ∉ s.core.bad) :
    exec (.hmov h m) s = finish s (do awaitUnlocked s h; .ok (s.putH h (s.h m)).retire) := by
  show execHmov h m s = _
  rw [execHmov, common_ok _ regs, regError_ok clean]
  rfl
end

/-- Settles O12: each instruction by its tag check and by whether the handle that it writes is locked. -/
theorem handleInstructions : Obligations.HandleInstructions := by
  intro h m a d f lo n k s locked fields word
  refine ⟨fun regs r => ⟨fun (legal : Handle.fmt (BitVec.ofNat 256 (s.readNat k 32)) ≤ 10) free => ?hld,
      fun (legal : Handle.fmt (BitVec.ofNat 256 (s.readNat k 32)) ≤ 10) held => ?hldWaits,
      fun (illegal : 10 < Handle.fmt (BitVec.ofNat 256 (s.readNat k 32))) => ?hldRaises⟩,
    fun regs clean r => exec_hst_reached regs clean r,
    fun regs clean mem => ⟨fun illegal => ?hsetRaises, fun legal free => ?hset, fun legal held => ?hsetWaits⟩,
    fun regs clean mem => gives_hget regs clean (hField_eq mem),
    fun regs clean => ⟨fun free => ?hmov, fun held => ?hmovWaits⟩⟩
  case hld => rw [exec_hld_reached regs r, check_true _ _ legal, awaitUnlocked_ok free]; rfl
  case hldWaits => rw [Waits, exec_hld_reached regs r, check_true _ _ legal, awaitUnlocked_locked held]; rfl
  case hldRaises => rw [Raises, exec_hld_reached regs r, check_false _ illegal.not_ge]; rfl
  case hsetRaises =>
    rw [Raises, exec_hset_clean regs clean (hField_eq mem), check_false _ (by simpa using illegal)]
    rfl
  case hset =>
    refine ⟨putField (s.h h) lo n (s.g a).toNat, ?_, fun j hj => getLsbD_putField _ _ _ _ hj⟩
    rw [exec_hset_clean regs clean (hField_eq mem), check_true _ _ (by simpa [imp_iff_not_or] using legal), awaitUnlocked_ok free]
    rfl
  case hsetWaits =>
    rw [Waits, exec_hset_clean regs clean (hField_eq mem), check_true _ _ (by simpa [imp_iff_not_or] using legal),
      awaitUnlocked_locked held]
    rfl
  case hmov => rw [exec_hmov_clean regs clean, awaitUnlocked_ok free]; rfl
  case hmovWaits => rw [Waits, exec_hmov_clean regs clean, awaitUnlocked_locked held]; rfl

end Sys2Proof.Laws
end

section
/-! Private instructions that are ready: the state that their bodies start from, and how they end (R43, R212). -/

namespace Sys2Proof.Laws

open Machine

/-! ### The state that a body starts from -/

/-- The tile in focus with its token queues replaced. -/
def withQueues (s : State) (q : Queues) : State := s.setTile { s.tile with q := q }

/-- The tile in focus with its ports replaced. -/
def withPorts (s : State) (ps : Vector Port 6) : State := s.setTile { s.tile with ports := ps }

theorem withTokens_eq (s : State) (k : Tok) (x : Slot) : ∃ q, withTokens s k x = withQueues s q := by
  have step (yes : Bool) (y z : CoreId) (f : Queue → Queue) {t : State} (h : ∃ q, t = withQueues s q) :
      ∃ q, (if yes then mapQueue t y z f else t) = withQueues s q := by
    obtain ⟨q, rfl⟩ := h
    split
    · exact ⟨_, rfl⟩
    · exact ⟨q, rfl⟩
  have start : s = withQueues s s.tile.q := rfl
  exact step _ _ _ _ (step _ _ _ _ (step _ _ _ _ (step _ _ _ _ ⟨_, start⟩)))

theorem popOne_eq {s u : State} {c : VCode} {x : BitVec 2048} (e : popOne s c = .ok (x, u)) : ∃ ps, u = withPorts s ps := by
  unfold popOne at e
  split at e
  · cases hk : portKey s c 1 with
    | error h => rw [hk] at e; exact nomatch e
    | ok k =>
      simp only [hk, bind, Except.bind, Except.ok.injEq, Prod.mk.injEq] at e
      exact ⟨_, e.2.symm⟩
  · cases e; exact ⟨s.tile.ports, rfl⟩

/-! Queues and ports moved: what an instruction reads stays. -/

section
variable (s : State) (q : Queues) (ps : Vector Port 6)

theorem core_of_cores {t u : Tile} (load : u.lc = t.lc) (compute : u.cc = t.cc) (store : u.sc = t.sc) (c : CoreId) :
    u.core c = t.core c := by cases c <;> assumption

@[simp] theorem withQueues_core : (withQueues s q).core = s.core := core_of_cores rfl rfl rfl _
@[simp] theorem withPorts_core : (withPorts s ps).core = s.core := core_of_cores rfl rfl rfl _

@[simp] theorem withQueues_g (r : GReg) : (withQueues s q).g r = s.g r := congrArg (·.rg r) (withQueues_core s q)

@[simp] theorem withQueues_h (r : HReg) : (withQueues s q).h r = s.h r :=
  congrArg (fun c : CoreSt => Handle.withLock (c.h[r.toNat]'r.isLt) (decide (s.sel = .compute) && s.tile.locked r)) (withQueues_core s q)
end

/-! What the ring, the array and the memory show. -/

section
variable (s : State) (q : Queues) (ps : Vector Port 6)

@[simp] theorem withQueues_occupancy : (withQueues s q).tile.occupancy = s.tile.occupancy := rfl
@[simp] theorem withQueues_newest : (withQueues s q).tile.newest = s.tile.newest := rfl
@[simp] theorem withQueues_ringHd : (withQueues s q).tile.ringHd = s.tile.ringHd := rfl
@[simp] theorem withQueues_ringTl : (withQueues s q).tile.ringTl = s.tile.ringTl := rfl
@[simp] theorem withQueues_working : (withQueues s q).tile.working = s.tile.working := rfl
@[simp] theorem withQueues_epis : (withQueues s q).tile.epis = s.tile.epis := rfl
@[simp] theorem withQueues_srcTag : (withQueues s q).tile.srcTag = s.tile.srcTag := rfl
@[simp] theorem withQueues_accKey : accKey (withQueues s q).tile = accKey s.tile := rfl
@[simp] theorem withQueues_poisoned : (withQueues s q).poisoned = s.poisoned := rfl
@[simp] theorem withQueues_readNat : (withQueues s q).readNat = s.readNat := rfl

@[simp] theorem withPorts_occupancy : (withPorts s ps).tile.occupancy = s.tile.occupancy := rfl
@[simp] theorem withPorts_newest : (withPorts s ps).tile.newest = s.tile.newest := rfl
@[simp] theorem withPorts_working : (withPorts s ps).tile.working = s.tile.working := rfl
end

/-! ### How an instruction of the class priv ends -/

/-- One whose body stops waits or traps with nothing done: its tokens stay where they were. -/
theorem priv_stops {s : State} {k : Tok} {x : Slot} {dec : Act Unit} {rs : List GReg} {os : List Reg} {ws : List GReg}
    {body : State → Act State} {h : Halt} (hd : dec = .ok ()) (ht : TokensReady s k) (ha : Avail s rs os ws)
    (hb : body (withTokens s k x) = .error h) : priv s k x dec rs os ws body = finish s (.error h) := by
  simp only [priv, hd, tokens_ok x ht, hazards_ok ha, hb, bind, Except.bind]

end Sys2Proof.Laws
end

section
/-! The accumulator ring: rnext and rzero. -/

namespace Sys2Proof.Laws

open Machine

/-! ### rnext and rzero (R90, R249, R250) -/

/-- The next slot of the ring zeroed and pushed. -/
def pushSlot (s : State) : State :=
  (s.zeroBytes (ringKey s.tile.ptile.toNat (s.tile.ringHd.toNat % 8)) 16384).setTile { s.tile with ringHd := s.tile.ringHd + 1 }

/-- The newest slot of the ring zeroed. -/
def zeroNewest (s : State) : State := s.zeroBytes (ringKey s.tile.ptile.toNat s.tile.newest) 16384

section
variable {s : State} {k : Tok} (ready : TokensReady s k) (regs : Avail s [] [] [])
include ready regs

theorem raises_rnext_full (full : s.tile.occupancy = 8) : Raises (.rnext k) s { cls := .ringFull } := by
  obtain ⟨q, moved⟩ := withTokens_eq s k s.token
  refine priv_stops (h := .trap { cls := .ringFull }) rfl ready regs ?_
  simp [moved, full, check_false, bind, Except.bind]

theorem exec_rnext_room (room : s.tile.occupancy ≠ 8) (free : ∀ e ∈ s.tile.epis, e.slot.toNat % 8 ≠ s.tile.ringHd.toNat % 8) :
    ∃ q, exec (.rnext k) s = .next ((pushSlot (withQueues s q)).retirePriv k.stall) := by
  obtain ⟨q, moved⟩ := withTokens_eq s k s.token
  have unread : (s.tile.epis.any fun e => e.slot.toNat % 8 == s.tile.ringHd.toNat % 8) = false := by simpa using free
  refine ⟨q, priv_ok rfl ready regs ?_⟩
  simp [moved, room, unread, bind, Except.bind, pushSlot]

theorem raises_rzero_empty (empty : s.tile.occupancy = 0) : Raises (.rzero k) s { cls := .ringEmpty } := by
  obtain ⟨q, moved⟩ := withTokens_eq s k s.token
  refine priv_stops (h := .trap { cls := .ringEmpty }) rfl ready regs ?_
  simp [moved, ringUsed, empty, check_false, bind, Except.bind]

variable (used : s.tile.occupancy ≠ 0)
include used

theorem waits_rzero_working (works : s.tile.working s.tile.newest = true) : Waits (.rzero k) s .other := by
  obtain ⟨q, moved⟩ := withTokens_eq s k s.token
  refine priv_stops (h := .wait .other) rfl ready regs ?_
  simp [moved, ringUsed, used, ringOrder, works, await_false, bind, Except.bind]

theorem exec_rzero_used (idle : s.tile.working s.tile.newest = false) :
    ∃ q, exec (.rzero k) s = .next ((zeroNewest (withQueues s q)).retirePriv k.stall) := by
  obtain ⟨q, moved⟩ := withTokens_eq s k s.token
  refine ⟨q, priv_ok rfl ready regs ?_⟩
  simp [moved, ringUsed, used, ringOrder, idle, bind, Except.bind, zeroNewest]
end

/-- R90, R248 to R250. -/
theorem ringInstructions : Claim.RingInstructions := by
  intro k s ready regs n clears
  refine ⟨raises_rnext_full ready regs, fun room free => ?_, raises_rzero_empty ready regs, waits_rzero_working ready regs,
    fun used idle => ?_⟩
  · obtain ⟨q, done⟩ := exec_rnext_room ready regs room free
    exact ⟨_, done, fun a => read_zero s.mem _ _ a, rfl, rfl, core_of_cores rfl rfl rfl _⟩
  · obtain ⟨q, done⟩ := exec_rzero_used ready regs used idle
    exact ⟨_, done, fun a => read_zero s.mem _ _ a, rfl, rfl, withQueues_core s q⟩

end Sys2Proof.Laws
end

section
/-! The instructions on the accumulators: mscale, vrdacc and epi (O35). -/

namespace Sys2Proof.Laws

open Machine

/-! ### The accumulators of a slot (R90) -/

theorem accKey_eq (t : Tile) (slot i j : Nat) : accKey t slot i j = accKey t slot i 0 + 4 * j := by
  unfold accKey
  omega

theorem accKey_row (t : Tile) (slot i : Nat) : accKey t slot i 0 = accKey t slot 0 0 + 256 * i := by
  unfold accKey
  omega

section
variable (s : State) (slot : Nat) {i j : Nat} (l : List Nat)

/-- A row of words written: word j of that row, and every word of another row as it was. -/
theorem readNat_writeRow_same (full : l.length = 64) (hj : j < 64) :
    (s.writeBytes (accKey s.tile slot i 0) (wordBytes l)).readNat (accKey s.tile slot i j) 4 = nth l j % 2 ^ 32 := by
  have inside : j < l.length := full.symm ▸ hj
  have fits : 4 * j + 4 ≤ (wordBytes l).length := by rw [wordBytes_length]; omega
  rw [accKey_eq s.tile slot i j, readNat_writeBytes_inside _ _ fits, wordBytes_word l inside, leNat_leBytes, nth,
    List.getElem?_eq_getElem inside]
  rfl

theorem readNat_writeRow_other {r : Nat} (full : l.length = 64) (other : i ≠ r) (hj : j < 64) :
    (s.writeBytes (accKey s.tile slot r 0) (wordBytes l)).readNat (accKey s.tile slot i j) 4 = s.readNat (accKey s.tile slot i j) 4 := by
  refine readNat_writeBytes_outside _ ?_
  rw [wordBytes_length, full, accKey_eq s.tile slot i j, accKey_row s.tile slot i, accKey_row s.tile slot r]
  omega
end

/-! ### mscale (R256) -/

/-- An accumulator multiplied by a factor. -/
def scaled (x y : Nat) : Nat := fpRound .fp32 .rne 0 ((fpVal .fp32 x).mul (fpVal .fp32 y))

theorem scaled_lt (x y : Nat) : scaled x y < 2 ^ 32 := fpRound_lt (f := .fp32) rfl _ _ _

/-- The first m rows of a slot multiplied by the factors f. -/
def scaleRows (slot : Nat) (f : Nat → Nat → Nat) (s : State) (m : Nat) : State :=
  (List.range m).foldl (fun t i => t.writeBytes (accKey t.tile slot i 0) (wordBytes (scaleRow t slot i (f i)))) s

section
variable (s : State) (slot : Nat) (f : Nat → Nat → Nat)

theorem scaleRows_succ (m : Nat) : scaleRows slot f s (m + 1) =
    (scaleRows slot f s m).writeBytes (accKey (scaleRows slot f s m).tile slot m 0)
      (wordBytes (scaleRow (scaleRows slot f s m) slot m (f m))) := by
  rw [scaleRows, List.range_succ, List.foldl_append]
  rfl

theorem scaleRows_same (m : Nat) : (scaleRows slot f s m).tile = s.tile ∧ (scaleRows slot f s m).core = s.core := by
  induction m with
  | zero => exact ⟨rfl, rfl⟩
  | succ m ih => rw [scaleRows_succ]; exact ih

theorem nth_scaleRow {i j : Nat} (g : Nat → Nat) (hj : j < 64) :
    nth (scaleRow s slot i g) j = scaled (s.readNat (accKey s.tile slot i j) 4) (g j) := by
  simp [scaleRow, nth, hj, scaled]

theorem readNat_scaleRows (m : Nat) {i j : Nat} (hj : j < 64) : (scaleRows slot f s m).readNat (accKey s.tile slot i j) 4 =
    if i < m then scaled (s.readNat (accKey s.tile slot i j) 4) (f i j) else s.readNat (accKey s.tile slot i j) 4 := by
  induction m with
  | zero => rfl
  | succ m ih =>
    obtain ⟨tile, -⟩ := scaleRows_same s slot f m
    have full : (scaleRow (scaleRows slot f s m) slot m (f m)).length = 64 := by simp [scaleRow]
    rw [scaleRows_succ]
    by_cases here : i = m
    · subst here
      have row := readNat_writeRow_same (scaleRows slot f s i) slot (i := i) _ full hj
      rw [nth_scaleRow _ _ _ hj, Nat.mod_eq_of_lt (scaled_lt ..), tile, ih, if_neg (Nat.lt_irrefl i)] at row
      rw [if_pos (Nat.lt_succ_self i), tile]
      exact row
    · have row := readNat_writeRow_other (scaleRows slot f s m) slot _ full here hj
      rw [tile, ih] at row
      rw [tile, row]
      exact if_congr (by omega) rfl rfl
end

/-! What an instruction with one vector source and no destination reads. -/

theorem nth_lanes (x : BitVec 2048) {e : Nat} (h : e < 64) : nth (lanes x) e = elemAt .int32 x e := by
  have elems : e < Fmt.int32.elems := h
  rw [lanes, unpack_eq, nth, List.getElem?_map, List.getElem?_range elems]
  rfl

theorem popAll_one {s u : State} {c : VCode} {xs : List (BitVec 2048)} (e : popAll s [c] = .ok (xs, u)) :
    ∃ x, popOne s c = .ok (x, u) ∧ xs = [x] := by
  cases hx : popOne s c with
  | error h => rw [popAll, hx] at e; exact nomatch e
  | ok y => simp only [popAll, hx, bind, Except.bind] at e; cases e; exact ⟨_, rfl, rfl⟩

theorem pushKey_register {u w : State} {d : VCode} {key : Option Nat} (h : isPort d = false) (e : pushKey u d = .ok (key, w)) : w = u := by
  rw [pushKey, h] at e
  cases e
  rfl

theorem vregRange_ok {s : State} {cs : List VCode} (h : ∀ c ∈ cs, isVReg c = true → c.toNat < s.tile.vallot.toNat) :
    vregRange s cs = .ok () :=
  check_true _ _ (List.all_eq_true.mpr fun c mem => by simpa [← Bool.not_eq_true, imp_iff_not_or] using h c mem)

section
variable (s : State) (q : Queues) (ps : Vector Port 6)

theorem withQueues_slotClean (slot n : Nat) (l : List Nat) : slotClean (withQueues s q) slot n l = slotClean s slot n l := by
  induction l with
  | nil => rfl
  | cons i l ih => rw [slotClean, slotClean, ih]; rfl

theorem withPorts_slotClean (slot n : Nat) (l : List Nat) : slotClean (withPorts s ps) slot n l = slotClean s slot n l := by
  induction l with
  | nil => rfl
  | cons i l ih => rw [slotClean, slotClean, ih]; rfl
end

/-- An mscale that is ready multiplies each accumulator of the newest slot by its lane of the vector. -/
theorem mscale_scales {i : Instr} {s w : State} {k : Tok} {v : VCode} {xs : List (BitVec 2048)} {lane : Nat → Nat → Nat}
    (form : exec i s = mscale lane k v s) (within : ∀ q r, q < 64 → r < 64 → lane q r < 64) (ready : VecReady s k 62 [v] [] [] 0 xs none w)
    (tag : s.tile.srcTag v = some .fp32) (used : s.tile.occupancy ≠ 0) (idle : s.tile.working s.tile.newest = false)
    (sound : slotClean s s.tile.newest 64 (List.range 64) = .ok ()) :
    ∃ t : State, exec i s = .next (t.retirePriv k.stall) ∧ t.core = w.core ∧ ∀ q r, q < 64 → r < 64 →
      t.readNat (accKey s.tile s.tile.newest q r) 4 =
        scaled (s.readNat (accKey s.tile s.tile.newest q r) 4) (elemAt .int32 (arg0 xs) (lane q r)) := by
  obtain ⟨range, tokens, regs, ⟨u, pops, push⟩, clean⟩ := ready
  rw [List.append_nil] at regs
  obtain ⟨q, moved⟩ := withTokens_eq s k (s.lateToken 62 0)
  obtain rfl := pushKey_register rfl push
  obtain ⟨x, pop, rfl⟩ := popAll_one pops
  obtain ⟨ps, rfl⟩ := popOne_eq (moved ▸ pop)
  refine ⟨scaleRows s.tile.newest (fun a b => nth (lanes x) (lane a b)) (withPorts (withQueues s q) ps) 64, ?_, (scaleRows_same ..).2,
    fun a b ha hb => ?_⟩
  · rw [form, mscale]
    refine priv_ok (vregRange_ok fun c mem => range c (List.mem_cons_of_mem _ mem)) tokens (x := s.lateToken 62 0) regs ?_
    rw [moved] at pop clean ⊢
    simp only [withQueues_srcTag, tag, pop, ringUsed, withPorts_occupancy, withQueues_occupancy, ne_eq, used, not_false_eq_true, ringOrder,
      withPorts_working, withPorts_newest, withQueues_working, withQueues_newest, idle, clean, withPorts_slotClean, withQueues_slotClean,
      sound, check_true, await_true, bind, Except.bind]
    rfl
  · have row := readNat_scaleRows (withPorts (withQueues s q) ps) s.tile.newest (fun a b => nth (lanes x) (lane a b)) 64 (i := a) hb
    rw [if_pos ha, nth_lanes x (within a b ha hb)] at row
    exact row

/-! ### vrdacc (R261) -/

/-- The accumulators that a selector word names, one for each lane: a column of a slot with bit 9 set, else a row. -/
def selected (t : Tile) (n slot j : Nat) : Nat := if n / 512 % 2 = 1 then accKey t slot j (n % 64) else accKey t slot (n % 64) j

theorem selected_eq (t : Tile) (n slot j : Nat) : selected t n slot j =
    ringKey t.ptile.toNat slot + 4 * (if n / 512 % 2 = 1 then 64 * j + n % 64 else 64 * (n % 64) + j) := by
  rw [selected]
  split <;> rfl

theorem selector_fields {w : Word} (h : w.toNat < 1024) : fld 10 22 w = (0 : BitVec 22) ∧ (fld 6 3 w : BitVec 3).toNat = w.toNat / 64 % 8 ∧
    (fld 0 6 w : BitVec 6).toNat = w.toNat % 64 ∧ (w.getLsbD 9 = true ↔ w.toNat / 512 % 2 = 1) := by
  have shift (lo n : Nat) : (fld lo n w : BitVec n).toNat = w.toNat / 2 ^ lo % 2 ^ n := by
    rw [fld, BitVec.extractLsb'_toNat, Nat.shiftRight_eq_div_pow]
  refine ⟨BitVec.eq_of_toNat_eq ?_, shift 6 3, ?_, ?_⟩
  · rw [shift, Nat.div_eq_of_lt (show w.toNat < 2 ^ 10 from h)]
    rfl
  · rw [shift, Nat.pow_zero, Nat.div_one]
    rfl
  · rw [BitVec.getLsbD, Nat.testBit_eq_decide_div_mod_eq, decide_eq_true_iff]

/-- A vrdacc that is ready gives the accumulators that its selector word names. -/
theorem vrdacc_gives {s : State} {k : Tok} {v : VCode} {g : GReg} {slot : Nat} (range : v.toNat < s.tile.vallot.toNat)
    (ready : TokensReady s k) (regs : Avail s [g] [] []) (small : (s.g g).toNat < 1024)
    (at_ : slot = (s.tile.ringTl.toNat + (s.g g).toNat / 64 % 8) % 8) (used : (s.g g).toNat / 64 % 8 < s.tile.occupancy)
    (idle : s.tile.working slot = false) (sound : ∀ j, j < 64 → s.poisoned (selected s.tile (s.g g).toNat slot j) 4 = false) :
    ∃ x : BitVec 2048, exec (.vrdacc k v g) s = .next (((withTokens s k s.token).result 0 (.v v.toNat x .fp32)).retirePriv k.stall) ∧
      ∀ j, j < 64 → elemAt .fp32 x j = s.readNat (selected s.tile (s.g g).toNat slot j) 4 := by
  obtain ⟨q, moved⟩ := withTokens_eq s k s.token
  obtain ⟨zero, ring, line, column⟩ := selector_fields small
  have keys (j : Nat) : (if (s.g g).getLsbD 9 = true then accKey s.tile slot j ((s.g g).toNat % 64)
      else accKey s.tile slot ((s.g g).toNat % 64) j) = selected s.tile (s.g g).toNat slot j := if_congr column rfl rfl
  have sound : (List.range 64).all (fun j => !s.poisoned (selected s.tile (s.g g).toNat slot j) 4) = true :=
    List.all_eq_true.mpr fun j hj => by simp [sound j (List.mem_range.mp hj)]
  refine ⟨pack .int32 ((List.range Fmt.int32.elems).map fun j => s.readNat (selected s.tile (s.g g).toNat slot j) 4), ?_, fun j hj => ?_⟩
  · show execVrdacc k v g s = _
    rw [execVrdacc]
    refine priv_ok (vregRange_ok (by simpa using fun _ => range)) ready regs ?_
    simp only [moved, withQueues_g, zero, ring, line, withQueues_occupancy, withQueues_ringTl, ← at_, ringOrder, withQueues_working, idle,
      withQueues_accKey, withQueues_poisoned, withQueues_readNat, keys, sound, used, check_true, await_true, bind, Except.bind, and_self]
    rfl
  · exact (elemAt_pack_map_range (f := .int32) _ hj).trans (Nat.mod_eq_of_lt (readNat_lt s _ 4))

/-! ### epi (R69, R257, R258) -/

theorem afterDraws_eq (l : Word) (n : Nat) : afterDraws l n = drawn true l n := by
  induction n generalizing l with
  | zero => rfl
  | succ n ih => rw [afterDraws, ih, drawIf_eq, drawn_drawn, Nat.add_comm]

theorem ite_afterDraws (c : Prop) [Decidable c] (l : Word) (n : Nat) :
    (if c then afterDraws l n else l) = drawn (decide c) l n := by
  by_cases h : c
  · rw [if_pos h, decide_eq_true h, afterDraws_eq]
  · rw [if_neg h, decide_eq_false h]
    rfl

section
variable (s : State) (q : Queues)

theorem withQueues_spansOk (acc : Nat) (l : List (Int × Nat)) : spansOk (withQueues s q) acc l = spansOk s acc l := by
  induction l with
  | nil => rfl
  | cons x l ih => rw [spansOk, spansOk, ih]; rfl

theorem withQueues_spansClean (l : List (Int × Nat)) : spansClean (withQueues s q) l = spansClean s l := by
  induction l with
  | nil => rfl
  | cons x l ih => rw [spansClean, spansClean, ih]; rfl

theorem withQueues_handleForm (h : Handle) (far own : Bool) : handleForm (withQueues s q) h far own = handleForm s h far own := rfl
end

/-- The tile's epilogue queue, ring and draws once a command with m rows of n columns has been accepted, and its completion to come. -/
def acceptEpi (s : State) (e : Handle) (word bias : Word) (m n : Nat) : State :=
  (s.setTile { s.tile with
    epis := s.tile.epis ++ [{ id := s.tile.nextId, h := e, cmd := word, bias := bias, slot := s.tile.ringTl, lfsr := s.tile.lfsre }]
    nextId := s.tile.nextId + 1, ringTl := s.tile.ringTl + 1
    lfsre := drawn (decide (fld 0 3 word = (4 : BitVec 3))) s.tile.lfsre (m * n) }).after (26 + m * n / 64) .epiCompletion (.tile s.tile.ptile)

/-- The checks of an epi with command word, parameter block and handle e (R257, R258). -/
structure EpiOk (s : State) (word bias : Word) (e : Handle) : Prop where
  cmd : fld 0 3 word ≤ (4 : BitVec 3) ∧ epiAct word ≠ 3 ∧ fld 7 25 word = (0 : BitVec 25)
  handle : HandleOk s e false true
  level : Handle.level e = 0
  writable : Handle.ro e = false
  shape : 1 ≤ Handle.ext e 0 ∧ Handle.ext e 0 ≤ 64 ∧ 1 ≤ Handle.ext e 1 ∧ Handle.ext e 1 ≤ 64 ∧ Handle.ext e 2 = 1 ∧
    Handle.ext e 3 = 1
  aligned : Handle.base e % Handle.width e = 0 ∧ Handle.str e 1 % (Handle.width e : Int) = 0
  block : epiParams word (Handle.ext e 0) = [] ∨ bias.toNat % 4 = 0
  rows : spansOk s 2 ((List.range (Handle.ext e 1)).map fun i => (rowAt e i, Handle.ext e 0 * Handle.width e)) = .ok ()
  params : spansOk s 1 ((epiParams word (Handle.ext e 0)).map fun p => (Int.ofNat (bias.toNat + p.1), p.2)) = .ok ()
  clean : spansClean s ((epiParams word (Handle.ext e 0)).map fun p => (Int.ofNat (bias.toNat + p.1), p.2)) = .ok ()
  used : s.tile.occupancy ≠ 0
  slot : slotClean s (s.tile.ringTl.toNat % 8) (Handle.ext e 0) (List.range (Handle.ext e 1)) = .ok ()
  room : s.tile.epis.length < 8

/-- An epi whose checks pass is accepted. -/
theorem exec_epi_ok {s : State} {k : Tok} {h : HReg} {g b : GReg} (ready : TokensReady s k) (regs : Avail s [g, b] [.h h] [])
    (ok : EpiOk s (s.g g) (s.g b) (s.h h)) :
    exec (.epi k h g b) s = .next ((acceptEpi (withTokens s k (.pending (.epi s.tile.nextId))) (s.h h) (s.g g) (s.g b)
      (Handle.ext (s.h h) 1) (Handle.ext (s.h h) 0)).retirePriv k.stall) := by
  obtain ⟨q, moved⟩ := withTokens_eq s k (.pending (.epi s.tile.nextId))
  obtain ⟨cmd, handle, level, writable, shape, aligned, block, rows, params, clean, used, slot, room⟩ := ok
  show execEpi k h g b s = _
  rw [execEpi]
  refine priv_ok rfl ready regs ?_
  have length : (withQueues s q).tile.epis.length < 8 := room
  simp only [moved, withQueues_g, withQueues_h, check_true _ _ cmd, withQueues_handleForm, handleForm_ok handle, check_true _ _ level,
    check_true _ _ writable, check_true _ _ shape, check_true _ _ aligned, check_true _ _ block, withQueues_spansOk, rows, params,
    ringUsed, withQueues_occupancy, ne_eq, used, not_false_eq_true, check_true, await_true _ _ length, withQueues_spansClean, clean,
    withQueues_ringTl, withQueues_slotClean, slot, ite_afterDraws, bind, Except.bind]
  rfl

/-- R256 to R258, R261. -/
theorem accumulatorInstructions : Claim.AccumulatorInstructions := by
  intro k v h g b w xs s hd tl pt acc scales
  have used (ne : hd ≠ tl) : s.tile.occupancy ≠ 0 := fun e => ne (sub_eq_zero.mp (BitVec.eq_of_toNat_eq e))
  refine ⟨fun ready tag ne idle sound => ?row, fun ready tag ne idle sound => ?col, fun _ range ready regs => ?vrdacc, ?epi⟩
  case row => exact mscale_scales (show _ = mscale (fun i _ => i) k v s from rfl) (fun _ _ hq _ => hq) ready tag (used ne) idle sound
  case col => exact mscale_scales (show _ = mscale (fun _ j => j) k v s from rfl) (fun _ _ _ hr => hr) ready tag (used ne) idle sound
  case vrdacc =>
    intro n slot small within idle sound
    obtain ⟨x, done, lanes⟩ := vrdacc_gives range ready regs small rfl within idle fun j hj => (selected_eq ..) ▸ sound j hj
    refine ⟨x, done, fun j hj => (lanes j hj).trans ?_⟩
    rw [selected]
    split <;> rfl
  case epi =>
    intro word e n m pb ps ready regs op act zero form level writable n1 n64 m1 m64 x2 x3 base str block rows params clean ne slot room t
    have ok : EpiOk s word pb e := ⟨⟨op, fun e => act (BitVec.eq_of_toNat_eq e), zero⟩, form, level, writable,
      ⟨n1, n64, m1, m64, x2, x3⟩, ⟨base, str⟩, block, rows, params, clean, used ne, slot, room⟩
    refine ⟨acceptEpi t e word pb m n, exec_epi_ok ready regs ok, ?_⟩
    obtain ⟨q, moved⟩ : ∃ q, t = withQueues s q := withTokens_eq s k _
    clear_value t
    subst moved
    exact ⟨rfl, rfl, rfl, rfl, rfl, _, self_mem_after_due _ _ _ _, rfl, Nat.lt_add_of_pos_right (by omega)⟩

/-- Settles O35: each instruction of the ring by what it finds of the ring, the slot and the array. -/
theorem ringAndAccumulator : Obligations.RingAndAccumulator := ⟨ringInstructions, accumulatorInstructions⟩

end Sys2Proof.Laws
end

section
/-! What instructions leave as it was: registers, waits, traps and stores to scratch, one lemma for each operation on the state. -/

namespace Sys2Proof.Laws

open Machine

/-! ### The relation -/

theorem sameElse_trans {s t u : State} (a : SameElse s t) (b : SameElse t u) : SameElse s u where
  turn := by simp only [b.turn, a.turn, and_self]
  handles c := (b.handles c).trans (a.handles c)
  others c h := by
    have later := b.others c (a.turn.1.symm ▸ h)
    simp only [later, a.others c h, and_self]
  vectors := by simp only [b.vectors, a.vectors, and_self]
  csrs := by simp only [b.csrs, a.csrs, and_self]
  coreCsrs c := by simp only [b.coreCsrs c, a.coreCsrs c, and_self]
  array := by simp only [b.array, a.array, and_self]
  task := by simp only [b.task, a.task, and_self]
  world := by simp only [b.world, a.world, and_self]

/-- `SameElse` with the token queues, and the g registers but for those of ds. -/
structure Keeps (ds : List GReg) (s t : State) : Prop where
  same : SameElse s t
  queues : t.tile.q = s.tile.q
  regs : ∀ r, r ∉ ds → t.g r = s.g r

section
variable {ds : List GReg}

/-- Memory, its poison, lock bits and events may differ. -/
theorem keeps_memory (s : State) (m : Mem) (p : List Nat) (f : Nat) (l : List Lock) (w : List (Nat × Nat × BitVec 8 × CoreId))
    (e : List Due) : Keeps ds s { s with mem := m, poison := p, freeN := f, locks := l, lockq := w, due := e } where
  same := ⟨⟨rfl, rfl⟩, fun _ => rfl, fun _ _ => ⟨rfl, rfl, rfl⟩, ⟨rfl, rfl, rfl⟩, ⟨rfl, rfl, rfl, rfl, rfl⟩,
    fun _ => ⟨rfl, rfl, rfl, rfl⟩, ⟨rfl, rfl, rfl, rfl⟩, ⟨rfl, rfl⟩, ⟨rfl, rfl, rfl, rfl, rfl, rfl, rfl, rfl, rfl, rfl, rfl⟩⟩
  queues := rfl
  regs _ _ := rfl

theorem Keeps.refl (s : State) : Keeps ds s s := keeps_memory s s.mem s.poison s.freeN s.locks s.lockq s.due

theorem Keeps.trans {s t u : State} (a : Keeps ds s t) (b : Keeps ds t u) : Keeps ds s u :=
  ⟨sameElse_trans a.same b.same, b.queues.trans a.queues, fun r h => (b.regs r h).trans (a.regs r h)⟩
end

/-! ### The core with the turn -/

/-- A core with the same handle registers and CSRs. -/
structure SameHandlesCsrs (x y : CoreSt) : Prop where
  h : y.h = x.h
  precise : y.precise = x.precise
  checkstall : y.checkstall = x.checkstall
  stklim : y.stklim = x.stklim
  timeh : y.timeh = x.timeh

section
variable {ds : List GReg} (s : State)

theorem keeps_setCore {x : CoreSt} (same : SameHandlesCsrs s.core x) (regs : ∀ r, r ∉ ds → x.rg r = s.core.rg r) :
    Keeps ds s (s.setCore x) := by
  have either {α : Type} (f : CoreSt → α) (e : f x = f s.core) (c : CoreId) : f ((s.setCore x).tile.core c) = f (s.tile.core c) := by
    by_cases here : c = s.sel
    · rw [here, setCore_tile, tile_setCore_core]
      exact e
    · rw [setCore_tile, tile_setCore_core_ne _ _ _ _ here]
  refine ⟨⟨⟨rfl, rfl⟩, either (·.h) same.h, fun c other => ?_, ?_, ?_, fun c => ⟨either (·.precise) same.precise c,
    either (·.checkstall) same.checkstall c, either (·.stklim) same.stklim c, either (·.timeh) same.timeh c⟩, ?_, ?_,
    ⟨rfl, rfl, rfl, rfl, rfl, rfl, rfl, rfl, rfl, rfl, rfl⟩⟩, tile_setCore_q _ _ _, fun r h => ?_⟩
  · rw [setCore_tile, tile_setCore_core_ne _ _ _ _ other]
    exact ⟨rfl, rfl, rfl⟩
  · rw [setCore_tile]; cases s.sel <;> exact ⟨rfl, rfl, rfl⟩
  · rw [setCore_tile]; cases s.sel <;> exact ⟨rfl, rfl, rfl, rfl, rfl⟩
  · rw [setCore_tile]; cases s.sel <;> exact ⟨rfl, rfl, rfl, rfl⟩
  · rw [setCore_tile]; cases s.sel <;> exact ⟨rfl, rfl⟩
  · rw [State.g, setCore_core]
    exact regs r h

theorem keeps_retire : Keeps ds s s.retire := keeps_setCore s ⟨rfl, rfl, rfl, rfl, rfl⟩ fun _ _ => rfl
theorem keeps_park (w : Wait) : Keeps ds s (s.park w) := keeps_setCore s ⟨rfl, rfl, rfl, rfl, rfl⟩ fun _ _ => rfl
theorem keeps_parkIssued (rs : List GReg) (w : Wait) : Keeps ds s (s.parkIssued rs w) :=
  keeps_setCore s ⟨rfl, rfl, rfl, rfl, rfl⟩ fun _ _ => rfl

theorem keeps_clearLost : Keeps ds s (s.setCore { s.core with lost := false }) :=
  keeps_setCore s ⟨rfl, rfl, rfl, rfl, rfl⟩ fun _ _ => rfl

theorem sameHandlesCsrs_wg (c : CoreSt) (r : GReg) (x : Word) : SameHandlesCsrs c (c.wg r x) := by
  unfold CoreSt.wg
  split <;> exact ⟨rfl, rfl, rfl, rfl, rfl⟩

theorem keeps_putG {d : GReg} (x : Word) (h : d ∈ ds) : Keeps ds s (s.putG d x) :=
  keeps_setCore s (sameHandlesCsrs_wg _ _ _) fun _ out => rg_wg_ne _ _ _ _ fun e => out (e ▸ h)

theorem keeps_takeTrap (c : Option CoreId) (x : Trap) : Keeps ds s (s.takeTrap c x) := by
  unfold State.takeTrap
  split
  · exact .refl s
  · refine ⟨⟨⟨rfl, rfl⟩, fun c => by cases c <;> rfl, fun c _ => by cases c <;> exact ⟨rfl, rfl, rfl⟩, ⟨rfl, rfl, rfl⟩,
      ⟨rfl, rfl, rfl, rfl, rfl⟩, fun c => by cases c <;> exact ⟨rfl, rfl, rfl, rfl⟩, ⟨rfl, rfl, rfl, rfl⟩, ⟨rfl, rfl⟩,
      ⟨rfl, rfl, rfl, rfl, rfl, rfl, rfl, rfl, rfl, rfl, rfl⟩⟩, rfl, fun r _ => ?_⟩
    rw [State.g, State.core, State.g, State.core]
    cases s.sel <;> rfl
end

/-! ### Memory and lock bits -/

section
variable {ds : List GReg} (s : State)

theorem keeps_writeBytes (k : Nat) (bs : List Byte) : Keeps ds s (s.writeBytes k bs) := keeps_memory s _ _ _ _ _ _
theorem keeps_freeVal (w : Nat) : Keeps ds s (s.freeVal w).2 := keeps_memory s _ _ _ _ _ _
theorem keeps_lockWait (l : Nat × Nat) : Keeps ds s (s.lockWait l) := keeps_memory s _ _ _ _ _ _
theorem keeps_lockServed (l : Nat × Nat) : Keeps ds s (s.lockServed l) := keeps_memory s _ _ _ _ _ _
theorem keeps_lock (l : Nat × Nat) : Keeps ds s (s.lock l) := keeps_memory s _ _ _ _ _ _
theorem keeps_unlock (l : Nat × Nat) : Keeps ds s (s.unlock l) := keeps_memory s _ _ _ _ _ _

theorem keeps_smash (k n : Nat) (l : List Nat) : Keeps ds s (s.smash k n l) := by
  induction l generalizing s with
  | nil => exact .refl s
  | cons b bs ih =>
    unfold State.smash
    split
    · exact ((keeps_freeVal s 128).trans (keeps_writeBytes _ b _)).trans (ih _)
    · exact ih s

theorem keeps_spoil (k n : Nat) : Keeps ds s (s.spoil k n) := keeps_smash s k n s.bars
theorem keeps_store (k : Nat) (bs : List Byte) : Keeps ds s (s.store k bs) := (keeps_writeBytes s k bs).trans (keeps_smash _ _ _ _)
theorem keeps_storeNat (k n x : Nat) : Keeps ds s (s.storeNat k n x) := keeps_store s k _
end

section
variable (s : State)

/-- A byte outside the slots that n bytes touch is as it was after they are left undefined. -/
theorem read_smash {k n a : Nat} {l : List Nat} (apart : ∀ b ∈ l, b < k + n → k < b + 16 → a < b ∨ b + 16 ≤ a) :
    Mem.read (s.smash k n l).mem a = Mem.read s.mem a := by
  induction l generalizing s with
  | nil => rfl
  | cons b bs ih =>
    have rest := fun c (h : c ∈ bs) => apart c (List.mem_cons_of_mem b h)
    unfold State.smash
    split
    next touched =>
      rw [ih _ rest]
      exact read_writeNat_outside (s.freeVal 128).2 (apart b List.mem_cons_self touched.1 touched.2)
    next => exact ih s rest

theorem memSameBut_spoil (k n : Nat) : MemSameBut s (s.spoil k n) k n := fun _ _ apart => read_smash s apart

theorem memSameBut_store (k : Nat) (bs : List Byte) : MemSameBut s (s.store k bs) k bs.length := fun _ outside apart =>
  (read_smash (s.writeBytes k bs) apart).trans (read_writeRange_outside s.mem outside)

theorem memSameBut_storeNat (k n x : Nat) : MemSameBut s (s.storeNat k n x) k n := by
  have := memSameBut_store s k (leBytes n x)
  rwa [leBytes_length] at this

theorem spoil_of_no_bars (h : s.bars = []) (k n : Nat) : s.spoil k n = s := by rw [State.spoil, h, State.smash]
end

end Sys2Proof.Laws
end

section
/-! The frame of the instructions that store to scratch (O59). -/

namespace Sys2Proof.Laws

open Machine

/-! ### How an instruction ends -/

section
variable {s : State} {P : State → Prop}

theorem finish_cases {r : Act State} (wait : ∀ w, P (s.park w)) (trap : ∀ x, P (s.takeTrap (some s.sel) x)) (done : Ok P r) :
    ∀ t, finish s r = .next t → P t := by
  rintro t e
  match r with
  | .ok u => cases e; exact done _ rfl
  | .error (.wait w) => cases e; exact wait w
  | .error (.trap x) => cases e; exact trap x

theorem finishIssued_cases {rs : List GReg} {r : Act State} (wait : ∀ w, P (s.parkIssued rs w)) (trap : ∀ x, P (s.takeTrap (some s.sel) x))
    (done : Ok P r) : ∀ t, finishIssued s rs r = .next t → P t := by
  rintro t e
  match r with
  | .ok u => cases e; exact done _ rfl
  | .error (.wait w) => cases e; exact wait w
  | .error (.trap x) => cases e; exact trap x

theorem common_cases {rs ws : List GReg} {body : Act State} (wait : ∀ w, P (s.park w)) (trap : ∀ x, P (s.takeTrap (some s.sel) x))
    (done : Ok P body) : ∀ t, common s rs ws body = .next t → P t :=
  finish_cases wait trap (ok_bind.mpr fun _ _ => done)

theorem commonIssued_cases {rs ws : List GReg} {body : Act State} (wait : ∀ w, P (s.park w)) (waitIssued : ∀ w, P (s.parkIssued rs w))
    (trap : ∀ x, P (s.takeTrap (some s.sel) x)) (done : Ok P body) : ∀ t, commonIssued s rs ws body = .next t → P t := by
  unfold commonIssued
  split
  · exact finish_cases wait trap ok_error
  · exact finishIssued_cases waitIssued trap done

end

theorem ok_scalarAt (s : State) (base : GReg) (a : Word) (n acc : Nat) :
    Ok (fun k => scratchKey s a.toNat n = some k) (scalarAt s base a n acc) := by
  have key : Ok (fun k => scratchKey s a.toNat n = some k) (scratchAt s a.toNat n acc) := by
    unfold scratchAt
    split
    next k found => exact ok_ok.mpr found
    next => exact ok_error
  have place : Ok (fun k => scratchKey s a.toNat n = some k) (placeAt s base a n n acc) :=
    ok_bind.mpr fun _ _ => key.bind fun _ h => ok_bind.mpr fun _ _ => ok_ok.mpr h
  exact place.bind fun _ h => ok_bind.mpr fun _ _ => ok_bind.mpr fun _ _ => ok_ok.mpr h

theorem ok_scalarAt_bind {α : Type} {s : State} {base : GReg} {a : Word} {n acc : Nat} {P : α → Prop} {f : Nat → Act α}
    (h : ∀ k, scratchKey s a.toNat n = some k → Ok P (f k)) : Ok P (scalarAt s base a n acc >>= f) :=
  (ok_scalarAt s base a n acc).bind h

/-! ### Stores -/

/-- What an instruction that stores n bytes at scratch address a may have done. -/
structure Stored (ds : List GReg) (a n : Nat) (s t : State) : Prop where
  keeps : Keeps ds s t
  bytes : ∀ k, scratchKey s a n = some k → MemSameBut s t k n
  nowhere : scratchKey s a n = none → t.mem = s.mem

section
variable {ds : List GReg} {a n : Nat} {s t : State}

theorem stored_of_mem (h : Keeps ds s t) (e : t.mem = s.mem) : Stored ds a n s t :=
  ⟨h, fun _ _ x _ _ => by rw [e], fun _ => e⟩

theorem stored_at {k : Nat} (key : scratchKey s a n = some k) (h : Keeps ds s t) (m : MemSameBut s t k n) : Stored ds a n s t :=
  ⟨h, fun _ found => Option.some.inj (key.symm.trans found) ▸ m, fun none_ => nomatch key.symm.trans none_⟩

theorem stored_park (w : Wait) : Stored ds a n s (s.park w) := stored_of_mem (keeps_park s w) rfl
theorem stored_parkIssued (rs : List GReg) (w : Wait) : Stored ds a n s (s.parkIssued rs w) := stored_of_mem (keeps_parkIssued s rs w) rfl
theorem stored_takeTrap (c : Option CoreId) (x : Trap) : Stored ds a n s (s.takeTrap c x) :=
  stored_of_mem (keeps_takeTrap s c x) (takeTrap_mem s c x)
theorem stored_lockWait (l : Nat × Nat) (rs : List GReg) (w : Wait) : Stored ds a n s ((s.lockWait l).parkIssued rs w) :=
  stored_of_mem ((keeps_lockWait s l).trans (keeps_parkIssued _ rs w)) rfl

theorem onlyStores_of_stored {i : Instr} (h : ∀ t, exec i s = .next t → Stored ds a n s t) : OnlyStores i s ds a n := fun t e =>
  have ⟨⟨same, queues, regs⟩, bytes, nowhere⟩ := h t e
  ⟨same, queues, regs, bytes, nowhere⟩

theorem onlyStores_common {i : Instr} {rs ws : List GReg} {body : Act State} (form : exec i s = common s rs ws body)
    (done : Ok (Stored ds a n s) body) : OnlyStores i s ds a n :=
  onlyStores_of_stored fun t e => common_cases stored_park (stored_takeTrap _) done t (form ▸ e)

theorem onlyStores_commonIssued {i : Instr} {rs ws : List GReg} {body : Act State} (form : exec i s = commonIssued s rs ws body)
    (done : Ok (Stored ds a n s) body) : OnlyStores i s ds a n :=
  onlyStores_of_stored fun t e => commonIssued_cases stored_park (stored_parkIssued _) (stored_takeTrap _) done t (form ▸ e)
end

/-! ### The instructions -/

section
variable {s : State} {d a : GReg} {i : BitVec 15}

theorem stored_storeNat {ds : List GReg} {n k x : Nat} {at_ : Word} (key : scratchKey s at_.toNat n = some k) :
    Stored ds at_.toNat n s (s.storeNat k n x).retire :=
  stored_at key ((keeps_storeNat s k n x).trans (keeps_retire _)) (memSameBut_storeNat s k n x)

theorem onlyStores_storeLow {j : Instr} {n : Nat} (form : exec j s = storeLow n d a i s) : OnlyStores j s [] (s.g a + imm i).toNat n :=
  onlyStores_common form (ok_scalarAt_bind fun _ key => ok_ok.mpr (stored_storeNat key))

theorem onlyStores_hst (h : HReg) : OnlyStores (.hst h a) s [] (s.g a).toNat 32 :=
  onlyStores_common rfl (ok_bind.mpr fun _ _ => ok_scalarAt_bind fun _ key => ok_ok.mpr (stored_storeNat key))

theorem onlyStores_amo {j : Instr} {f : Word → Word} {rs : List GReg} (form : exec j s = amo f d a rs s) :
    OnlyStores j s [d] (s.opd a).toNat 4 := by
  refine onlyStores_commonIssued form (ok_scalarAt_bind fun k key => ok_ite.mpr ⟨fun _ => ?_, fun _ => ok_bind.mpr fun _ _ => ?_⟩)
  · exact ok_ok.mpr (stored_lockWait ..)
  · refine ok_ok.mpr (stored_at key ?_ (memSameBut_storeNat (s.lockServed (lockOf k)) k 4 _))
    exact (((keeps_lockServed s _).trans (keeps_storeNat _ _ _ _)).trans (keeps_putG _ _ List.mem_cons_self)).trans (keeps_retire _)

theorem onlyStores_sul : OnlyStores (.sul d a i) s [] (s.g a + imm i).toNat 4 := by
  refine onlyStores_of_stored fun t e => ?_
  replace e : execSul d a i s = .next t := e
  unfold execSul at e
  split at e
  next h _ => exact finish_cases stored_park (stored_takeTrap _) ok_error t e
  next k reached =>
    have key : scratchKey s (s.g a + imm i).toNat 4 = some k :=
      (ok_bind.mpr fun _ _ => ok_scalarAt_bind fun _ key => ok_bind.mpr fun _ _ => ok_ok.mpr key :
        Ok (fun k => scratchKey s (s.g a + imm i).toNat 4 = some k) _) k reached
    simp only at e
    split at e
    · cases e
      exact stored_of_mem ((keeps_clearLost s).trans (keeps_takeTrap _ _ _)) (takeTrap_mem ..)
    · split at e
      · exact finish_cases stored_park (stored_takeTrap _) ok_error t e
      · cases e
        exact stored_at key (((keeps_unlock s _).trans (keeps_storeNat _ _ _ _)).trans (keeps_retire _)) (memSameBut_storeNat (s.unlock _) k 4 _)

/-- What a load-lock with its word at scratch address at_ may have done: memory as it was, or the live barrier slots that the word touches
left undefined. -/
def LoadLocked (d : GReg) (at_ : Word) (s t : State) : Prop :=
  Keeps [d] s t ∧ (t.mem = s.mem ∨
    ∃ (k : Nat) (u : State), scratchKey s at_.toNat 4 = some k ∧ u.bars = s.bars ∧ u.mem = s.mem ∧ t.mem = (u.spoil k 4).mem)

theorem exec_lld_cases : ∀ t, exec (.lld d a i) s = .next t → LoadLocked d (s.opd a + imm i) s t := by
  refine commonIssued_cases (P := LoadLocked d (s.opd a + imm i) s) (fun w => ⟨keeps_park s w, .inl rfl⟩)
    (fun w => ⟨keeps_parkIssued s _ w, .inl rfl⟩) (fun x => ⟨keeps_takeTrap s _ x, .inl (takeTrap_mem ..)⟩)
    (ok_scalarAt_bind fun k key => ok_bind.mpr fun _ _ => ok_ite.mpr ⟨fun _ => ok_ok.mpr ?_, fun _ => ok_ok.mpr ⟨?_, ?_⟩⟩)
  · exact ⟨(keeps_lockWait s _).trans (keeps_parkIssued _ _ _), .inl rfl⟩
  · exact ((((keeps_lockServed s _).trans (keeps_lock _ _)).trans (keeps_putG _ _ List.mem_cons_self)).trans (keeps_spoil _ _ _)).trans
      (keeps_retire _)
  · exact .inr ⟨k, ((s.lockServed (lockOf k)).lock (lockOf k)).putG d _, key, rfl, rfl, rfl⟩

theorem onlyStores_lld : OnlyStores (.lld d a i) s [d] (s.opd a + imm i).toNat 4 := by
  refine onlyStores_of_stored fun t e => ?_
  obtain ⟨keeps, same | ⟨k, u, key, bars, mem, spoilt⟩⟩ := exec_lld_cases t e
  · exact stored_of_mem keeps same
  · refine stored_at key keeps fun x outside apart => ?_
    rw [spoilt, memSameBut_spoil u k 4 x outside (bars ▸ apart), mem]

theorem onlyRegs_lld (free : s.bars = []) : OnlyRegs (.lld d a i) s [d] := by
  intro t e
  obtain ⟨⟨same, queues, regs⟩, mem⟩ := exec_lld_cases t e
  refine ⟨same, ?_, queues, regs⟩
  obtain same | ⟨k, u, -, bars, mem, spoilt⟩ := mem
  · exact same
  · rw [spoilt, spoil_of_no_bars u (bars.trans free), mem]
end

/-- Settles O59: an instruction that stores waits, traps or writes where its address lies, by the form of its body. -/
theorem frameOfStores : Obligations.FrameOfStores := by
  intro d a b h i s at_
  have addr : at_ = (s.g a + imm i).toNat := congrArg BitVec.toNat (wrap32_add_imm _ _)
  rw [addr]
  refine ⟨onlyStores_storeLow rfl, onlyStores_storeLow rfl, onlyStores_storeLow rfl, onlyStores_sul, onlyStores_hst h, ?_, onlyStores_lld,
    onlyRegs_lld⟩
  simp only [List.forall_mem_cons]
  exact ⟨onlyStores_amo rfl, onlyStores_amo rfl, onlyStores_amo rfl, onlyStores_amo rfl, onlyStores_amo rfl, onlyStores_amo rfl,
    onlyStores_amo rfl, onlyStores_amo rfl, List.forall_mem_nil _⟩

end Sys2Proof.Laws
end

section
/-! Fences and hardware barriers (O10). -/

namespace Sys2Proof.Laws

open Machine

/-! ### The report point and the release (R115, R123, R407, R428) -/

section
variable {s : State} {t : Trap}

theorem settled_waits (h : ¬Settled s) : settled s = .error (.wait .other) := if_neg h

theorem relBroken_none (x : Bool) (h : s.core.relBad = none) : relBroken s x = .ok () := by cases x <;> simp [relBroken, h]
theorem relBroken_some (h : s.core.relBad = some t) : relBroken s true = .error (.trap t) := by simp [relBroken, h]

theorem relBroken_scope {sc : BitVec 3} (h : sc ≠ 4 ∨ s.core.relBad = none) : relBroken s (sc == 4) = .ok () := by
  rcases h with narrow | sound
  · rw [beq_eq_false_iff_ne.mpr narrow]
    rfl
  · exact relBroken_none _ sound
end

/-- The checks that a release at a scope passes before it takes effect: its broken writes, the stream's faults, its port pushes. -/
def releaseChecks (sc : BitVec 3) (s : State) : Act Unit := do
  relBroken s (sc == 4)
  report s
  settled s

section
variable {sc : BitVec 3} {s : State} {t : Trap}

theorem releaseChecks_ok (sound : sc ≠ 4 ∨ s.core.relBad = none) (silent : s.tile.unreported s.sel = none) (landed : Settled s) :
    releaseChecks sc s = .ok () := by
  rw [releaseChecks, relBroken_scope sound, report_none silent, settled_ok landed]
  rfl

theorem releaseChecks_wait (sound : sc ≠ 4 ∨ s.core.relBad = none) (silent : s.tile.unreported s.sel = none) (pending : ¬Settled s) :
    releaseChecks sc s = .error (.wait .other) := by
  rw [releaseChecks, relBroken_scope sound, report_none silent, settled_waits pending]
  rfl

theorem releaseChecks_report (narrow : sc ≠ 4) (fault : s.tile.unreported s.sel = some t) : releaseChecks sc s = .error (.trap t) := by
  rw [releaseChecks, relBroken_scope (.inl narrow), report_some fault]
  rfl

theorem releaseChecks_broken (broken : s.core.relBad = some t) : releaseChecks 4 s = .error (.trap t) := by
  rw [releaseChecks, show ((4 : BitVec 3) == 4) = true from rfl, relBroken_some broken]
  rfl
end

/-! ### The fences (R115, R123, R409) -/

/-- A release that has passed its checks: at .pod it waits until the writes that it covers have been acknowledged. -/
def released (sc : BitVec 3) (s : State) : State :=
  if sc = 4 ∧ s.podCovered (fun _ => false) (fun _ => false) = false then s.relWait none else s.relDone.retire

section
variable {sc : BitVec 3} {s : State}

theorem released_narrow (h : sc ≠ 4) : released sc s = s.relDone.retire := if_neg fun x => h x.1
theorem released_covered (h : s.podCovered (fun _ => false) (fun _ => false) = true) : released 4 s = s.relDone.retire :=
  if_neg fun x => Bool.false_ne_true (x.2.symm.trans h)
theorem released_uncovered (h : s.podCovered (fun _ => false) (fun _ => false) = false) : released 4 s = s.relWait none := if_pos ⟨rfl, h⟩

variable (h : Avail s [] [] [])
include h

theorem fenceRel_eq : fenceRel sc s = finish s (do releaseChecks sc s; .ok (released sc s)) := by
  rw [fenceRel, common_ok _ h, released, apply_ite Except.ok, releaseChecks]
  simp only [bind_assoc]

/-- Both fences that release, once the checks have passed. -/
theorem fences_release (ok : releaseChecks sc s = .ok ()) :
    exec (.fenceRel sc) s = .next (released sc s) ∧ exec (.fenceAr sc) s = .next (released sc s) := by
  have eq : fenceRel sc s = .next (released sc s) := by rw [fenceRel_eq h, ok]; rfl
  exact ⟨eq, eq⟩

theorem fences_wait (waits : releaseChecks sc s = .error (.wait .other)) : Waits (.fenceRel sc) s .other ∧ Waits (.fenceAr sc) s .other := by
  have eq : fenceRel sc s = .next (s.park .other) := by rw [fenceRel_eq h, waits]; rfl
  exact ⟨eq, eq⟩

theorem fences_raise {t : Trap} (raises : releaseChecks sc s = .error (.trap t)) : Raises (.fenceRel sc) s t ∧ Raises (.fenceAr sc) s t := by
  have eq : fenceRel sc s = .next (s.takeTrap (some s.sel) t) := by rw [fenceRel_eq h, raises]; rfl
  exact ⟨eq, eq⟩

theorem exec_fenceAcq : exec (.fenceAcq sc) s = finish s (do report s; .ok s.retire) := common_ok _ h
theorem exec_fenceAck : exec .fenceAck s = finish s (do report s; await (s.ownRemote = false) .other; .ok s.retire) := common_ok _ h
end

/-- R115, R123, R409. -/
theorem fences : Claim.Fences := by
  intro sc s h
  refine ⟨fun silent => ⟨fun narrow landed => ?_, fun pending sound => fences_wait h (releaseChecks_wait sound silent pending),
    fun sound landed => ⟨fun covered => ?_, fun uncovered => ?_⟩, ?_, fun acked => ?_, fun owed => ?_⟩,
    fun t broken => fences_raise h (releaseChecks_broken broken),
    fun t fault => ⟨fun narrow => fences_raise h (releaseChecks_report narrow fault), ?_, ?_⟩⟩
  · rw [← released_narrow narrow]
    exact fences_release h (releaseChecks_ok (.inl narrow) silent landed)
  · rw [← released_covered covered]
    exact fences_release h (releaseChecks_ok (.inr sound) silent landed)
  · rw [← released_uncovered uncovered]
    exact fences_release h (releaseChecks_ok (.inr sound) silent landed)
  · rw [exec_fenceAcq h, report_none silent]
    rfl
  · rw [exec_fenceAck h, report_none silent, await_true _ _ acked]
    rfl
  · have waits : await (s.ownRemote = false) .other = .error (.wait .other) := if_neg (by simp [owed])
    rw [Waits, exec_fenceAck h, report_none silent, waits]
    rfl
  · rw [Raises, exec_fenceAcq h, report_some fault]
    rfl
  · rw [Raises, exec_fenceAck h, report_some fault]
    rfl

/-! ### hbar (R51, R178, R179) -/

/-- The state in which the stream has arrived in its episode and, at .pod, told the other packages. -/
def hbarArrived (sc : BitVec 3) (s : State) : State := (s.relDone.hbarArrive (scopeFin sc)).hbarTell (scopeFin sc)

/-- An hbar whose release is over: it retires with its episode complete, and else waits with its arrival made. -/
def hbarEnds (sc : BitVec 3) (s : State) : State :=
  let t := hbarArrived sc s
  if t.hbarComplete (scopeFin sc) then (t.setCore { t.core with hbarIn := none }).retire else t.park (if sc = 0 then .hbarTile else .other)

section
variable {sc : BitVec 3} {s : State}

theorem sameWorld_hbarTell (s : State) (scope) : SameWorld s (s.hbarTell scope) := .ite (sameWorld_tellArrival s _) (.refl s)

theorem hbarArrived_tile (h : s.core.hbarIn = none) : (hbarArrived sc s).tile = (s.relDone.setCore { s.relDone.core with
    hbarN := s.core.hbarN.set (scopeFin sc) (s.core.hbarN[scopeFin sc] + 1), hbarIn := some (scopeFin sc).val }).tile := by
  rw [hbarArrived, (sameWorld_hbarTell _ _).tile, State.hbarArrive]
  have free : s.relDone.core = { s.core with relMark := none, relExempt := none, relBad := none } := setCore_core s _
  rw [if_neg (by simp [free, h]), free]

theorem hbarArrived_sel : (hbarArrived sc s).sel = s.sel := by
  rw [hbarArrived, (sameWorld_hbarTell _ _).sel]
  unfold State.hbarArrive
  split <;> rfl

theorem hbarArrived_core (h : s.core.hbarIn = none) :
    (hbarArrived sc s).core.hbarN = s.core.hbarN.set (scopeFin sc) (s.core.hbarN[scopeFin sc] + 1) := by
  rw [State.core, hbarArrived_sel, hbarArrived_tile h]
  exact congrArg CoreSt.hbarN (setCore_core s.relDone _)

/-- A stream of the tile other than the one that has arrived is as it was. -/
theorem hbarArrived_other (h : s.core.hbarIn = none) {c : CoreId} (other : c ≠ s.sel) : (hbarArrived sc s).tile.core c = s.tile.core c := by
  rw [hbarArrived_tile h]
  exact (tile_setCore_core_ne _ _ _ _ other).trans (tile_setCore_core_ne _ _ _ _ other)

/-- A tile's episode is complete where each of the two other streams has ended or arrived (R51, R179). -/
theorem hbarComplete_tile (h : s.core.hbarIn = none)
    (others : ∀ c, c ≠ s.sel → (s.tile.core c).fin = true ∨ s.core.hbarN[0] < (s.tile.core c).hbarN[0]) :
    (hbarArrived 0 s).hbarComplete 0 = true := by
  have number : (hbarArrived 0 s).core.hbarN[(0 : Fin 5)] = s.core.hbarN[0] + 1 := by
    rw [hbarArrived_core h]
    exact Vector.getElem_set_self _
  have arrived (c : CoreId) : ((hbarArrived 0 s).tile.core c).arrived 0 (s.core.hbarN[0] + 1) = true := by
    by_cases here : c = s.sel
    · have same : (hbarArrived 0 s).tile.core c = (hbarArrived 0 s).core := by rw [State.core, hbarArrived_sel, here]
      rw [same, CoreSt.arrived, number, decide_eq_true (Nat.le_refl _), Bool.or_true]
    · rw [hbarArrived_other h here]
      exact (others c here).elim (fun ended => by simp [CoreSt.arrived, ended])
        fun ahead => by simp only [CoreSt.arrived, Bool.or_eq_true, decide_eq_true_eq]; exact .inr ahead
  have here : (hbarArrived 0 s).hbarHere 0 = true := by
    rw [State.hbarHere, number, State.peers, if_pos rfl]
    simp only [List.all_cons, List.all_nil, Bool.and_true, Bool.and_eq_true]
    exact ⟨arrived .load, arrived .compute, arrived .store⟩
  rw [State.hbarComplete, here]
  rfl

variable (h : Avail s [] [] [])
include h

theorem exec_hbar : exec (.hbar sc) s = finish s (do
    check (sc = 0 ∨ s.tile.task.gang = true) { cls := .hbarScope }
    releaseChecks sc s
    .ok (if sc = 4 ∧ s.core.hbarIn = none ∧ s.podCovered (fun _ => false) (fun _ => false) = false then s.relWait none else hbarEnds sc s)) := by
  refine (common_ok _ h).trans ?_
  rw [hbarEnds]
  dsimp only
  rw [apply_ite Except.ok, apply_ite Except.ok, releaseChecks]
  simp only [bind_assoc]
  rfl

variable (scope : sc = 0 ∨ s.tile.task.gang = true) (ok : releaseChecks sc s = .ok ())
include scope ok

theorem exec_hbar_ends (covered : ¬(sc = 4 ∧ s.core.hbarIn = none ∧ s.podCovered (fun _ => false) (fun _ => false) = false)) :
    exec (.hbar sc) s = .next (hbarEnds sc s) := by
  rw [exec_hbar h, check_true _ _ scope, ok, if_neg covered]
  rfl

theorem exec_hbar_waits (uncovered : sc = 4 ∧ s.core.hbarIn = none ∧ s.podCovered (fun _ => false) (fun _ => false) = false) :
    exec (.hbar sc) s = .next (s.relWait none) := by
  rw [exec_hbar h, check_true _ _ scope, ok, if_pos uncovered]
  rfl
end

/-- R51, R52, R178, R179. -/
theorem hardwareBarrier : Claim.HardwareBarrier := by
  intro sc s h _
  refine ⟨fun wide alone => ?_, fun scope sound silent landed covers => ?_, fun pod gang sound silent landed first uncovered => ?_⟩
  · have fails : check (sc = 0 ∨ s.tile.task.gang = true) { cls := .hbarScope } = .error (.trap { cls := .hbarScope }) :=
      if_neg fun scope => scope.elim wide fun gang => Bool.false_ne_true (alone.symm.trans gang)
    rw [Raises, exec_hbar h, fails]
    rfl
  · have ends := exec_hbar_ends h scope (releaseChecks_ok (.inr sound) silent landed)
      fun ⟨pod, first, uncovered⟩ => Bool.false_ne_true (uncovered.symm.trans (covers pod first))
    refine ⟨fun complete => ends.trans (congrArg _ (if_pos complete)), fun waits => ends.trans (congrArg _ (if_neg (Bool.eq_false_iff.mp waits))),
      fun first => ?_, fun first ⟨tile, others⟩ => ?_⟩
    · show (hbarArrived sc s).core.hbarN[scopeFin sc] = _
      rw [hbarArrived_core first]
      exact Vector.getElem_set_self _
    · subst tile
      exact hbarComplete_tile first others
  · exact exec_hbar_waits h (.inr gang) (releaseChecks_ok (.inr sound) silent landed) ⟨pod, first, uncovered⟩

/-- Settles O10: the fences and hbar by the checks that every release passes, then by what the release or the episode still lacks. -/
theorem fencesAndHardwareBarriers : Obligations.FencesAndHardwareBarriers := ⟨fences, hardwareBarrier⟩

end Sys2Proof.Laws
end

section
/-! What the sending of packets and messages, events, reports and accesses to memory leave as they were. -/

namespace Sys2Proof.Laws

open Machine

/-! ### What is sent -/

/-- Nothing differs but what has been sent or waits for a path, the links, and what has been scheduled and reported besides. -/
structure OnlySent (s t : State) : Prop where
  eq : ∃ outbox ctlOut outWait links due mail mailN, t = { s with outbox, ctlOut, outWait, links, due, mail, mailN }
  due : ∀ d ∈ s.due, d ∈ t.due
  mail : ∀ m ∈ s.mail, m ∈ t.mail

namespace OnlySent

theorem refl (s : State) : OnlySent s s := ⟨⟨_, _, _, _, _, _, _, rfl⟩, fun _ h => h, fun _ h => h⟩

theorem put (s : State) (outbox ctlOut outWait links) : OnlySent s { s with outbox, ctlOut, outWait, links } :=
  ⟨⟨_, _, _, _, _, _, _, rfl⟩, fun _ h => h, fun _ h => h⟩

theorem trans {s t u : State} (a : OnlySent s t) (b : OnlySent t u) : OnlySent s u := by
  refine ⟨?_, fun d h => b.due d (a.due d h), fun m h => b.mail m (a.mail m h)⟩
  obtain ⟨_, _, _, _, _, _, _, rfl⟩ := a.eq
  obtain ⟨_, _, _, _, _, _, _, rfl⟩ := b.eq
  exact ⟨_, _, _, _, _, _, _, rfl⟩

theorem ite {s t u : State} {c : Prop} [Decidable c] (a : OnlySent s t) (b : OnlySent s u) : OnlySent s (if c then t else u) := by
  split <;> assumption

theorem foldl {α : Type} {f : State → α → State} (h : ∀ t x, OnlySent t (f t x)) (l : List α) (s : State) : OnlySent s (l.foldl f s) :=
  List.foldlRecOn (motive := OnlySent s) l f (.refl s) fun t ht x _ => ht.trans (h t x)

section
variable {s t : State} (h : OnlySent s t)
include h

theorem mem : t.mem = s.mem := by obtain ⟨_, _, _, _, _, _, _, rfl⟩ := h.eq; rfl
theorem tile : t.tile = s.tile := by obtain ⟨_, _, _, _, _, _, _, rfl⟩ := h.eq; rfl
theorem now : t.now = s.now := by obtain ⟨_, _, _, _, _, _, _, rfl⟩ := h.eq; rfl
theorem orders : t.orders = s.orders := by obtain ⟨_, _, _, _, _, _, _, rfl⟩ := h.eq; rfl
theorem gone : t.gone = s.gone := by obtain ⟨_, _, _, _, _, _, _, rfl⟩ := h.eq; rfl
theorem unacked : t.unacked = s.unacked := by obtain ⟨_, _, _, _, _, _, _, rfl⟩ := h.eq; rfl
theorem lostPkgs : t.lostPkgs = s.lostPkgs := by obtain ⟨_, _, _, _, _, _, _, rfl⟩ := h.eq; rfl

theorem soon {now : Nat} {e : Instr} {a : EvArg} (soon : Soon s now e a) : Soon t now e a := by
  obtain ⟨d, mem, hd⟩ := soon
  exact ⟨d, h.due d mem, hd⟩
end
end OnlySent

section
variable (s : State)

theorem onlySent_after (n e a) : OnlySent s (s.after n e a) :=
  ⟨⟨_, _, _, _, _, _, _, rfl⟩, fun _ h => mem_after_due.mpr (.inr h), fun _ h => h⟩

theorem onlySent_notify (t f) : OnlySent s (s.notify t f) :=
  ⟨⟨_, _, _, _, _, _, _, rfl⟩, fun _ h => mem_after_due.mpr (.inr h), fun _ h => List.mem_append_left _ h⟩

theorem onlySent_mapLink (n f) : OnlySent s (s.mapLink n f) := .put s _ _ _ _
theorem onlySent_nack (p st) : OnlySent s (s.nack p st) := onlySent_after s _ _ _

theorem onlySent_nackAll (l cls) : OnlySent s (s.nackAll l cls) := by
  unfold State.nackAll
  exact .foldl (fun t u => onlySent_nack t _ _) l s

theorem onlySent_watchKey (n) : OnlySent s (s.watchKey n) := by
  unfold State.watchKey
  split
  · exact .refl s
  · refine .trans (.ite (.trans ?_ (onlySent_notify _ _ _)) (.refl s)) (.ite (onlySent_after _ _ _ _) (.refl _))
    exact .put s _ _ _ _

theorem onlySent_onLink (dst path w) : OnlySent s (s.onLink dst path w) := .trans (.put s _ _ _ _) (onlySent_watchKey _ _)

theorem onlySent_emit (dst w) : OnlySent s (s.emit dst w) := by
  refine .ite (.refl s) ?_
  split
  · exact .put s _ _ _ _
  · refine .trans ?_ (onlySent_onLink _ _ _ _)
    cases w <;> exact .put s _ _ _ _

theorem onlySent_tell (dst m) : OnlySent s (s.tell dst m) := onlySent_emit s _ _
theorem onlySent_tellAll (c m) : OnlySent s (s.tellAll c m) := .foldl (fun t _ => onlySent_tell t _ _) _ _
theorem onlySent_answer (p type st x bs) : OnlySent s (s.answer p type st x bs) := onlySent_emit s _ _
theorem onlySent_ack (p st) : OnlySent s (s.ack p st) := onlySent_answer s _ _ _ _ _
end

/-! ### What leaves by a usable path (R384, R385) -/

theorem watchKey_out (s : State) (n : Nat) : (s.watchKey n).outbox = s.outbox ∧ (s.watchKey n).ctlOut = s.ctlOut := by
  unfold State.watchKey
  split
  · exact ⟨rfl, rfl⟩
  · dsimp only
    split <;> split <;> exact ⟨rfl, rfl⟩

/-- A packet or message among those that have been sent, by path q. -/
def sentOut (s : State) (q : Nat) : Wire → State
  | .pkt p => { s with outbox := s.outbox ++ [{ p with path := BitVec.ofNat 2 q }] }
  | .ctl d m => { s with ctlOut := s.ctlOut ++ [(d, m)] }

section
variable {s : State} {dst : BitVec 12} (here : dst ∉ s.lostPkgs) (path : s.usable dst ≠ [])
include here path

theorem emit_usable (w : Wire) : ∃ q, s.emit dst w = (sentOut s q w).onLink dst q w := by
  obtain ⟨q, qs, eq⟩ := List.exists_cons_of_ne_nil path
  refine ⟨q, ?_⟩
  rw [State.emit, if_neg (by simpa using here), eq]
  cases w <;> rfl

theorem emit_pkt_outbox (p : Packet) : ∃ q, (s.emit dst (.pkt p)).outbox = s.outbox ++ [{ p with path := q }] := by
  obtain ⟨q, eq⟩ := emit_usable here path (.pkt p)
  exact ⟨_, by rw [eq]; exact (watchKey_out _ _).1⟩

theorem mem_tell_ctlOut (m : Ctl) : (dst, m) ∈ (s.tell dst m).ctlOut := by
  obtain ⟨q, eq⟩ := emit_usable here path (.ctl dst m)
  have out : (s.tell dst m).ctlOut = s.ctlOut ++ [(dst, m)] := by rw [State.tell, eq]; exact (watchKey_out _ _).2
  simp [out]
end

/-! ### Accesses to memory -/

/-- Nothing differs but memory, the count of free values, and what accesses to memory keep account of. -/
def OnlyWritten (s t : State) : Prop := ∃ mem poison rac freeN ctxs, t = { s with mem, poison, rac, freeN, ctxs }

namespace OnlyWritten

theorem refl (s : State) : OnlyWritten s s := ⟨_, _, _, _, _, rfl⟩

theorem trans {s t u : State} (a : OnlyWritten s t) (b : OnlyWritten t u) : OnlyWritten s u := by
  obtain ⟨_, _, _, _, _, rfl⟩ := a
  obtain ⟨_, _, _, _, _, rfl⟩ := b
  exact ⟨_, _, _, _, _, rfl⟩

theorem ite {s t u : State} {c : Prop} [Decidable c] (a : OnlyWritten s t) (b : OnlyWritten s u) : OnlyWritten s (if c then t else u) := by
  split <;> assumption

theorem orders {s t : State} (h : OnlyWritten s t) : t.orders = s.orders := by obtain ⟨_, _, _, _, _, rfl⟩ := h; rfl
end OnlyWritten

section
variable (s : State)

theorem onlyWritten_smash (k n : Nat) (l : List Nat) : OnlyWritten s (s.smash k n l) := by
  induction l generalizing s with
  | nil => exact .refl s
  | cons b bs ih =>
    unfold State.smash
    exact .ite (.trans ⟨_, _, _, _, _, rfl⟩ (ih _)) (ih s)

theorem onlyWritten_store (k bs) : OnlyWritten s (s.store k bs) := .trans ⟨_, _, _, _, _, rfl⟩ (onlyWritten_smash _ _ _ _)

theorem onlyWritten_lay (l : List (Nat × Nat)) (bs : List Byte) : OnlyWritten s (s.lay l bs) := by
  induction l generalizing s bs with
  | nil => exact .refl s
  | cons p ps ih => exact .trans (.trans ⟨_, _, _, _, _, rfl⟩ (onlyWritten_store (s.yields p.1 p.2) _ _)) (ih _ _)

theorem onlyWritten_freePages (c k va n : Nat) : OnlyWritten s (s.freePages c k va n) := by
  induction k generalizing s va n with
  | zero => exact .refl s
  | succ k ih =>
    unfold State.freePages
    refine .ite (.refl s) (.trans ?_ (ih _ _ _))
    split
    · exact .refl s
    · exact .trans ⟨_, _, _, _, _, rfl⟩ (onlyWritten_store (s.freeVal _).2 _ _)

theorem onlyWritten_freeShard (c prec : Nat) : OnlyWritten s (s.freeShard c prec) := by
  unfold State.freeShard
  split
  · exact .refl s
  · dsimp only
    split
    · exact .refl s
    · exact onlyWritten_freePages s _ _ _ _
end

section
variable {s t : State} {c va : Nat} {bs : List Byte}

theorem onlyWritten_gwrite (e : s.gwrite c va bs = .ok t) : OnlyWritten s t := by
  unfold State.gwrite at e
  split at e
  · exact nomatch e
  · cases e
    exact .trans ⟨_, _, _, _, _, rfl⟩ (onlyWritten_lay (s.monitor c va bs.length true) _ _)

theorem onlyWritten_layRuns {rs : List (Nat × Nat)} (e : s.layRuns c rs bs = .ok t) : OnlyWritten s t := by
  induction rs generalizing s bs with
  | nil => cases e; exact .refl _
  | cons r rs ih =>
    unfold State.layRuns at e
    split at e
    · exact nomatch e
    · next u eq => exact (onlyWritten_gwrite eq).trans (ih e)

theorem onlyWritten_gwriteRuns {rs : List (Nat × Nat)} (e : s.gwriteRuns c rs bs = .ok t) : OnlyWritten s t := by
  unfold State.gwriteRuns at e
  split at e
  · exact nomatch e
  · exact onlyWritten_layRuns e
end

end Sys2Proof.Laws
end

section
/-! Packets that arrive (O46). -/

namespace Sys2Proof.Laws

open Machine

/-! ### The ingress (R386, R426, R432) -/

/-- A well-formed packet for this package comes by a link in service. -/
structure Comes (p : Packet) (s : State) : Prop where
  arg : s.arg = .packet p
  dst : p.dst = s.self
  well : s.malformed p = false
  inService : s.linkOpen p = true

section
variable {p : Packet} {s : State} {i : Instr} {type : BitVec 4} {f : Packet → State → State} (hi : exec i s = arrival type f s)
include hi

theorem arrival_comes (h : Comes p s) (ht : p.type = type) : Does i s (f p s) := by
  rw [Does, hi, arrival, h.arg]
  exact (if_neg (by simp [h.dst, ht, h.inService])).trans (if_neg (by simp [h.well]))

variable (arg : s.arg = .packet p)
include arg

theorem arrival_other (h : p.type ≠ type) : Does i s s := by
  rw [Does, hi, arrival, arg]
  exact if_pos (.inr (.inl h))

theorem arrival_closed (h : s.linkOpen p = false) : Does i s s := by
  rw [Does, hi, arrival, arg]
  exact if_pos (.inr (.inr h))

theorem arrival_malformed (dst : p.dst = s.self) (inService : s.linkOpen p = true) (bad : s.malformed p = true) (ht : p.type = type) :
    Does i s (s.rejectPacket p) := by
  rw [Does, hi, arrival, arg]
  exact (if_neg (by simp [dst, ht, inService])).trans (if_pos bad)
end

/-! What each type of packet for this package does once it is taken up. -/

/-- A write (R121). -/
def writeArrives (p : Packet) (t : State) : State :=
  t.perform p (packetSpans p p.data.length) fun c =>
    (t.gwriteRuns c.cnum (packetSpans p p.data.length) p.data).map fun u =>
      (if p.pce then u else u.plainRuns c.cnum (packetSpans p p.data.length), 0)

/-- A read request (R202, R205). -/
def readArrives (p : Packet) (t : State) : State :=
  match t.bound p.src p.ctx p.sctx with
  | none => t.ack p (refusal .xlateNone)
  | some c => match t.greadRuns c.cnum (packetSpans p p.len.toNat) with
    | .error e => ((t.struckRun c.cnum (packetSpans p p.len.toNat) e true false).deviceError e.1 c.cnum e.2).ack p (refusal e.1)
    | .ok (u, bs) => u.answer p 2 0 0 bs

/-- An atomic on a word, or on a line of elements (R100, R206, R207). -/
def atomicArrives (p : Packet) (t : State) : State :=
  if p.rop.toNat < 8 then
    t.perform p [(p.addr.toNat, 4)] fun c => t.atomicWord c.cnum p.addr.toNat p.rop.toNat p.operand p.compare
  else
    let f : Fmt := if p.rop = 8 then .fp32 else .bf16
    let w := f.width / 8
    t.perform p ((List.range (128 / w)).map fun i => (p.addr.toNat + i * w, w)) fun c =>
      (t.addLine c.cnum p.addr.toNat f p.data (128 / w)).map fun u => (u, 0)

/-- An acknowledgement (R121, R124). -/
def ackArrives (p : Packet) (t : State) : State :=
  match t.sent? p with
  | none => t
  | some u =>
    if p.status.toNat = againStatus then
      ({ t with unacked := t.unacked.map fun v => if v = u then { v with again := true } else v } : State).after 3000 .refusedPacketResend
        (.packet u.pkt)
    else if p.status = 0 then (t.settled u).appliedPacket u p.operand
    else (t.settled u).refusedPacket u (statusClass p.status)

/-- Read data (R202, R205). -/
def dataArrives (p : Packet) (s : State) : State :=
  match s.sent? p with
  | none => s
  | some u =>
    let t := s.settled u
    match u.own with
    | .op q _ => (match t.taskTile u.tid with
      | none => t
      | some x => t.onOpSent x.ptile u.core q fun v o => (v.keep u p.data).dataHere o)
    | .acq => (match t.taskTile u.tid with
      | none => t
      | some x => (t.onCore x.ptile u.core fun v => v.acqLand u.pkt.id (BitVec.ofNat 32 (leNat p.data))).getD t)
    | .req _ _ => t.keep u p.data
    | .xfer _ _ _ _ => t.keep u p.data
    | .rel => t
    | .counts => t

section
variable (s : State)

theorem exec_write : exec .write s = arrival 0 writeArrives s := rfl
theorem exec_readRequest : exec .readRequest s = arrival 1 readArrives s := rfl
theorem exec_readData : exec .readData s = arrival 2 dataArrives s := rfl
theorem exec_acknowledgement : exec .acknowledgement s = arrival 3 ackArrives s := rfl
theorem exec_atomic : exec .atomic s = arrival 6 atomicArrives s := rfl
theorem exec_orderedFlag : exec .orderedFlag s = arrival 4 State.takeFlag s := rfl
theorem exec_countOnlyFlag : exec .countOnlyFlag s = arrival 5 State.takeFlag s := rfl
end

/-! ### The order table (R124, R125) -/

section
variable (p : Packet) (s : State)

theorem orderOf_names : (s.orderOf p).names p = true := by
  rw [State.orderOf]
  cases h : s.order? p with
  | none => simp [OrderEntry.names]
  | some e => exact List.find?_some (p := fun e : OrderEntry => e.names p) h

theorem tableFull_ungrouped (h : p.ogrp = 0) : s.tableFull p = false := by simp [State.tableFull, h]

variable {p s} {e x : OrderEntry}

theorem orderOf_of_orders {t : State} (h : t.orders = s.orders) : t.orderOf p = s.orderOf p := by
  rw [State.orderOf, State.order?, h]
  rfl

/-- Of an entry stored, what a packet finds: nothing but the default where the entry was freed. -/
theorem order?_putOrder (h : e.names p = true) : (s.putOrder p e).order? p =
    if e.applied.all (· == 0) && !e.broken && e.flags.isEmpty then none else some e := by
  have out : (s.orders.filter fun x => !x.names p).find? (fun x => x.names p) = none := by simp [List.find?_eq_none]
  rw [State.order?, State.putOrder]
  split
  · exact out
  · simp [h]

theorem orderOf_putOrder (h : e.names p = true) : ((s.putOrder p e).orderOf p).flags = e.flags ∧
    ((s.putOrder p e).orderOf p).broken = e.broken := by
  rw [State.orderOf, order?_putOrder h]
  split
  · next idle =>
    simp only [Bool.and_eq_true, Bool.not_eq_true', List.isEmpty_iff] at idle
    exact ⟨idle.2.symm, idle.1.2.symm⟩
  · exact ⟨rfl, rfl⟩

theorem orderOf_putOrder_of_flags (h : e.names p = true) (some_ : e.flags ≠ []) : (s.putOrder p e).orderOf p = e := by
  rw [State.orderOf, order?_putOrder h, if_neg (by simp [some_])]
  rfl

theorem putOrder_putOrder (h : e.names p = true) : (s.putOrder p e).putOrder p x = s.putOrder p x := by
  have same : (s.putOrder p e).orders.filter (fun x => !x.names p) = s.orders.filter fun x => !x.names p := by
    rw [State.putOrder]
    dsimp only
    split <;> simp [h]
  rw [State.putOrder, same]
  rfl

theorem count_ungrouped {ok : Bool} (h : p.ogrp = 0) : s.count p ok = s := if_pos h

/-- A counted packet applied where no flag waits. -/
theorem count_quiet (h : p.ogrp ≠ 0) (quiet : (s.orderOf p).flags = []) :
    s.count p true = s.putOrder p { s.orderOf p with applied := bump (s.orderOf p).applied p.path.toNat } := by
  rw [State.count, if_neg h]
  simp only [if_true, quiet, List.length_nil]
  rfl
end

/-! ### The order table through a race with a conversion (R344) -/

section
variable (s : State)

theorem onlySent_tellSpoilt (c prec ms) : OnlySent s (s.tellSpoilt c prec ms) := by
  unfold State.tellSpoilt
  split
  · exact .refl s
  · split
    · exact .refl s
    · exact .foldl (fun t e => .ite (.refl t) (onlySent_tell t _ _)) _ _

theorem plain_orders (k n : Nat) : (s.plain k n).orders = s.orders := by
  refine List.foldlRecOn (motive := fun t : State => t.orders = s.orders) _ _ rfl fun t same x _ => ?_
  refine ((onlyWritten_freeShard _ x.1 x.2).orders.trans ?_).trans same
  exact (OnlySent.ite (.refl t) (onlySent_tellSpoilt t _ _ _)).orders

theorem plainRuns_orders (c : Nat) (rs : List (Nat × Nat)) : (s.plainRuns c rs).orders = s.orders := by
  unfold State.plainRuns
  split
  · rfl
  · refine List.foldlRecOn (motive := fun t : State => t.orders = s.orders) _ _ rfl fun t same r _ => ?_
    split
    · exact same
    · exact List.foldlRecOn (motive := fun t : State => t.orders = s.orders) _ _ same fun u same p _ => (plain_orders u _ _).trans same
end

/-! ### Writes, read requests and atomics (R121, R202, R205, R206, R459) -/

section
variable {p : Packet} {s : State} {rs : List (Nat × Nat)} {f : Ctx → Access (State × Word)}

theorem perform_full (full : s.tableFull p = true) : s.perform p rs f = s.ack p againStatus := if_pos full

theorem perform_unbound (group : p.ogrp = 0) (unbound : s.bound p.src p.ctx p.sctx = none) :
    s.perform p rs f = s.ack p (refusal .xlateNone) := by
  rw [State.perform, if_neg (by simp [tableFull_ungrouped p s group]), unbound]
  exact count_ungrouped group

theorem perform_ok {c : Ctx} {t : State} {x : Word} (room : s.tableFull p = false) (bound : s.bound p.src p.ctx p.sctx = some c)
    (ok : f c = .ok (t, x)) : s.perform p rs f = (t.answer p 3 0 x []).count p true := by
  rw [State.perform, if_neg (by simp [room]), bound]
  simp only [ok]

theorem atomicArrives_word (code : p.rop.toNat < 8) : atomicArrives p s = s.perform p [(p.addr.toNat, 4)] fun c =>
    s.atomicWord c.cnum p.addr.toNat p.rop.toNat p.operand p.compare := if_pos code

/-- An atomic of either kind that is not performed, whatever it would do. -/
theorem atomicArrives_of_perform {t : State} (all : ∀ rs f, s.perform p rs f = t) : atomicArrives p s = t := by
  unfold atomicArrives
  split <;> exact all _ _

theorem readArrives_unbound (unbound : s.bound p.src p.ctx p.sctx = none) : readArrives p s = s.ack p (refusal .xlateNone) := by
  rw [readArrives, unbound]

variable {c : Ctx} {u : State} (bound : s.bound p.src p.ctx p.sctx = some c)
include bound

theorem readArrives_ok {bs : List Byte} (ok : s.greadRuns c.cnum (packetSpans p p.len.toNat) = .ok (u, bs)) :
    readArrives p s = u.answer p 2 0 0 bs := by
  rw [readArrives, bound]
  simp only [ok]

/-- A write applied: acknowledged, and counted in the entry that it found. -/
theorem writeArrives_ok (room : s.tableFull p = false) (ok : s.gwriteRuns c.cnum (packetSpans p p.data.length) p.data = .ok u) :
    let v := if p.pce then u else u.plainRuns c.cnum (packetSpans p p.data.length)
    writeArrives p s = (v.answer p 3 0 0 []).count p true ∧ (v.answer p 3 0 0 []).orderOf p = s.orderOf p := by
  refine ⟨perform_ok room bound (by simp only [ok]; rfl), orderOf_of_orders ((onlySent_answer _ _ _ _ _ _).orders.trans ?_)⟩
  split
  · exact (onlyWritten_gwriteRuns ok).orders
  · exact (plainRuns_orders _ _ _).trans (onlyWritten_gwriteRuns ok).orders
end

/-- R121, R202, R205, R206, R459. -/
theorem packetsApplied : Claim.PacketsApplied := by
  intro p c u s arg dst well
  have write (o : s.linkOpen p = true) := arrival_comes (exec_write s) ⟨arg, dst, well, o⟩
  have read (o : s.linkOpen p = true) := arrival_comes (exec_readRequest s) ⟨arg, dst, well, o⟩
  have atomic (o : s.linkOpen p = true) := arrival_comes (exec_atomic s) ⟨arg, dst, well, o⟩
  refine ⟨arrival_other (exec_write s) arg, arrival_other (exec_readRequest s) arg, arrival_other (exec_atomic s) arg,
    fun closed => ⟨arrival_closed (exec_write s) arg closed, arrival_closed (exec_readRequest s) arg closed,
      arrival_closed (exec_atomic s) arg closed⟩,
    fun o bound room => ⟨fun ht ok => ?_, fun ht bs ok => readArrives_ok bound ok ▸ read o ht, fun ht code group old ok => ?_⟩,
    fun o unbound group => ?_, fun o full => ?_⟩
  · obtain ⟨eq, entry⟩ := writeArrives_ok bound room ok
    have done := write o ht
    rw [eq] at done
    refine ⟨fun group => ?_, fun group quiet => ?_⟩
    · rwa [count_ungrouped group] at done
    · rwa [count_quiet group (by rw [entry, quiet]), entry] at done
  · have done := atomic o ht
    rwa [atomicArrives_word code, perform_ok room bound ok, count_ungrouped group] at done
  · have refused rs f : s.perform p rs f = s.ack p (refusal .xlateNone) := perform_unbound group unbound
    exact ⟨fun ht => refused _ _ ▸ write o ht, fun ht => readArrives_unbound unbound ▸ read o ht,
      fun ht => atomicArrives_of_perform refused ▸ atomic o ht⟩
  · have refused rs f : s.perform p rs f = s.ack p againStatus := perform_full full
    exact ⟨fun ht => refused _ _ ▸ write o ht, fun ht _ => atomicArrives_of_perform refused ▸ atomic o ht⟩

/-! ### Flags (R124) -/

/-- Whether the applied counts of an entry have reached those that a flag carries. -/
def countsReached (e : OrderEntry) (p : Packet) : Bool := (e.applied.zip p.counts).all fun x => decide (x.2 ≤ x.1)

/-- An entry after a flag has taken its counts off. -/
def countsOff (e : OrderEntry) (p : Packet) : OrderEntry := { e with applied := (e.applied.zip p.counts).map fun x => x.1 - x.2, flags := [] }

/-- An entry cleared by a flag that a broken write has overtaken. -/
def entryCleared (e : OrderEntry) : OrderEntry := { e with applied := [0, 0, 0, 0], broken := false, flags := [] }

section
variable {p : Packet} {s : State}

theorem takeFlag_full (full : s.tableFull p = true) : State.takeFlag p s = s.ack p againStatus := if_pos full

variable (room : s.tableFull p = false) (quiet : (s.orderOf p).flags = [])
include room quiet

/-- A flag that finds no other, by what its entry says. -/
theorem takeFlag_quiet : State.takeFlag p s =
    if (s.orderOf p).broken then (s.putOrder p (entryCleared (s.orderOf p))).ack p (refusal .ordBroken)
    else if countsReached (s.orderOf p) p then (s.putOrder p (countsOff (s.orderOf p) p)).applyFlag p
    else s.putOrder p { s.orderOf p with flags := [p] } := by
  have names : ({ s.orderOf p with flags := [p] } : OrderEntry).names p = true := orderOf_names p s
  have joined := orderOf_putOrder_of_flags (s := s) names (List.cons_ne_nil _ _)
  rw [State.takeFlag, if_neg (by simp [room])]
  simp only [quiet, List.nil_append, List.length_nil, runFlags, joined]
  rw [putOrder_putOrder names, putOrder_putOrder names]
  rfl

theorem takeFlag_broken (broken : (s.orderOf p).broken = true) :
    State.takeFlag p s = (s.putOrder p (entryCleared (s.orderOf p))).ack p (refusal .ordBroken) := by
  rw [takeFlag_quiet room quiet, if_pos broken]

variable (sound : (s.orderOf p).broken = false)
include sound

theorem takeFlag_reached (enough : countsReached (s.orderOf p) p = true) :
    State.takeFlag p s = (s.putOrder p (countsOff (s.orderOf p) p)).applyFlag p := by
  rw [takeFlag_quiet room quiet, sound, if_neg Bool.false_ne_true, if_pos enough]

theorem takeFlag_early (early : countsReached (s.orderOf p) p = false) :
    State.takeFlag p s = s.putOrder p { s.orderOf p with flags := [p] } := by
  rw [takeFlag_quiet room quiet, sound, early, if_neg Bool.false_ne_true, if_neg Bool.false_ne_true]
end

/-- What a packet finds of the entry that was stored for it last. -/
theorem orderOf_stored {p : Packet} {s t : State} {e : OrderEntry} (names : e.names p = true) (kept : t.orders = (s.putOrder p e).orders) :
    (t.orderOf p).flags = e.flags ∧ (t.orderOf p).broken = e.broken := by
  rw [orderOf_of_orders kept]
  exact orderOf_putOrder names

theorem answer_outbox {s : State} {p : Packet} (type : BitVec 4) (st : Nat) (x : Word) (bs : List Byte) (here : p.src ∉ s.lostPkgs)
    (path : s.usable p.src ≠ []) : ∃ a, (s.answer p type st x bs).outbox = s.outbox ++ [a] ∧ a.type = type ∧ a.dst = p.src ∧ a.id = p.id ∧
      a.status = BitVec.ofNat 8 st := by
  obtain ⟨q, eq⟩ := emit_pkt_outbox here path _
  exact ⟨_, eq, rfl, rfl, rfl, rfl⟩

theorem converting_of_unmetered {s t : State} (h : t.ctxs.map unmetered = s.ctxs.map unmetered) : t.converting = s.converting := by
  have look (u : State) : u.converting = (u.ctxs.map unmetered).any fun x => x.ptab.any fun y => (Rec.ofBits y.2).conv := by
    rw [List.any_map]
    rfl
  rw [look, look, h]

section
variable {p : Packet} {e : OrderEntry} {s w : State}

/-- A flag's word written where no conversion is under way: memory is as the write leaves it, and the acknowledgement follows. -/
theorem applyFlag_ordered {c : Ctx} {u : State} (ht : p.type ≠ 5) (bound : s.bound p.src p.ctx p.sctx = some c)
    (ok : s.gwrite c.cnum p.addr.toNat p.data = .ok u) (quiet : s.converting = false) :
    ∃ w, (s.putOrder p e).applyFlag p = w.ack p 0 ∧ w.mem = u.mem ∧ OnlyWritten (s.putOrder p e) w := by
  have map : SameMap s (s.putOrder p e) := ⟨rfl, rfl⟩
  obtain ⟨w, ok'⟩ := gwrite_of_sameMap map rfl ok
  have still : w.converting = false := (converting_of_unmetered (sameWorld_gwrite ok').ctxs).trans quiet
  have bound' : (s.putOrder p e).bound p.src p.ctx p.sctx = some c := bound
  refine ⟨w, ?_, gwrite_mem_of_same map ⟨rfl, rfl, rfl⟩ ok ok', onlyWritten_gwrite ok'⟩
  rw [State.applyFlag, if_neg ht, bound']
  simp only [ok', State.plainRuns, still, if_true]

/-- An acknowledgement after a flag's entry has been stored and its word written. -/
theorem ack_stored_outbox (same : OnlyWritten (s.putOrder p e) w) (st : Nat) (here : p.src ∉ s.lostPkgs) (path : s.usable p.src ≠ []) :
    ∃ a, (w.ack p st).outbox = s.outbox ++ [a] ∧ a.type = 3 ∧ a.dst = p.src ∧ a.id = p.id ∧ a.status = BitVec.ofNat 8 st := by
  obtain ⟨_, _, _, _, _, rfl⟩ := same
  exact answer_outbox 3 st 0 [] here path

theorem ack_stored_orderOf (same : OnlyWritten (s.putOrder p e) w) (st : Nat) (names : e.names p = true) :
    ((w.ack p st).orderOf p).flags = e.flags ∧ ((w.ack p st).orderOf p).broken = e.broken :=
  orderOf_stored names ((onlySent_ack w p st).orders.trans same.orders)
end

/-- R124. -/
theorem orderedFlag : Claim.OrderedFlag := by
  intro p c u s arg dst ht well inService room e reached sends quiet bound ok still
  have done := arrival_comes (exec_orderedFlag s) ⟨arg, dst, well, inService⟩ ht
  have names : e.names p = true := orderOf_names p s
  refine ⟨fun sound enough => ?_, fun sound early => ?_, fun broken => ?_⟩
  · obtain ⟨w, eq, mem, same⟩ := applyFlag_ordered (e := countsOff e p) (by simp [ht]) bound ok still
    rw [takeFlag_reached room quiet sound enough, eq] at done
    obtain ⟨flags, fine⟩ := ack_stored_orderOf same 0 names
    exact ⟨_, done, by rw [ack_mem, mem], flags, fine.trans sound, ack_stored_outbox same 0⟩
  · rw [takeFlag_early room quiet sound early] at done
    have joined : (s.putOrder p { e with flags := [p] }).orderOf p = { e with flags := [p] } :=
      orderOf_putOrder_of_flags names (List.cons_ne_nil _ _)
    have applied := congrArg OrderEntry.applied joined
    exact ⟨_, done, rfl, rfl, congrArg OrderEntry.flags joined, applied⟩
  · rw [takeFlag_broken room quiet broken] at done
    obtain ⟨flags, fine⟩ := ack_stored_orderOf (s := s) (e := entryCleared e) (.refl _) (refusal .ordBroken) names
    exact ⟨_, done, by rw [ack_mem, putOrder_mem], fine, flags, ack_stored_outbox (.refl _) _⟩

/-- R124. -/
theorem countOnlyFlag : Claim.CountOnlyFlag := by
  intro p s arg dst ht well inService e reached
  have done := arrival_comes (exec_countOnlyFlag s) ⟨arg, dst, well, inService⟩ ht
  refine ⟨fun full => takeFlag_full full ▸ done, fun room quiet => ⟨fun sound enough => ?_, fun sound early => ?_, fun broken => ?_⟩⟩
  · have off : countsOff e p = { e with applied := (e.applied.zip p.counts).map fun x => x.1 - x.2 } := by rw [countsOff, ← quiet]
    have acked (t : State) : t.applyFlag p = t.ack p 0 := if_pos ht
    rw [takeFlag_reached room quiet sound enough, acked] at done
    exact ⟨_, rfl, off ▸ done, by rw [ack_mem, putOrder_mem], (onlySent_ack _ _ _).tile⟩
  · rwa [takeFlag_early room quiet sound early] at done
  · have cleared : entryCleared e = { e with applied := [0, 0, 0, 0], broken := false } := by rw [entryCleared, ← quiet]
    rw [takeFlag_broken room quiet broken] at done
    exact cleared ▸ done

/-! ### Malformed packets (R426) -/

theorem malformed_of_fields {p : Packet} (s : State) (h : p.spare ≠ 0 ∨ 8 ≤ p.type.toNat ∨ 44 ≤ p.vlane.toNat ∨ 256 < p.len.toNat) :
    s.malformed p = true := by
  rw [State.malformed]
  rcases h with h | h | h | h <;> simp [h]

/-- A link has a number below 47 (R382). -/
theorem lastLink_lt (src dst : BitVec 12) (p : Nat) : (lastLink src dst p).getD 0 < 47 := by
  cases h : lastLink src dst p with
  | none => decide
  | some n =>
    obtain ⟨x, -, found⟩ := Option.bind_eq_some_iff.mp h
    exact List.mem_range.mp (List.mem_of_find?_eq_some found)

theorem reject_cause (src dst : BitVec 12) (p : Nat) : ((lastLink src dst p).getD 0 + 4 * 2 ^ 8) / 2 ^ 8 = 4 := by
  have small := lastLink_lt src dst p
  omega

/-- The report of a malformed packet: cause 4, and the link that it came by. -/
theorem rejectPacket_mail (p : Packet) (s : State) :
    ∃ m ∈ (s.rejectPacket p).mail, m.trap.cls = .linkFail ∧ m.trap.addr / 2 ^ 8 = 4 ∧ m.fctx = 0 := by
  exact ⟨_, List.mem_append_right _ List.mem_cons_self, rfl, reject_cause _ _ _, rfl⟩

/-- R386, R426, R432. -/
theorem malformedPackets : Claim.MalformedPackets := by
  intro p s arg dst
  have eq : exec .malformedPacket s =
      .next (if p.dst = s.self ∧ s.linkOpen p = true ∧ s.malformed p = true then s.rejectPacket p else s) := by
    show execMalformedPacket s = _
    rw [execMalformedPacket, arg]
  refine ⟨fun quiet => ?_, malformed_of_fields s, fun bad inService => ?_⟩
  · have skip : ¬(p.dst = s.self ∧ s.linkOpen p = true ∧ s.malformed p = true) := by
      rcases quiet with well | closed <;> simp [*]
    rwa [if_neg skip] at eq
  · have rejects {i : Instr} {type : BitVec 4} {f : Packet → State → State} (hi : exec i s = arrival type f s) :=
      arrival_malformed hi arg dst inService bad
    rw [if_pos ⟨dst, inService, bad⟩] at eq
    exact ⟨_, eq, rejects (exec_write s), rejects (exec_readRequest s), rejects (exec_readData s), rejects (exec_acknowledgement s),
      rejects (exec_orderedFlag s), rejects (exec_countOnlyFlag s), rejects (exec_atomic s), rejectPacket_mail p s⟩

/-- Settles O46: packets by what the ingress does with each type, flags by what their entry of the order table says. -/
theorem fabricArrivals : Obligations.FabricArrivals := ⟨packetsApplied, orderedFlag, countOnlyFlag, malformedPackets⟩

end Sys2Proof.Laws
end

section
/-! What comes back to the source of a packet: acknowledgements, refusals and read data (R121, R124, R202, R205, R428). -/

namespace Sys2Proof.Laws

open Machine

/-! ### A change made with a core of some tile -/

section
variable {s : State} {pt : BitVec 8} {c : CoreId} {f : State → State}

/-- With a core of the tile in focus. -/
theorem onCore_focus {t : State} (h : f { s with sel := c } = t) (ptile : t.tile.ptile = s.tile.ptile) :
    s.onCore s.tile.ptile c f = some { t with sel := s.sel } := by
  have there : s.swap s.tile.ptile = some s := if_pos rfl
  have back : t.swap s.tile.ptile = some t := if_pos ptile
  rw [State.onCore, there]
  dsimp only
  rw [h, back]
  rfl

/-- With an operation of the tile in focus. -/
theorem onOpSent_focus {t : State} {q : BitVec 16} {f : State → Op → State} {o : Op} (found : s.tile.op? c q = some o) (sound : o.fault = none)
    (h : f { s with sel := c } o = t) (ptile : t.tile.ptile = s.tile.ptile) : s.onOpSent s.tile.ptile c q f = { t with sel := s.sel } := by
  rw [State.onOpSent, onCore_focus (t := t) ?_ ptile]
  · rfl
  · simp only [found, sound]
    exact h

/-- What neither a change of the tile in focus and the turn nor f touches is as it was. -/
theorem onCore_getD_eq {α : Type} {g : State → α} (focus : ∀ t x r c, g { t with tile := x, rest := r, sel := c } = g t)
    (keep : ∀ t, g (f t) = g t) : g ((s.onCore pt c f).getD s) = g s := by
  have swap {t u : State} {q : BitVec 8} (e : t.swap q = some u) : g u = g t := by
    unfold State.swap at e
    split at e
    · cases e; rfl
    · split at e
      · exact nomatch e
      · cases e; exact focus t _ _ _
  unfold State.onCore
  cases there : s.swap pt with
  | none => rfl
  | some t =>
    dsimp only
    cases back : (f { t with sel := c }).swap s.tile.ptile with
    | none => rfl
    | some u =>
      calc g { u with sel := s.sel } = g u := focus u _ _ _
        _ = g (f { t with sel := c }) := swap back
        _ = g { t with sel := c } := keep _
        _ = g t := focus t _ _ _
        _ = g s := swap there

theorem taskTile_focus {tid : Nat} (resident : s.tile.resident = true) (task : s.tile.task.id = tid) : s.taskTile tid = some s.tile := by
  simp [State.taskTile, State.tiles, resident, task]
end

theorem tryComplete_unacked (s : State) : s.tryComplete.unacked = s.unacked := by
  unfold State.tryComplete
  split
  · rfl
  · split
    · rfl
    · split
      · rfl
      · unfold State.takeTrap
        split <;> rfl

/-! ### The answers (R121, R124, R404) -/

/-- The status of a refusal names its class (R404). -/
theorem statusClass_refusal (cls : TrapClass) : statusClass (BitVec.ofNat 8 (refusal cls)) = cls := by cases cls <;> rfl

section
variable {p : Packet} {u : Sent} {s : State}

theorem mem_unacked_of_sent (h : s.sent? p = some u) : u ∈ s.unacked := List.mem_of_find?_eq_some h

/-- An answer that does not come by a link in service, or that changes nothing, changes nothing. -/
theorem arrival_same {i : Instr} {type : BitVec 4} {f : Packet → State → State} (hi : exec i s = arrival type f s)
    (arg : s.arg = .packet p) (dst : p.dst = s.self) (well : s.malformed p = false) (h : f p s = s ∨ s.linkOpen p = false) : Does i s s := by
  by_cases o : s.linkOpen p = true
  · by_cases ht : p.type = type
    · have done := arrival_comes hi ⟨arg, dst, well, o⟩ ht
      rwa [h.resolve_right (by simp [o])] at done
    · exact arrival_other hi arg ht
  · exact arrival_closed hi arg (by simpa using o)

theorem ackArrives_unsent (h : s.sent? p = none) : ackArrives p s = s := by rw [ackArrives, h]
theorem dataArrives_unsent (h : s.sent? p = none) : dataArrives p s = s := by rw [dataArrives, h]

variable (sent : s.sent? p = some u)
include sent

theorem ackArrives_again (h : p.status = 255) : ackArrives p s =
    ({ s with unacked := s.unacked.map fun v => if v = u then { v with again := true } else v } : State).after 3000 .refusedPacketResend
      (.packet u.pkt) := by
  rw [ackArrives, sent]
  exact if_pos (by rw [h]; rfl)

theorem ackArrives_positive (h : p.status = 0) : ackArrives p s = (s.settled u).appliedPacket u p.operand := by
  rw [ackArrives, sent]
  exact (if_neg (by rw [h]; decide)).trans (if_pos h)

theorem ackArrives_negative (nonzero : p.status ≠ 0) (room : p.status ≠ 255) :
    ackArrives p s = (s.settled u).refusedPacket u (statusClass p.status) := by
  have other : p.status.toNat ≠ againStatus := fun e => room (BitVec.eq_of_toNat_eq e)
  rw [ackArrives, sent]
  exact (if_neg other).trans (if_neg nonzero)
end

/-! ### An st.rel or an ordered flag acknowledged (R121) -/

theorem appliedPacket_rel {u : Sent} {s : State} (x : Word) (own : u.own = .rel) :
    (s.appliedPacket u x).mem = s.mem ∧ (s.appliedPacket u x).unacked = s.unacked := by
  unfold State.appliedPacket
  rw [own]
  dsimp only
  split
  · exact ⟨rfl, rfl⟩
  · exact ⟨onCore_getD_eq (g := State.mem) (fun _ _ _ _ => rfl) (fun t => tryComplete_mem t),
      onCore_getD_eq (g := State.unacked) (fun _ _ _ _ => rfl) tryComplete_unacked⟩

/-! ### The one part of an operation acknowledged (R94, R202) -/

section
variable {s t : State} {k n : Nat}

theorem bar_of_mem (h : t.mem = s.mem) (k : Nat) : t.bar k = s.bar k := by rw [State.bar, State.readNat, h]; rfl

/-- The numbers of a slot in memory fit in its fields (R92). -/
theorem bar_fits (s : State) (k : Nat) : (s.bar k).ecode < 8 ∧ (s.bar k).pend < 2 ^ 16 ∧ (s.bar k).bytes < 2 ^ 32 :=
  ⟨Nat.mod_lt _ (by decide), Nat.mod_lt _ (by decide), Nat.mod_lt _ (by decide)⟩

theorem flip_keeps (x : Bar) : x.flip.ecode = x.ecode ∧ x.flip.pend = x.pend ∧ x.flip.bytes = x.bytes := by
  unfold Bar.flip
  split <;> exact ⟨rfl, rfl, rfl⟩

theorem credit_fits {x : Bar} (h : x.ecode < 8 ∧ x.pend < 2 ^ 16 ∧ x.bytes < 2 ^ 32) (n : Nat) (c : BitVec 64) :
    (x.credit n c).ecode < 8 ∧ (x.credit n c).pend < 2 ^ 16 ∧ (x.credit n c).bytes < 2 ^ 32 := by
  obtain ⟨ecode, pend, bytes⟩ := h
  unfold Bar.credit
  split
  · unfold Bar.fail
    split
    · exact ⟨ecode, pend, Nat.two_pow_pos 32⟩
    · exact ⟨Nat.one_lt_succ_succ 6, pend, Nat.two_pow_pos 32⟩
  · rw [(flip_keeps _).1, (flip_keeps _).2.1, (flip_keeps _).2.2]
    exact ⟨ecode, pend, (Nat.sub_le _ _).trans_lt bytes⟩

theorem credit_bytes (x : Bar) (n : Nat) (c : BitVec 64) : (x.credit n c).bytes = (x.credit n 0).bytes := by
  unfold Bar.credit
  split
  · rfl
  · rw [(flip_keeps _).2.2, (flip_keeps _).2.2]

/-- A credit to a live slot is what the slot then holds. -/
theorem engineBar_credit (live : (s.bar k).live = true) (n : Nat) (c : BitVec 64) :
    (s.engineBar (some k) fun x => x.credit n c).bar k = (s.bar k).credit n c := by
  obtain ⟨ecode, pend, bytes⟩ := credit_fits (bar_fits s k) n c
  rw [State.engineBar, if_pos live]
  exact (barrierSlotReadsBack s k _ ecode pend bytes).1

theorem engineBar_tile (b : Option Nat) (f : Bar → Bar) : (s.engineBar b f).tile = s.tile := by
  unfold State.engineBar
  split
  · rfl
  · split <;> rfl

theorem opEnds_same (s : State) (o : Op) : (s.opEnds o).mem = s.mem ∧ (s.opEnds o).tile = s.tile := by simp [State.opEnds]
end

section
variable {t : Tile} {c : CoreId} {q : BitVec 16} {o : Op}

theorem op?_key (h : t.op? c q = some o) : o.core = c ∧ o.seq = q := by
  simpa using List.find?_some (p := fun o : Op => decide (o.core = c ∧ o.seq = q)) h

theorem op?_mapOp {f : Op → Op} (key : ∀ x, (f x).core = x.core ∧ (f x).seq = x.seq) (h : t.op? c q = some o) :
    (t.mapOp c q f).op? c q = some (f o) := by
  have same (x : Op) : decide ((if x.core = c ∧ x.seq = q then f x else x).core = c ∧ (if x.core = c ∧ x.seq = q then f x else x).seq = q) =
      decide (x.core = c ∧ x.seq = q) := by split <;> simp [key]
  rw [Tile.op?, Tile.mapOp, List.find?_map]
  simp only [Function.comp_def, same]
  exact (congrArg _ h).trans (congrArg some (if_pos (op?_key h)))
end

/-- The state in which a part of an operation has been credited and recorded, before the end of the operation is looked at. -/
def partCredited (s : State) (o : Op) (i : Nat) : State :=
  (s.engineBar o.dbar fun x => x.credit ((o.parts[i]?.map (·.2)).getD 0) (o.partChunks o.parts i)).mapOp o fun q =>
    { q with acked := i :: o.acked, done := Op.reached { o with acked := i :: o.acked } o.parts }

section
variable {s : State} {o : Op} {i k r : Nat}

theorem partDone_same (fresh : i ∉ o.acked) :
    (s.partDone o i).mem = (partCredited s o i).mem ∧ (s.partDone o i).tile = (partCredited s o i).tile := by
  unfold State.partDone
  rw [if_neg (by simpa using fresh)]
  dsimp only
  split
  · exact opEnds_same _ _
  · exact ⟨rfl, rfl⟩

/-- The acknowledgement of the only part of an operation: its barrier has the credit of the part, the operation the acknowledgement. -/
theorem partDone_only {c : CoreId} {q : BitVec 16} (found : s.tile.op? c q = some o) (first : o.acked = []) (parts : o.parts = [(0, k)]) (bar : o.dbar = some r)
    (live : (s.bar r).live = true) :
    ((s.partDone o 0).bar r).bytes = ((s.bar r).credit k 0).bytes ∧
      (∃ y, (s.partDone o 0).tile.op? c q = some y ∧ y.acked = [0]) ∧ (s.partDone o 0).tile.ptile = s.tile.ptile := by
  obtain ⟨rfl, rfl⟩ := op?_key found
  obtain ⟨mem, tile⟩ := partDone_same (s := s) (i := 0) (o := o) (by simp [first])
  have credited : (partCredited s o 0).mem = (s.engineBar (some r) fun x => x.credit k (o.partChunks [(0, k)] 0)).mem := by
    rw [partCredited, bar, parts]
    rfl
  have recorded : (partCredited s o 0).tile = s.tile.mapOp o.core o.seq fun q =>
      { q with acked := 0 :: o.acked, done := Op.reached { o with acked := 0 :: o.acked } o.parts } := by
    rw [partCredited, State.mapOp, setTile_tile, engineBar_tile]
  rw [bar_of_mem (mem.trans credited), engineBar_credit live, tile, recorded]
  exact ⟨credit_bytes _ _ _, ⟨_, op?_mapOp (fun _ => ⟨rfl, rfl⟩) found, by rw [first]⟩, rfl⟩
end

/-- The packet of an operation, of a task that is on the tile in focus, is acknowledged: the part is done. -/
theorem appliedPacket_op {u : Sent} {s : State} {q : BitVec 16} {i : Nat} {o : Op} (x : Word) (own : u.own = .op q i)
    (resident : s.tile.resident = true) (task : s.tile.task.id = u.tid) (found : s.tile.op? u.core q = some o) (sound : o.fault = none)
    (rat : ∀ a x y z d w, o.kind ≠ .rat a x y z d w) (place : ∀ d, o.kind ≠ .stPlace d)
    (ptile : (State.partDone { s with sel := u.core } o i).tile.ptile = s.tile.ptile) :
    s.appliedPacket u x = { State.partDone { s with sel := u.core } o i with sel := s.sel } := by
  unfold State.appliedPacket
  simp only [own, taskTile_focus resident task]
  refine onOpSent_focus found sound ?_ ptile
  split
  · next h => exact absurd h (rat _ _ _ _ _ _)
  · next h => exact absurd h (place _)
  · rfl

/-! ### A refused packet of an st.rel (R428) -/

theorem setCore_self (t : Tile) (c : CoreId) : t.setCore c (t.core c) = t := by cases c <;> rfl

/-- What a change of one core leaves of every core, where it leaves it of that one. -/
theorem core_setCore_of_eq {α : Type} (g : CoreSt → α) {t : Tile} {c : CoreId} {x : CoreSt} (h : g x = g (t.core c)) (e : CoreId) :
    g ((t.setCore c x).core e) = g (t.core e) := by
  by_cases here : e = c
  · rw [here, tile_setCore_core, h]
  · rw [tile_setCore_core_ne _ _ _ _ here]

theorem breakRel_of_none {c : CoreSt} (own : Bool) (u : Sent) (t : Trap) (h : c.relMark = none) : c.breakRel own u t = c := by
  rw [CoreSt.breakRel, h]

theorem uncount_eq (s : State) (u : Sent) : ∃ l, s.uncount u = s.setCore { s.core with sent := l } := by
  unfold State.uncount
  dsimp only
  split
  · exact ⟨_, rfl⟩
  · refine ⟨s.core.sent, ?_⟩
    show s = s.setTile (s.tile.setCore s.sel s.core)
    rw [State.core, setCore_self]
    rfl

section
variable {s : State} {u : Sent} {t : Trap}

/-- A broken write where no release is under way: the fault waits for the stream's report point, and nothing else of its core changes. -/
theorem breakWrite_tile (none_ : ∀ c, (s.tile.core c).relMark = none) (free : t.op = none)
    (runs : (s.tile.core u.core).fin = false) :
    (s.breakWrite u t).tile = s.tile.setCore u.core { s.tile.core u.core with late := (s.tile.core u.core).late ++ [t] } := by
  unfold State.breakWrite
  simp only [breakRel_of_none _ _ _ (none_ _), setCore_self, setTile_tile]
  rw [tryComplete_of_running (c := u.core)]
  · simp [free]
  · simp [free, runs]

theorem refusedHere_rel (cls : TrapClass) (pod : Nat) (own : u.own = .rel) (ht : u.pkt.type ≠ 4) :
    s.refusedHere u cls pod = (s.uncount u).breakWrite u (u.trap cls pod) := by
  unfold State.refusedHere
  simp only [own, ht, and_false, if_false]

theorem trap_op (u : Sent) (cls : TrapClass) (pod : Nat) : (u.trap cls pod).op = none := by
  unfold Sent.trap
  split <;> rfl
end

/-- A write of an st.rel refused, with the tile of its task in focus and its core's turn. -/
theorem refusedHere_rel_tile {v : State} {u : Sent} (cls : TrapClass) (pod : Nat) (own : u.own = .rel)
    (ht : u.pkt.type ≠ 4) (runs : (v.tile.core u.core).fin = false) (none_ : ∀ c, (v.tile.core c).relMark = none) :
    ((v.refusedHere u cls pod).tile.core u.core).late = (v.tile.core u.core).late ++ [u.trap cls pod] ∧
      (v.refusedHere u cls pod).tile.ptile = v.tile.ptile := by
  obtain ⟨l, eq⟩ := uncount_eq v u
  have keep {α : Type} (g : CoreSt → α) (h : g { v.core with sent := l } = g v.core) (c : CoreId) :
      g ((v.uncount u).tile.core c) = g (v.tile.core c) := by
    rw [eq]
    exact core_setCore_of_eq g h c
  rw [refusedHere_rel cls pod own ht, breakWrite_tile (fun c => (keep (·.relMark) rfl c).trans (none_ c)) (trap_op u cls pod)
    ((keep (·.fin) rfl _).trans runs), tile_setCore_core, keep (·.late) rfl, tile_setCore_ptile, eq, setCore_tile, tile_setCore_ptile]
  exact ⟨rfl, rfl⟩

/-- A write of an st.rel refused, of a task that is on the tile in focus and has no release under way: its fault waits for a report point. -/
theorem refusedPacket_rel {s : State} {u : Sent} (cls : TrapClass) (own : u.own = .rel) (ht : u.pkt.type ≠ 4)
    (resident : s.tile.resident = true) (task : s.tile.task.id = u.tid) (runs : (s.tile.core u.core).fin = false)
    (none_ : ∀ c, (s.tile.core c).relMark = none) :
    (s.refusedPacket u cls).mem = s.mem ∧
      ((s.refusedPacket u cls).tile.core u.core).late = (s.tile.core u.core).late ++ [u.trap cls (s.podOf u)] := by
  obtain ⟨late, ptile⟩ := refusedHere_rel_tile (v := { s with sel := u.core }) cls (s.podOf u) own ht runs none_
  have mem : (State.refusedHere { s with sel := u.core } u cls (s.podOf u)).mem = s.mem := by
    rw [refusedHere_rel cls _ own ht, breakWrite_mem, uncount_mem]
  have run := onCore_focus (c := u.core) (f := fun v => v.refusedHere u cls (s.podOf u)) rfl ptile
  unfold State.refusedPacket
  simp only [own, taskTile_focus resident task, run, Option.getD_some]
  exact ⟨mem, late⟩

/-! ### The word of an ld.acq (R205) -/

/-- Nothing differs but the token queues of the tile in focus. -/
def OnlyQueues (s t : State) : Prop := ∃ q, t = s.setTile { s.tile with q := q }

theorem OnlyQueues.refl (s : State) : OnlyQueues s s := ⟨s.tile.q, rfl⟩

theorem OnlyQueues.trans {s t u : State} (a : OnlyQueues s t) (b : OnlyQueues t u) : OnlyQueues s u := by
  obtain ⟨q, rfl⟩ := a
  obtain ⟨r, rfl⟩ := b
  exact ⟨r, rfl⟩

section
variable {s t : State}

theorem OnlyQueues.core (h : OnlyQueues s t) : t.core = s.core := by
  obtain ⟨q, rfl⟩ := h
  rw [State.core, State.core]
  cases turn : s.sel <;> simp only [setTile_sel, turn] <;> rfl

theorem takeBit_queues {yes b : Bool} (e : takeBit s yes b = .ok t) : OnlyQueues s t := by
  unfold takeBit at e
  split at e
  · split at e
    · cases e; exact ⟨_, rfl⟩
    · exact nomatch e
  · cases e; exact .refl _

theorem putBit_queues {yes b : Bool} {x : Slot} (e : putBit s yes b x = .ok t) : OnlyQueues s t := by
  unfold putBit at e
  split at e
  · split at e
    · cases e; exact ⟨_, rfl⟩
    · exact nomatch e
  · cases e; exact .refl _

/-- Tokens taken and reserved change nothing but the tile's queues (R43). -/
theorem tokens_queues {k : Tok} {x : Slot} (e : tokens s k x = .ok t) : OnlyQueues s t := by
  unfold tokens at e
  cases ha : takeBit s k.tka false with
  | error h => rw [ha] at e; exact nomatch e
  | ok a =>
    cases hb : takeBit a k.tkb true with
    | error h => simp [ha, hb, bind, Except.bind] at e
    | ok b =>
      cases hc : putBit b k.pta false x with
      | error h => simp [ha, hb, hc, bind, Except.bind] at e
      | ok c =>
        simp only [ha, hb, hc, bind, Except.bind] at e
        exact (((takeBit_queues ha).trans (takeBit_queues hb)).trans (putBit_queues hc)).trans (putBit_queues e)

theorem wg_hold (c : CoreSt) (r : GReg) (x : Word) : (c.wg r x).hold = c.hold := by
  unfold CoreSt.wg
  split <;> rfl

/-- The word comes that an ld.acq waits for: it is written, and the instruction retires. -/
theorem acqLand_eq {id : Nat} {d : GReg} {k : Tok} (x : Word) (hold : s.core.hold = some (.packet id d k)) :
    ∃ t, OnlyQueues (s.setCore { s.core with hold := none }) t ∧ s.acqLand id x = (t.putG d x).retirePriv k.stall := by
  unfold State.acqLand
  simp only [hold, ne_eq, not_true_eq_false, if_false]
  split
  · next u e => exact ⟨u, tokens_queues e, rfl⟩
  · exact ⟨_, .refl _, rfl⟩

theorem acqLand_core {id : Nat} {d : GReg} {k : Tok} (x : Word) (hold : s.core.hold = some (.packet id d k)) :
    (s.acqLand id x).tile.core s.sel = ({ s.core with hold := none }.wg d x).retire s.now k.stall.toNat ∧ (s.acqLand id x).mem = s.mem ∧
      (s.acqLand id x).tile.ptile = s.tile.ptile := by
  obtain ⟨t, same, eq⟩ := acqLand_eq (s := s) x hold
  have core : t.core = { s.core with hold := none } := same.core.trans (setCore_core s _)
  have put : (t.putG d x).core = t.core.wg d x := setCore_core t _
  obtain ⟨q, rfl⟩ := same
  rw [eq]
  refine ⟨?_, rfl, ?_⟩
  · refine (setCore_core (State.putG _ d x) _).trans ?_
    rw [put, core]
    rfl
  · simp only [State.retirePriv, State.putG, setCore_tile, tile_setCore_ptile, setTile_tile]
end

/-- Read data for an ld.acq of a task that is on the tile in focus. -/
theorem dataArrives_acq {p : Packet} {u : Sent} {s : State} {d : GReg} {k : Tok} (sent : s.sent? p = some u) (own : u.own = .acq)
    (resident : s.tile.resident = true) (task : s.tile.task.id = u.tid)
    (hold : (s.tile.core u.core).hold = some (.packet u.pkt.id d k)) :
    (dataArrives p s).mem = s.mem ∧ (dataArrives p s).tile.core u.core =
      ({ s.tile.core u.core with hold := none }.wg d (BitVec.ofNat 32 (leNat p.data))).retire s.now k.stall.toNat := by
  obtain ⟨core, mem, ptile⟩ := acqLand_core (s := { s.settled u with sel := u.core }) (BitVec.ofNat 32 (leNat p.data)) hold
  have run := onCore_focus (s := s.settled u) (c := u.core) (f := fun v => v.acqLand u.pkt.id (BitVec.ofNat 32 (leNat p.data))) rfl ptile
  have here : (s.settled u).taskTile u.tid = some (s.settled u).tile := taskTile_focus resident task
  unfold dataArrives
  simp only [sent, own, here, run, Option.getD_some]
  exact ⟨mem, core⟩

theorem dataArrives_req {p : Packet} {u : Sent} {s : State} {n i : Nat} (sent : s.sent? p = some u) (own : u.own = .req n i) :
    dataArrives p s = (s.settled u).keep u p.data := by
  unfold dataArrives
  simp only [sent, own]

/-! ### A packet sent again (R124) -/

section
variable {p : Packet} {u : Sent} {s : State} (arg : s.arg = .packet p)
include arg

theorem does_refusedPacketResend (found : (s.unacked.find? fun v => v.pkt.id == p.id && v.pkt.dst == p.dst && v.again) = some u) :
    Does .refusedPacketResend s ((s.settled u).dispatch u) := by
  show execRefusedPacketResend s = _
  rw [execRefusedPacketResend, arg]
  simp only [found]

theorem does_refusedPacketResend_none (none_ : (s.unacked.find? fun v => v.pkt.id == p.id && v.pkt.dst == p.dst && v.again) = none) :
    Does .refusedPacketResend s s := by
  show execRefusedPacketResend s = _
  rw [execRefusedPacketResend, arg]
  simp only [none_]
end

/-- R121, R124, R194, R202, R204, R205, R428. -/
theorem answersArrive : Claim.AnswersArrive := by
  intro p u s arg dst well c pod here
  have ack (o : s.linkOpen p = true) := arrival_comes (exec_acknowledgement s) ⟨arg, dst, well, o⟩
  have data (o : s.linkOpen p = true) := arrival_comes (exec_readData s) ⟨arg, dst, well, o⟩
  refine ⟨statusClass_refusal, fun idle => ⟨?_, ?_⟩, fun ht o sent => ⟨fun full => ?_, fun fine own => ?_, ?_, ?_⟩, ?_,
    fun n i ht o sent own => ?_, does_refusedPacketResend arg, does_refusedPacketResend_none arg⟩
  · exact arrival_same (exec_acknowledgement s) arg dst well (idle.imp_left ackArrives_unsent)
  · exact arrival_same (exec_readData s) arg dst well (idle.imp_left dataArrives_unsent)
  · have done := ack o ht
    rw [ackArrives_again sent full] at done
    exact ⟨_, done, rfl, List.mem_map.mpr ⟨u, mem_unacked_of_sent sent, if_pos rfl⟩, _, self_mem_after_due _ _ _ _, rfl, rfl, rfl⟩
  · have done := ack o ht
    rw [ackArrives_positive sent fine] at done
    obtain ⟨mem, unacked⟩ := appliedPacket_rel (s := s.settled u) p.operand own
    exact ⟨_, done, mem, unacked⟩
  · rintro fine q op k r own ⟨resident, task, -, -⟩ found sound first parts bar live rat place
    have done := ack o ht
    obtain ⟨bytes, ⟨y, now, acked⟩, ptile⟩ := partDone_only (s := { s.settled u with sel := u.core }) found first parts bar live
    rw [ackArrives_positive sent fine, appliedPacket_op (s := s.settled u) p.operand own resident task found sound rat place ptile] at done
    exact ⟨_, y, done, bytes, now, acked⟩
  · rintro bad room own write ⟨resident, task, -, runs⟩ none_ flag
    have done := ack o ht
    rw [ackArrives_negative sent bad room] at done
    obtain ⟨mem, late⟩ := refusedPacket_rel (s := s.settled u) (statusClass p.status) own flag resident task runs none_
    exact ⟨_, done, mem, late⟩
  · rintro r d k ht o sent own ⟨resident, task, -, -⟩ hold some_
    obtain ⟨mem, core⟩ := dataArrives_acq sent own resident task hold
    refine ⟨_, data o ht, mem, ?_⟩
    rw [core]
    refine ⟨?_, ?_, ?_, fun other => ?_⟩
    · rw [retire_rg, rg_wg _ _ _ some_]
      exact (BitVec.ofInt_natCast _ _).symm
    · exact wg_hold _ _ _
    · show (backEdge _ _).1 = _
      rw [wg_pc, wg_loops]
    · rw [retire_rg, rg_wg_ne _ _ _ _ other]
      rfl
  · have done := data o ht
    rw [dataArrives_req sent own] at done
    exact ⟨_, done, rfl, List.mem_cons_self⟩

end Sys2Proof.Laws
end

section
/-! What each control message does (R51, R104, R340, R384, R386, R435, R459, R460). -/

namespace Sys2Proof.Laws

open Machine

/-! ### Blocks acknowledged (R386) -/

theorem acked_keeps (l : Link) : l.acked.n = l.n ∧ l.acked.blocks = l.blocks.drop 1 ∧ l.acked.counter = l.counter ∧ l.acked.cur = l.cur := by
  unfold Link.acked
  split
  · next none_ => exact ⟨rfl, by rw [none_]; rfl, rfl, rfl⟩
  · exact ⟨rfl, rfl, rfl, rfl⟩

theorem mem_mapLink {s : State} {n : Nat} {f : Link → Link} {l : Link} (h : l ∈ s.links) (num : l.n = n) : f l ∈ (s.mapLink n f).links :=
  List.mem_map.mpr ⟨l, h, if_pos num⟩

/-! ### Messages of a bound or unbound sender (R459) -/

section
variable {s : State} {src : BitVec 12} {ctx sctx : BitVec 20}

theorem boundDo_none {f : Ctx → State} (h : s.bound src ctx sctx = none) : s.boundDo src ctx sctx f = s := by rw [State.boundDo, h]
theorem boundDo_some {f : Ctx → State} {c : Ctx} (h : s.bound src ctx sctx = some c) : s.boundDo src ctx sctx f = f c := by
  rw [State.boundDo, h]
end

/-! ### An episode broken (R435) -/

section
variable {s : State} {k : EpKey}

theorem breakEp_gone (h : k ∈ s.gone) : s.breakEp k = s := if_pos (List.contains_iff_mem.mpr h)

theorem breakEp_first (h : k ∉ s.gone) :
    OnlySent (({ s with gone := k :: s.gone } : State).after copDelay .memberLost (.ep k)) (s.breakEp k) := by
  have first : ¬(s.gone.contains k) = true := fun e => h (List.contains_iff_mem.mp e)
  unfold State.breakEp
  rw [if_neg first]
  exact .ite (onlySent_tellAll _ _ _) (.refl _)
end

/-! ### Cop requests and their answers (R104, R283, R459) -/

theorem deviceError_other {s : State} {cls : TrapClass} (h : cls ≠ .memError) (c va n : Nat) (w : Bool) : s.deviceError cls c va n w = s :=
  if_neg h

section
variable {s : State} {src : BitVec 12} {ctx sctx : BitVec 20} {n fn7 : Nat} {ga gb : Word} {b : List Byte} {c : Ctx}
  (bound : s.bound src ctx sctx = some c) (asked : n ≠ 0) (fut : fn7 ≠ 0x22)
include bound asked fut

theorem copArrives_ok {u : State} {w : Word} {snap : Nat}
    (ok : s.futApply c.cnum ((futRef b).1 % 2 ^ 44) fn7 gb (futRef b).2 none = .ok (u, w, snap)) :
    s.copArrives src ctx sctx n fn7 ga gb b = u.tell src (.copAnswer n 0 w snap none) := by
  unfold State.copArrives
  simp only [bound, fut, if_false, ok, asked]

theorem copArrives_error {cls : TrapClass} {a : Nat}
    (error : s.futApply c.cnum ((futRef b).1 % 2 ^ 44) fn7 gb (futRef b).2 none = .error (cls, a)) (sound : cls ≠ .memError) :
    s.copArrives src ctx sctx n fn7 ga gb b = s.tell src (.copAnswer n 0 0 0 (some (cls, a))) := by
  unfold State.copArrives
  simp only [bound, fut, if_false, error, asked, deviceError_other sound]
end

section
variable {s : State} {n st : Nat} {w : Word} {snap : Nat} {r : Req}

/-- A request that has been performed. -/
def performed (st : Nat) (w : Word) (q : Req) : Req := { q with phase := 9, status := st, word := if st = 0 then w else replyWord st 0, raise := none }

theorem copAnswered_done (found : (s.reqs.find? fun r => r.n == n) = some r) (mode : r.mode ≠ 3) (open_ : r.phase ≠ 9) (fn7 : r.fn7 ≠ 0x44) :
    s.copAnswered n st w snap none = (s.mapReq n (performed st w)).after 0 .copReply (.num n) := by
  unfold State.copAnswered
  simp only [found, mode, open_, fn7, false_and, if_false]
  rfl

theorem mem_mapReq {f : Req → Req} {q : Req} (h : q ∈ (s.mapReq n f).reqs) (hn : q.n = n) : ∃ r, q = f r := by
  obtain ⟨r, -, rfl⟩ := List.mem_map.mp h
  by_cases here : r.n = n
  · exact ⟨r, if_pos here⟩
  · rw [if_neg here] at hn
    exact absurd hn here
end

/-! ### The messages -/

section
variable {s : State} {src : BitVec 12} {ctx sctx : BitVec 20}

theorem does_blockAck {n : Nat} (arg : s.arg = .ctl (.blockAck n)) : Does .control s (s.mapLink n Link.acked) := by
  show execControl s = _
  rw [execControl, arg]

theorem does_hbarArrive {k : EpKey} (arg : s.arg = .ctl (.hbarArrive src ctx sctx k)) : Does .control s (s.boundDo src ctx sctx fun c =>
    if s.hbars.contains (src, { k with cnum := c.cnum }) then s else { s with hbars := (src, { k with cnum := c.cnum }) :: s.hbars }) := by
  show execControl s = _
  rw [execControl, arg]

theorem does_memberLost {k : EpKey} {isOpen : Bool} (arg : s.arg = .ctl (.memberLost src ctx sctx k isOpen)) :
    Does .control s (s.boundDo src ctx sctx fun c =>
      if isOpen ∨ (s.epOpen { k with cnum := c.cnum }).isEmpty = false then s.breakEp { k with cnum := c.cnum } else s) := by
  show execControl s = _
  rw [execControl, arg]

theorem does_collParts_none {k : EpKey} {l : List Part} (arg : s.arg = .ctl (.collParts src ctx sctx k l))
    (unbound : s.bound src ctx sctx = none) : Does .control s (s.tell src (.collRefused s.self sctx ctx k)) := by
  show execControl s = _
  rw [execControl, arg]
  simp only [unbound]

theorem does_collParts {k : EpKey} {l : List Part} {c : Ctx} (arg : s.arg = .ctl (.collParts src ctx sctx k l))
    (bound : s.bound src ctx sctx = some c) (h : { k with cnum := c.cnum } ∉ s.gone) :
    Does .control s (({ s with parts := (src, { k with cnum := c.cnum }, l) :: s.parts.filter fun x =>
      !(x.1 == src && x.2.1 == { k with cnum := c.cnum }) } : State).after 0 .collectiveEpisode (.ep { k with cnum := c.cnum })) := by
  show execControl s = _
  rw [execControl, arg]
  simp only [bound]
  exact congrArg _ (if_neg fun e => h (List.contains_iff_mem.mp e))

theorem does_decrement_none {node : Nat} {poison : Bool} (arg : s.arg = .ctl (.decrement src ctx sctx node poison))
    (unbound : s.bound src ctx sctx = none) : Does .control s (s.tell src (.refused sctx node)) := by
  show execControl s = _
  rw [execControl, arg]
  simp only [unbound]

theorem does_decrement {node : Nat} {c : Ctx} (arg : s.arg = .ctl (.decrement src ctx sctx node false)) (bound : s.bound src ctx sctx = some c) :
    Does .control s (s.after 0 .nodeDecrement (.node c.cnum node none)) := by
  show execControl s = _
  rw [execControl, arg]
  simp only [bound]
  rfl

theorem does_copRequest {n fn7 : Nat} {ga gb : Word} {b : List Byte} (arg : s.arg = .ctl (.copRequest src ctx sctx n fn7 ga gb b)) :
    Does .control s (s.copArrives src ctx sctx n fn7 ga gb b) := by
  show execControl s = _
  rw [execControl, arg]

theorem does_copAnswer {n st : Nat} {w : Word} {snap : Nat} {cls : Option (TrapClass × Nat)} (arg : s.arg = .ctl (.copAnswer n st w snap cls)) :
    Does .control s (s.copAnswered n st w snap cls) := by
  show execControl s = _
  rw [execControl, arg]
end

/-- R51, R104, R340, R384, R386, R435, R459, R460. -/
theorem controlMessages : Claim.ControlMessages := by
  intro m s arg
  refine ⟨?_, ?_, ?_, ?_, ?_, ?_, ?_, ?_⟩
  · rintro n rfl
    refine ⟨_, does_blockAck arg, rfl, fun l hl num => ⟨l.acked, mem_mapLink hl num, ?_⟩⟩
    obtain ⟨n, blocks, counter, cur⟩ := acked_keeps l
    exact ⟨n.trans num, blocks, counter, cur⟩
  · rintro src ctx sctx k rfl
    have done := does_hbarArrive arg
    refine ⟨fun c bound => ?_, fun unbound => by rwa [boundDo_none unbound] at done⟩
    rw [boundDo_some bound] at done
    by_cases told : (src, { k with cnum := c.cnum }) ∈ s.hbars
    · rw [if_pos (List.contains_iff_mem.mpr told)] at done
      exact ⟨s, done, told, fun _ h => h, rfl⟩
    · rw [if_neg fun e => told (List.contains_iff_mem.mp e)] at done
      exact ⟨_, done, List.mem_cons_self, fun _ h => List.mem_cons_of_mem _ h, rfl⟩
  · rintro src ctx sctx k c rfl bound e
    have done := does_memberLost arg
    rw [boundDo_some bound, if_pos (.inl rfl)] at done
    refine ⟨fun gone => by rwa [breakEp_gone gone] at done, fun first => ?_⟩
    have sent := breakEp_first first
    exact ⟨_, done, by rw [sent.gone]; exact List.mem_cons_self, sent.mem, _, sent.due _ (self_mem_after_due _ _ _ _), rfl, rfl, rfl⟩
  · rintro src ctx sctx k a rfl unbound
    have done := does_memberLost arg
    rwa [boundDo_none unbound] at done
  · rintro src ctx sctx k l rfl
    exact ⟨does_collParts_none arg, fun c bound first => ⟨_, does_collParts arg bound first, List.mem_cons_self, soon_after _ _ _⟩⟩
  · rintro src ctx sctx node rfl
    exact ⟨fun c => does_decrement arg, does_decrement_none arg⟩
  · rintro src ctx sctx n fn7 ga gb b c rfl bound asked fut
    have done := does_copRequest arg
    refine ⟨fun u w snap ok => ?_, fun cls a error sound => ?_⟩
    · rwa [copArrives_ok bound asked fut ok] at done
    · rwa [copArrives_error bound asked fut error sound] at done
  · rintro n st w snap r rfl found mode open_ fn7
    have done := does_copAnswer arg
    rw [copAnswered_done found mode open_ fn7] at done
    refine ⟨_, done, soon_after _ _ _, fun q hq num => ?_⟩
    obtain ⟨r, rfl⟩ := mem_mapReq (s := s) (f := performed st w) hq num
    exact ⟨rfl, rfl, fun fine => if_pos fine⟩

end Sys2Proof.Laws
end

section
/-! Integrity blocks, failures of links, the end of a key, and a package declared lost (O47). -/

namespace Sys2Proof.Laws

open Machine

/-! ### What is scheduled -/

/-- Nothing differs but what has been scheduled besides. -/
structure OnlyDue (s t : State) : Prop where
  eq : ∃ due, t = { s with due }
  due : ∀ d ∈ s.due, d ∈ t.due

namespace OnlyDue

theorem refl (s : State) : OnlyDue s s := ⟨⟨_, rfl⟩, fun _ h => h⟩

theorem trans {s t u : State} (a : OnlyDue s t) (b : OnlyDue t u) : OnlyDue s u := by
  refine ⟨?_, fun d h => b.due d (a.due d h)⟩
  obtain ⟨_, rfl⟩ := a.eq
  obtain ⟨_, rfl⟩ := b.eq
  exact ⟨_, rfl⟩

theorem after (s : State) (n e a) : OnlyDue s (s.after n e a) := ⟨⟨_, rfl⟩, fun _ h => mem_after_due.mpr (.inr h)⟩

section
variable {α : Type} {f : State → α → State} {l : List α}

theorem foldl (h : ∀ t, ∀ x ∈ l, OnlyDue t (f t x)) (s : State) : OnlyDue s (l.foldl f s) :=
  List.foldlRecOn (motive := OnlyDue s) l f (.refl s) fun t ht x hx => ht.trans (h t x hx)

/-- Each of several steps that only schedule is made in its turn, and what it schedules stays. -/
theorem foldl_reaches (h : ∀ t, ∀ x ∈ l, OnlyDue t (f t x)) (s : State) {x : α} (hx : x ∈ l) :
    ∃ t, OnlyDue s t ∧ OnlyDue (f t x) (l.foldl f s) := by
  induction l generalizing s with
  | nil => exact nomatch hx
  | cons y ys ih =>
    have later : ∀ t, ∀ x ∈ ys, OnlyDue t (f t x) := fun t x hx => h t x (List.mem_cons_of_mem _ hx)
    rcases List.mem_cons.mp hx with rfl | hx
    · exact ⟨s, .refl s, .foldl later _⟩
    · obtain ⟨t, before, rest⟩ := ih later (f s y) hx
      exact ⟨t, (h s y List.mem_cons_self).trans before, rest⟩
end
end OnlyDue

/-! ### Negative acknowledgements of this package's own switch (R432, R434) -/

/-- A packet is to be acknowledged negatively, with a class. -/
def Refused (t : State) (u : Sent) (cls : TrapClass) : Prop :=
  ∃ d ∈ t.due, d.ev = .acknowledgement ∧ ∃ a : Packet, d.arg = .packet a ∧ a.id = u.pkt.id ∧ statusClass a.status = cls

theorem OnlyDue.refused {s t : State} {u : Sent} {cls : TrapClass} (h : OnlyDue s t) (r : Refused s u cls) : Refused t u cls := by
  obtain ⟨d, hd, r⟩ := r
  exact ⟨d, h.due d hd, r⟩

section
variable (s : State) (l : List Sent) (cls : TrapClass)

theorem onlyDue_nackAll : OnlyDue s (s.nackAll l cls) := by
  unfold State.nackAll
  exact .foldl (fun t _ _ => .after t _ _ _) s

theorem nackAll_refused {u : Sent} (h : u ∈ l) : Refused (s.nackAll l cls) u cls := by
  obtain ⟨t, -, rest⟩ := OnlyDue.foldl_reaches
    (f := fun (t : State) (u : Sent) => t.nack u.pkt (BitVec.ofNat 8 (refusal cls))) (fun t _ _ => .after t _ _ _) s h
  unfold State.nackAll
  exact rest.refused ⟨_, self_mem_after_due _ _ _ _, rfl, _, rfl, rfl, statusClass_refusal cls⟩
end

/-! ### Links (R385, R386) -/

section
variable {s : State} {n : Nat} {f : Link → Link}

theorem mapLink_of_mem {k : Link} (h : k ∈ (s.mapLink n f).links) (num : k.n = n) : ∃ l, k = f l := by
  obtain ⟨l, -, rfl⟩ := List.mem_map.mp h
  by_cases here : l.n = n
  · exact ⟨l, if_pos here⟩
  · rw [if_neg here] at num
    exact absurd num here

/-- A change of a link that leaves its number and its traffic leaves the usable paths. -/
theorem usable_mapLink (keep : ∀ l, (f l).n = l.n ∧ (f l).up = l.up) (dst : BitVec 12) : (s.mapLink n f).usable dst = s.usable dst := by
  have hop (x : BitVec 12 × Nat) : (s.mapLink n f).hopUp x = s.hopUp x := by
    have same (l : Link) : ((if l.n = n then f l else l).n == x.2 && (if l.n = n then f l else l).up) = (l.n == x.2 && l.up) := by
      split <;> simp only [keep]
    show (if x.1 = s.self then (s.links.map _).any _ else _) = _
    rw [List.any_map]
    simp only [Function.comp_def, same]
    rfl
  show (List.range 4).filter _ = _
  rw [funext hop]
  rfl
end

/-- What a link's receive direction shows: its number, the failed transmissions of its block, whether it has failed. -/
def receiveSide (l : Link) : Nat × Nat × Bool := (l.n, l.tries, l.failRx)

section
variable (s : State)

theorem send_receiveSide (l : Link) (w : Wire) : receiveSide (l.send w) = receiveSide l := by
  unfold Link.send
  cases l.next <;> rfl

/-- A change of some links that their receive directions do not show. -/
theorem map_receiveSide {f : Link → Link} (keep : ∀ l, receiveSide (f l) = receiveSide l) (n : Nat) (l : List Link) :
    (l.map fun k => if k.n = n then f k else k).map receiveSide = l.map receiveSide := by
  rw [List.map_map]
  refine List.map_congr_left fun k _ => ?_
  rw [Function.comp_apply]
  split
  · exact keep k
  · rfl

theorem watchKey_receiveSide (n : Nat) : (s.watchKey n).links.map receiveSide = s.links.map receiveSide := by
  unfold State.watchKey
  split
  · rfl
  next l _ =>
    have low := map_receiveSide (f := fun k => { k with low := true }) (fun _ => rfl) n s.links
    dsimp only
    by_cases warn : 2 ^ 47 < l.counter ∧ l.low = false
    · rw [if_pos warn]
      split <;> exact low
    · rw [if_neg warn]
      split <;> rfl

theorem onLink_receiveSide (dst : BitVec 12) (q : Nat) (w : Wire) : (s.onLink dst q w).links.map receiveSide = s.links.map receiveSide :=
  (watchKey_receiveSide _ _).trans (map_receiveSide (send_receiveSide · w) _ s.links)

theorem emit_receiveSide (dst : BitVec 12) (w : Wire) : (s.emit dst w).links.map receiveSide = s.links.map receiveSide := by
  unfold State.emit
  split
  · rfl
  · split
    · rfl
    · cases w <;> exact onLink_receiveSide _ _ _ _
end

/-! ### Integrity blocks (R386, R432) -/

/-- What is told to the far end of a link. -/
def blockBack (t : State) (self : BitVec 12) (n : Nat) (m : Nat → Ctl) : State :=
  match farEnd self n with
  | some (p, k) => t.tell p (m k)
  | none => t

section
variable (t : State) (self : BitVec 12) (n : Nat) (m : Nat → Ctl)

theorem onlySent_blockBack : OnlySent t (blockBack t self n m) := by
  unfold blockBack
  split
  · exact onlySent_tell t _ _
  · exact .refl t

theorem blockBack_receiveSide : (blockBack t self n m).links.map receiveSide = t.links.map receiveSide := by
  unfold blockBack
  split
  · exact emit_receiveSide t _ _
  · rfl

variable {t self n m}

theorem mem_blockBack {p : BitVec 12} {k : Nat} (far : farEnd self n = some (p, k)) (here : p ∉ t.lostPkgs) (path : t.usable p ≠ []) :
    (p, m k) ∈ (blockBack t self n m).ctlOut := by
  rw [blockBack, far]
  exact mem_tell_ctlOut here path (m k)
end

/-- A link's receive direction changed, and its far end told of a block. -/
def blockHeard (s : State) (n : Nat) (f : Link → Link) (m : Nat → Ctl) : State := blockBack (s.mapLink n f) s.self n m

section
variable {s : State} {n : Nat} {f : Link → Link} {m : Nat → Ctl}

theorem onlySent_blockHeard : OnlySent s (blockHeard s n f m) := (onlySent_mapLink s n f).trans (onlySent_blockBack _ _ _ _)

theorem mem_blockHeard (keep : ∀ l, (f l).n = l.n ∧ (f l).up = l.up) {p : BitVec 12} {k : Nat} (far : farEnd s.self n = some (p, k))
    (here : p ∉ s.lostPkgs) (path : s.usable p ≠ []) : (p, m k) ∈ (blockHeard s n f m).ctlOut :=
  mem_blockBack far here (by rwa [usable_mapLink keep])

theorem blockHeard_receiveSide : (blockHeard s n f m).links.map receiveSide = (s.mapLink n f).links.map receiveSide :=
  blockBack_receiveSide _ _ _ _

theorem blockHeard_of_mem {k : Link} (h : k ∈ (blockHeard s n f m).links) (num : k.n = n) : ∃ l, receiveSide k = receiveSide (f l) := by
  have shown := List.mem_map_of_mem (f := receiveSide) h
  rw [blockHeard_receiveSide] at shown
  obtain ⟨j, hj, same⟩ := List.mem_map.mp shown
  obtain ⟨l, rfl⟩ := mapLink_of_mem hj ((congrArg Prod.fst same).trans num)
  exact ⟨l, same.symm⟩

theorem mem_blockHeard_links {l : Link} (h : l ∈ s.links) (num : l.n = n) :
    ∃ k ∈ (blockHeard s n f m).links, receiveSide k = receiveSide (f l) := by
  have shown := List.mem_map_of_mem (f := receiveSide) (mem_mapLink (f := f) h num)
  rw [← blockHeard_receiveSide (m := m)] at shown
  exact List.mem_map.mp shown
end

theorem receiveSide_eq {k l : Link} (h : receiveSide k = receiveSide l) : k.n = l.n ∧ k.tries = l.tries ∧ k.failRx = l.failRx := by
  simpa only [receiveSide, Prod.mk.injEq] using h

/-- A link whose block has verified. -/
def triesOver (k : Link) : Link := { k with tries := 0 }

/-- A link whose block has failed once more. -/
def triedAgain (k : Link) : Link := { k with tries := k.tries + 1 }

/-- A link whose block has failed for the fourth time. -/
def triesSpent (k : Link) : Link := { k with tries := 0, failRx := true }

/-- The packets of a block that verifies, each taken up in its turn. -/
def takeUp (s : State) (ps : List Packet) : State := ps.foldl (fun t p => t.after 0 (packetStep p) (.packet p)) s

section
variable (s : State) (ps : List Packet)

theorem onlyDue_takeUp : OnlyDue s (takeUp s ps) := .foldl (fun t _ _ => .after t _ _ _) s

theorem takeUp_soon {p : Packet} (h : p ∈ ps) : Soon (takeUp s ps) s.now (packetStep p) (.packet p) := by
  obtain ⟨t, before, rest⟩ := OnlyDue.foldl_reaches
    (f := fun (t : State) (p : Packet) => t.after 0 (packetStep p) (.packet p)) (fun t _ _ => .after t _ _ _) s h
  have now : t.now = s.now := by obtain ⟨_, rfl⟩ := before.eq; rfl
  exact ⟨_, rest.due _ (self_mem_after_due _ _ _ _), rfl, rfl, now⟩
end

section
variable {s : State} {n : Nat} {l : Link} {ps : List Packet} (found : (s.links.find? fun l => l.n == n) = some l)
include found

theorem mem_of_found : l ∈ s.links ∧ l.n = n := ⟨List.mem_of_find?_eq_some found, by simpa using List.find?_some found⟩

theorem does_integrityBlock_closed {ok : Bool} (arg : s.arg = .block n ok ps) (closed : l.enabled = false ∨ l.failRx = true) :
    Does .integrityBlock s s := by
  show execIntegrityBlock s = _
  rw [execIntegrityBlock, arg]
  simp only [found]
  exact if_pos closed

variable (on : l.enabled = true) (rx : l.failRx = false)
include on rx

theorem does_integrityBlock {ok : Bool} (arg : s.arg = .block n ok ps) : Does .integrityBlock s
    (if ok then takeUp (blockHeard s n triesOver .blockAck) ps
     else if 3 ≤ l.tries then blockHeard s n triesSpent .blockFail
     else blockHeard s n triedAgain .blockFail) := by
  show execIntegrityBlock s = _
  rw [execIntegrityBlock, arg]
  simp only [found]
  exact if_neg (by simp [on, rx])
end

/-! ### The failure of a link (R432) -/

/-- The packets of an unacknowledged block's packet that are lost with it. -/
def lostWith (s u : State) (p : Packet) : List Sent :=
  u.unacked.filter fun v => v.pkt.id == p.id && p.src == s.self && !(p.type == 2 || p.type == 3) && !v.waits && !v.again && v.data.isNone

/-- A block lost with the send direction of its link. -/
def blockLost (s u : State) (b : Block) : State :=
  match b.wire with
  | .ctl d m => u.ctlLost d m
  | .pkt p => u.nackAll (lostWith s u p) .linkFail

/-- A link whose send direction has failed, and with cause 2 its receive direction. -/
def failedLink (cause : Nat) (k : Link) : Link :=
  { k with failTx := true, failRx := if cause = 2 then true else k.failRx, blocks := [], olds := [] }

theorem mem_notify_mail (s : State) (t : Trap) (f : Nat) : ∃ m ∈ (s.notify t f).mail, m.trap = { t with precise := false } :=
  ⟨_, List.mem_append_right _ List.mem_cons_self, rfl⟩

section
variable {s : State} {n : Nat} {l : Link} (found : (s.links.find? fun l => l.n == n) = some l)
include found

theorem does_linkFail {cause : Nat} (arg : s.arg = .num2 n cause) (on : l.enabled = true) (tx : l.failTx = false) (known : cause = 1 ∨ cause = 2) :
    Does .linkFail s (l.blocks.foldl (blockLost s) ((s.mapLink n (failedLink cause)).linkAlarm n cause)) := by
  show execLinkFail s = _
  rw [execLinkFail, arg]
  simp only [found]
  exact if_neg (by simpa [on, tx, ← not_or] using known)

theorem does_linkKeyexh (arg : s.arg = .num n) (spent : 2 ^ 48 ≤ l.counter) (next : l.next = none) (first : l.keyexh = false) :
    Does .linkKeyexh s ((s.mapLink n fun k => { k with keyexh := true }).notify { cls := .linkKeyexh, addr := n } 0) := by
  show execLinkKeyexh s = _
  rw [execLinkKeyexh, arg]
  simp only [found]
  exact if_neg (by simpa [next, first] using spent)

theorem does_linkKeyexh_early (arg : s.arg = .num n) (early : l.counter < 2 ^ 48) : Does .linkKeyexh s s := by
  show execLinkKeyexh s = _
  rw [execLinkKeyexh, arg]
  simp only [found]
  exact if_pos (.inl early)
end

section
variable {s u : State} {b : Block}

theorem onlyDue_blockLost (pkt : ∃ p, b.wire = .pkt p) : OnlyDue u (blockLost s u b) := by
  obtain ⟨p, wire⟩ := pkt
  rw [blockLost, wire]
  exact onlyDue_nackAll u _ _

theorem blockLost_refused {p : Packet} {v : Sent} (wire : b.wire = .pkt p) (lost : v ∈ lostWith s u p) :
    Refused (blockLost s u b) v .linkFail := by
  rw [blockLost, wire]
  exact nackAll_refused u _ _ lost

theorem mem_lostWith {p : Packet} {v : Sent} (sent : v ∈ u.unacked) (id : p.id = v.pkt.id) (src : p.src = s.self) (data : p.type ≠ 2)
    (ack : p.type ≠ 3) (waits : v.waits = false) (again : v.again = false) (whole : v.data = none) : v ∈ lostWith s u p :=
  List.mem_filter.mpr ⟨sent, by simpa [id, src, waits, again, whole] using ⟨data, ack⟩⟩
end

/-! ### A package declared lost (R434) -/

theorem eachJob_none {s : State} (none_ : ∀ x ∈ s.ctxs, x.jobs = []) (f : Ctx → Job → State → State) : s.eachJob f = s :=
  List.foldlRecOn (motive := (· = s)) s.ctxs _ rfl fun t ht x hx => by rw [ht, none_ x hx]; rfl

/-- The operations that have asked a lost package and wait for its answer are to fail (R434). -/
def asksLost (s : State) (p : BitVec 12) : State :=
  s.tiles.foldl (fun u i => (i.ops.filter fun o => (o.ask.map (·.1.p)) == some p && !o.granted && o.fault.isNone).foldl (fun v o =>
    v.after 0 .engineFault (.fault i.ptile o.core o.seq .placeUnmapped 0 0 0)) u) s

theorem onlyDue_asksLost (s : State) (p : BitVec 12) : OnlyDue s (asksLost s p) :=
  .foldl (fun u _ _ => .foldl (fun v _ _ => .after v _ _ _) u) s

theorem onlyDue_endLost {s : State} (reqs : s.reqs = []) (jobs : ∀ x ∈ s.ctxs, x.jobs = []) (p : BitVec 12) : OnlyDue s (s.endLost p) := by
  have asks := onlyDue_asksLost s p
  have none_ : ∀ x ∈ (asksLost s p).ctxs, x.jobs = [] := by
    obtain ⟨_, eq⟩ := asks.eq
    rw [eq]
    exact jobs
  unfold State.endLost
  simp only [reqs, List.filter_nil, List.foldl_nil]
  exact (eachJob_none none_ _).symm ▸ asks

/-- The alarm of the link to a lost package, if there is one. -/
def lostAlarm (s : State) (p : BitVec 12) : State :=
  match s.links.find? fun l => peerOf s.self l.n == some p with
  | some l => s.linkAlarm l.n 3
  | none => s

theorem onlySent_lostAlarm (s : State) (p : BitVec 12) : OnlySent s (lostAlarm s p) := by
  unfold lostAlarm
  split
  · exact onlySent_notify s _ _
  · exact .refl s

/-- What still waits for a path when a package is lost. -/
def waitsStill (p : BitVec 12) : Wire → Bool
  | .pkt q => q.dst ≠ p
  | .ctl d _ => d ≠ p

/-- A package is entered as lost, and the link to it is reported. -/
def enteredLost (s : State) (p : BitVec 12) : State := lostAlarm { s with lostPkgs := p :: s.lostPkgs } p

/-- A package is entered as lost, and CONV is cleared in the copies of its tensors. -/
def knownLost (s : State) (p : BitVec 12) : State := { enteredLost s p with ctxs := (enteredLost s p).ctxs.map fun x => x.homeLost p }

theorem enteredLost_eq (s : State) (p : BitVec 12) :
    ∃ due mail mailN, enteredLost s p = { s with due, mail, mailN, lostPkgs := p :: s.lostPkgs } := by
  unfold enteredLost lostAlarm
  split <;> exact ⟨_, _, _, rfl⟩

/-- The packets to a lost package. -/
def sentTo (p : BitVec 12) (s : State) : List Sent := s.unacked.filter fun u => u.pkt.dst == p && u.data.isNone

/-- Nothing to a lost package waits for a path any longer. -/
def cutOff (s : State) (p : BitVec 12) : State := { s with outWait := s.outWait.filter (waitsStill p) }

/-- A package is known as lost, and the packets to it are acknowledged negatively. -/
def cutLost (s : State) (p : BitVec 12) : State := cutOff ((knownLost s p).nackAll (sentTo p (knownLost s p)) .placeUnmapped) p

theorem settleRaces_none {s : State} (spoiled : s.spoiled = []) : s.settleRaces = s := by rw [State.settleRaces, spoiled]; rfl

theorem does_packageLost_known {s : State} {p : BitVec 12} (arg : s.arg = .pkg p) (known : p ∈ s.lostPkgs ∨ p = s.self) :
    Does .packageLost s s := by
  show execPackageLost s = _
  rw [execPackageLost, arg]
  exact if_pos (known.symm.imp_right List.contains_iff_mem.mpr)

theorem does_packageLost {s : State} {p : BitVec 12} (arg : s.arg = .pkg p) (first : p ∉ s.lostPkgs) (other : p ≠ s.self)
    (reqs : s.reqs = []) (spoiled : s.spoiled = []) : Does .packageLost s ((cutLost s p).endLost p) := by
  show execPackageLost s = _
  rw [execPackageLost, arg]
  refine (if_neg fun e => e.elim other fun c => first (List.contains_iff_mem.mp c)).trans ?_
  extract_lets t0 t1 eps t2 t3 t4
  obtain ⟨due, mail, mailN, entered⟩ := enteredLost_eq s p
  have h1 : t1 = enteredLost s p := by
    show lostAlarm t0 p = _
    simp only [t0, ← arg, enteredLost]
  have none_ : eps = [] := by
    simp only [eps, reqs]
    rfl
  have h2 : t2 = enteredLost s p := by
    simp only [t2, none_, h1]
    rfl
  have h3 : t3 = knownLost s p := by
    simp only [t3, h2]
    exact settleRaces_none (by rw [entered]; exact spoiled)
  show Host.Outcome.next ((cutOff (t3.nackAll (sentTo p t3) .placeUnmapped) p).endLost p) = _
  rw [h3, cutLost]

section
variable {s : State} (p : BitVec 12) (reqs : s.reqs = []) (jobs : ∀ x ∈ s.ctxs, x.jobs = [])

theorem knownLost_eq : ∃ due mail mailN ctxs, knownLost s p = { s with due, mail, mailN, lostPkgs := p :: s.lostPkgs, ctxs } := by
  obtain ⟨due, mail, mailN, eq⟩ := enteredLost_eq s p
  exact ⟨due, mail, mailN, (enteredLost s p).ctxs.map fun x => x.homeLost p, by rw [knownLost, eq]⟩

include jobs in
theorem knownLost_jobs : ∀ x ∈ (knownLost s p).ctxs, x.jobs = [] := by
  obtain ⟨_, _, _, entered⟩ := enteredLost_eq s p
  intro x hx
  obtain ⟨y, hy, rfl⟩ := List.mem_map.mp hx
  rw [entered] at hy
  exact jobs y hy

theorem cutLost_eq : ∃ due mail mailN ctxs outWait, cutLost s p = { s with due, mail, mailN, lostPkgs := p :: s.lostPkgs, ctxs, outWait } := by
  obtain ⟨due, nacked⟩ := (onlyDue_nackAll (knownLost s p) (sentTo p (knownLost s p)) .placeUnmapped).eq
  obtain ⟨_, mail, mailN, ctxs, known⟩ := knownLost_eq (s := s) p
  exact ⟨due, mail, mailN, ctxs, (knownLost s p).outWait.filter (waitsStill p), by rw [cutLost, nacked, cutOff, known]⟩

include jobs in
theorem cutLost_jobs : ∀ x ∈ (cutLost s p).ctxs, x.jobs = [] := by
  obtain ⟨_, nacked⟩ := (onlyDue_nackAll (knownLost s p) (sentTo p (knownLost s p)) .placeUnmapped).eq
  rw [cutLost, nacked]
  exact knownLost_jobs p jobs

include reqs jobs

theorem onlyDue_packageLost : OnlyDue (cutLost s p) ((cutLost s p).endLost p) := by
  obtain ⟨_, _, _, _, _, eq⟩ := cutLost_eq (s := s) p
  exact onlyDue_endLost (by rw [eq]; exact reqs) (cutLost_jobs p jobs) p

theorem packageLost_lostPkgs : ((cutLost s p).endLost p).lostPkgs = p :: s.lostPkgs := by
  obtain ⟨_, ended⟩ := (onlyDue_packageLost p reqs jobs).eq
  obtain ⟨_, _, _, _, _, eq⟩ := cutLost_eq (s := s) p
  rw [ended, eq]

theorem packageLost_refused {u : Sent} (sent : u ∈ s.unacked) (dst : u.pkt.dst = p) (whole : u.data = none) :
    Refused ((cutLost s p).endLost p) u .placeUnmapped := by
  obtain ⟨_, _, _, _, known⟩ := knownLost_eq (s := s) p
  have lost : u ∈ sentTo p (knownLost s p) := List.mem_filter.mpr ⟨by rw [known]; exact sent, by simp [dst, whole]⟩
  exact (onlyDue_packageLost p reqs jobs).refused (nackAll_refused (knownLost s p) _ _ lost)
end

/-! ### The claim -/

section
variable {s : State} {n : Nat} {l : Link} {ps : List Packet} (found : (s.links.find? fun l => l.n == n) = some l)
  (on : l.enabled = true)
include found on

/-- A block that verifies is acknowledged and its packets are taken up (R386). -/
theorem block_verified (rx : l.failRx = false) (arg : s.arg = .block n true ps) :
    ∃ t : State, Does .integrityBlock s t ∧ t.mem = s.mem ∧
      (∀ p k, farEnd s.self n = some (p, k) → p ∉ s.lostPkgs → s.usable p ≠ [] → (p, .blockAck k) ∈ t.ctlOut) ∧
      (∀ k ∈ t.links, k.n = n → k.tries = 0) ∧ ∀ p ∈ ps, Soon t s.now (packetStep p) (.packet p) := by
  have heard : OnlySent s (blockHeard s n triesOver .blockAck) := onlySent_blockHeard
  obtain ⟨_, taken⟩ := (onlyDue_takeUp (blockHeard s n triesOver .blockAck) ps).eq
  refine ⟨_, does_integrityBlock found on rx arg, ?_, fun p k far here path => ?_, fun k hk num => ?_, fun p hp => ?_⟩
  · rw [if_pos rfl, taken]
    exact heard.mem
  · rw [if_pos rfl, taken]
    exact mem_blockHeard (f := triesOver) (fun _ => ⟨rfl, rfl⟩) far here path
  · rw [if_pos rfl, taken] at hk
    obtain ⟨_, same⟩ := blockHeard_of_mem hk num
    obtain ⟨-, tries, -⟩ := receiveSide_eq same
    exact tries
  · rw [if_pos rfl, ← heard.now]
    exact takeUp_soon _ ps hp

/-- A block that fails is asked for again (R386). -/
theorem block_failed (rx : l.failRx = false) (arg : s.arg = .block n false ps) (few : l.tries < 3) :
    ∃ t : State, Does .integrityBlock s t ∧ t.mem = s.mem ∧
      (∀ p k, farEnd s.self n = some (p, k) → p ∉ s.lostPkgs → s.usable p ≠ [] → (p, .blockFail k) ∈ t.ctlOut) ∧
      ∃ k ∈ t.links, k.n = n ∧ k.tries = l.tries + 1 ∧ k.failRx = false := by
  have done := does_integrityBlock found on rx arg
  rw [if_neg Bool.false_ne_true, if_neg (Nat.not_le.mpr few)] at done
  refine ⟨_, done, onlySent_blockHeard.mem, fun p k far here path =>
    mem_blockHeard (f := triedAgain) (fun _ => ⟨rfl, rfl⟩) far here path, ?_⟩
  obtain ⟨mem, num⟩ := mem_of_found found
  obtain ⟨k, hk, same⟩ := mem_blockHeard_links (f := triedAgain) (m := .blockFail) mem num
  obtain ⟨n', tries, fail⟩ := receiveSide_eq same
  exact ⟨k, hk, n'.trans num, tries, fail.trans rx⟩

/-- The fourth failure of a block fails the receive direction (R432). -/
theorem block_failed_last (rx : l.failRx = false) (arg : s.arg = .block n false ps) (many : 3 ≤ l.tries) :
    ∃ t : State, Does .integrityBlock s t ∧ t.mem = s.mem ∧
      (∀ p k, farEnd s.self n = some (p, k) → p ∉ s.lostPkgs → s.usable p ≠ [] → (p, .blockFail k) ∈ t.ctlOut) ∧
      ∀ k ∈ t.links, k.n = n → k.failRx = true := by
  have done := does_integrityBlock found on rx arg
  rw [if_neg Bool.false_ne_true, if_pos many] at done
  refine ⟨_, done, onlySent_blockHeard.mem, fun p k far here path =>
    mem_blockHeard (f := triesSpent) (fun _ => ⟨rfl, rfl⟩) far here path, fun k hk num => ?_⟩
  obtain ⟨_, same⟩ := blockHeard_of_mem hk num
  obtain ⟨-, -, fail⟩ := receiveSide_eq same
  exact fail

/-- The failure of a link's directions (R432). -/
theorem link_failed {cause : Nat} (arg : s.arg = .num2 n cause) (tx : l.failTx = false) (known : cause = 1 ∨ cause = 2)
    (pkts : ∀ b ∈ l.blocks, ∃ p, b.wire = .pkt p) :
    ∃ t : State, Does .linkFail s t ∧ t.mem = s.mem ∧
      (∀ k ∈ t.links, k.n = n → k.failTx = true ∧ k.blocks = [] ∧ k.olds = [] ∧ (cause = 2 → k.failRx = true)) ∧
      (∃ m ∈ t.mail, m.trap.cls = .linkFail ∧ m.trap.addr = n + cause * 2 ^ 8) ∧
      ∀ u ∈ s.unacked, ∀ b ∈ l.blocks, ∀ p, b.wire = .pkt p → p.id = u.pkt.id → p.src = s.self → p.type ≠ 2 → p.type ≠ 3 →
        u.waits = false → u.again = false → u.data = none → Refused t u .linkFail := by
  have step : ∀ u, ∀ b ∈ l.blocks, OnlyDue u (blockLost s u b) := fun u b hb => onlyDue_blockLost (pkts b hb)
  obtain ⟨due, eq⟩ := (OnlyDue.foldl step ((s.mapLink n (failedLink cause)).linkAlarm n cause)).eq
  refine ⟨_, does_linkFail found arg on tx known, by rw [eq]; rfl, fun k hk num => ?_, ?_,
    fun u hu b hb p wire id src data ack waits again whole => ?_⟩
  · rw [eq] at hk
    obtain ⟨_, rfl⟩ := mapLink_of_mem (s := s) hk num
    exact ⟨rfl, rfl, rfl, fun two => if_pos two⟩
  · obtain ⟨m, hm, trap⟩ := mem_notify_mail (s.mapLink n (failedLink cause)) { cls := .linkFail, addr := n + cause * 2 ^ 8 } 0
    exact ⟨m, by rw [eq]; exact hm, by rw [trap], by rw [trap]⟩
  · obtain ⟨t, before, rest⟩ := OnlyDue.foldl_reaches step ((s.mapLink n (failedLink cause)).linkAlarm n cause) hb
    have sent : u ∈ t.unacked := by
      obtain ⟨_, rfl⟩ := before.eq
      exact hu
    exact rest.refused (blockLost_refused wire (mem_lostWith sent id src data ack waits again whole))
end

/-- R386, R432 to R434. -/
theorem links : Claim.Links := by
  intro n l ps s found
  refine ⟨fun ok arg => does_integrityBlock_closed found arg, fun arg on rx => block_verified found on rx arg,
    fun arg on rx => ⟨block_failed found on rx arg, block_failed_last found on rx arg⟩,
    fun cause arg on tx known pkts => link_failed found on arg tx known pkts,
    fun arg => ⟨fun spent next first => ?_, does_linkKeyexh_early found arg⟩,
    fun p arg => ⟨does_packageLost_known arg, fun first other reqs jobs spoiled => ?_⟩⟩
  · refine ⟨_, does_linkKeyexh found arg spent next first, rfl, fun k hk num => ?_, ?_⟩
    · obtain ⟨_, rfl⟩ := mapLink_of_mem (s := s) hk num
      rfl
    · obtain ⟨m, hm, trap⟩ := mem_notify_mail (s.mapLink n fun k => { k with keyexh := true }) { cls := .linkKeyexh, addr := n } 0
      exact ⟨m, hm, by rw [trap], by rw [trap]⟩
  · exact ⟨_, does_packageLost arg first other reqs spoiled, packageLost_lostPkgs p reqs jobs, fun u => packageLost_refused p reqs jobs⟩

/-- Settles O47: answers by what sent the packet, control messages one by one, links by what a block or a failure does to them. -/
theorem fabricAnswersAndLinks : Obligations.FabricAnswersAndLinks := ⟨answersArrive, controlMessages, links⟩

end Sys2Proof.Laws
end

section
/-! The decoder and the encoder (O53): what the fields of a word are once it is put together, then each map read both ways. -/

namespace Sys2Proof.Laws

open Machine

/-! ### Fields of words put together (R6) -/

section
variable {k m n lo : Nat}

theorem fld_append_low (x : BitVec k) (y : BitVec m) (h : lo + n ≤ m) : fld lo n (no_index (x ++ y)) = fld lo n y :=
  BitVec.extractLsb'_append_eq_of_add_le h

theorem fld_append_high (x : BitVec k) (y : BitVec m) (h : m ≤ lo) : fld lo n (no_index (x ++ y)) = fld (lo - m) n x :=
  BitVec.extractLsb'_append_eq_of_le h

theorem fld_all (x : BitVec n) : fld 0 n x = x := BitVec.extractLsb'_eq_self

theorem fld_ofNat (x : Nat) : fld lo n (BitVec.ofNat k x) = (BitVec.ofNat k x).extractLsb' lo n := rfl

theorem fld_fld {p hi : Nat} (w : BitVec k) (h : lo + n ≤ p) : fld lo n (fld hi p w) = fld (hi + lo) n w := by
  refine BitVec.eq_of_getLsbD_eq fun i hi => ?_
  have inside : lo + i < p := by omega
  simp [fld, hi, inside, Nat.add_assoc]

/-- The parts of a word are its fields. -/
theorem append_eq_iff {x : BitVec k} {y : BitVec m} {w : BitVec (k + m)} :
    @Eq (no_index (BitVec (k + m))) (no_index (x ++ y)) w ↔ x = fld m k w ∧ y = fld 0 m w := by
  constructor
  · rintro rfl
    rw [fld_append_high x y le_rfl, fld_append_low x y (Nat.zero_add m).le, Nat.sub_self, fld_all, fld_all]
    exact ⟨rfl, rfl⟩
  · rintro ⟨rfl, rfl⟩
    exact (BitVec.extractLsb'_append_extractLsb'_eq_extractLsb' (Nat.zero_add m).symm).trans (fld_all w)

/-- A field is its upper and its lower part. -/
theorem fld_eq_iff {p : Nat} (w : BitVec k) (c : BitVec n) (h : p ≤ n) :
    fld lo n w = c ↔ fld (lo + p) (n - p) w = fld p (n - p) c ∧ fld lo p w = fld 0 p c := by
  obtain ⟨q, rfl⟩ := Nat.exists_eq_add_of_le' h
  have both : fld lo (q + p) w = fld (lo + p) q w ++ fld lo p w :=
    (BitVec.extractLsb'_append_extractLsb'_eq_extractLsb' rfl).symm
  rw [both, Nat.add_sub_cancel, append_eq_iff]

/-- A field that reaches into both parts of a word. -/
theorem fld_append_eq_iff (x : BitVec k) (y : BitVec m) (c : BitVec n) (h : lo < m) (h' : m < lo + n) :
    fld lo n (no_index (x ++ y)) = c ↔
      fld 0 (lo + n - m) x = c.extractLsb' (m - lo) (lo + n - m) ∧ fld lo (m - lo) y = c.extractLsb' 0 (m - lo) := by
  have width : n - (m - lo) = lo + n - m := by omega
  have mid : lo + (m - lo) = m := by omega
  rw [fld_eq_iff (p := m - lo) _ c (by omega), mid, width, fld_append_high x y le_rfl, fld_append_low x y mid.le, Nat.sub_self]
  rfl
end

/-- The token bits and stall count that seven bits give (R132). -/
def tokOfBits (b : BitVec 7) : Tok := ⟨fld 6 1 b == 1, fld 5 1 b == 1, fld 4 1 b == 1, fld 3 1 b == 1, fld 0 3 b⟩

theorem tokOfBits_bits (k : Tok) : tokOfBits k.bits = k := by
  have bit (b : Bool) : (BitVec.ofBool b == 1) = b := by cases b <;> rfl
  simp only [tokOfBits, Tok.bits, fld_append_low, fld_append_high, fld_all, Nat.reduceAdd, Nat.reduceSub, Nat.reduceLeDiff, bit]

theorem bits_tokOfBits : ∀ b : BitVec 7, (tokOfBits b).bits = b := by decide

theorem tokOf_eq (w : Word) : tokOf w = tokOfBits (fld 18 7 w) := by
  simp only [tokOf, tokOfBits, fld_fld, Nat.reduceAdd, Nat.reduceLeDiff]

theorem bits_tokOf (w : Word) : (tokOf w).bits = fld 18 7 w := by rw [tokOf_eq, bits_tokOfBits]

/-- Bit 31 (R126) and the op of a word are its upper seven bits. -/
theorem top_eq {w : Word} {b : BitVec 1} {op : Nat} (map : fld 31 1 w = b) (h : (fld 25 6 w).toNat = op) :
    fld 25 7 w = b ++ BitVec.ofNat 6 op := by
  have op' : fld 25 6 w = BitVec.ofNat 6 op := by rw [← h, BitVec.ofNat_toNat, BitVec.setWidth_eq]
  refine Eq.symm ((append_eq_iff (k := 1) (m := 6)).mpr ⟨?_, ?_⟩)
  · rw [fld_fld w (by decide), ← map]
  · rw [fld_fld w (by decide), ← op']

/-! ### What is decoded encodes to the word it was decoded from (R127, R129, R142) -/

/-- An instruction read from a word encodes to that word. -/
def Rereads (w : Word) (r : Except Reserved Instr) : Prop := ∀ i, r = .ok i → encode i = some w

namespace Rereads
variable {w v : Word} {i : Instr} {r : Except Reserved Instr}

theorem error (e : Reserved) : Rereads w (.error e) := fun _ h => nomatch h

theorem ok (own : encode i = some v) (eq : v = w) : Rereads w (.ok i) := by
  rintro _ ⟨⟩
  rw [own, eq]

theorem ite {p : Prop} [Decidable p] (own : encode i = some v) (eq : p → v = w) (rest : Rereads w r) :
    Rereads w (if p then .ok i else r) := by
  split
  · exact .ok own (eq ‹_›)
  · exact rest
end Rereads

/-! Each row of a map encodes to the fields that were read and the constants that were tested. -/

theorem rereads_decodeCommon {w : Word} (map : fld 31 1 w = 0#1) : Rereads w (decodeCommon w) := by
  unfold decodeCommon
  split
  all_goals repeat' first | refine Rereads.ite rfl (fun own => ?_) ?_ | exact Rereads.error _ | refine Rereads.ok rfl ?_
  all_goals
    have top := top_eq map ‹_›
    simp only [BitVec.reduceAppend] at top
    simp only [append_eq_iff, fld_fld, Nat.reduceAdd, Nat.reduceLeDiff, BitVec.ofNat_eq_ofNat, and_self, *]

theorem rereads_decodeTransfer {w : Word} (map : fld 31 1 w = 1#1) : Rereads w (decodeTransfer w) := by
  unfold decodeTransfer
  split
  all_goals repeat' first | refine Rereads.ite rfl (fun own => ?_) ?_ | exact Rereads.error _ | refine Rereads.ok rfl ?_
  all_goals
    have top := top_eq map ‹_›
    simp only [BitVec.reduceAppend] at top
    simp only [append_eq_iff, fld_fld, bits_tokOf, Nat.reduceAdd, Nat.reduceLeDiff, BitVec.ofNat_eq_ofNat, and_self, *]

theorem rereads_decodeCompute {w : Word} (map : fld 31 1 w = 1#1) : Rereads w (decodeCompute w) := by
  unfold decodeCompute
  split
  all_goals repeat' first | refine Rereads.ite rfl (fun own => ?_) ?_ | exact Rereads.error _ | refine Rereads.ok rfl ?_
  all_goals
    have top := top_eq map ‹_›
    simp only [BitVec.reduceAppend] at top
    simp only [append_eq_iff, fld_fld, bits_tokOf, Nat.reduceAdd, Nat.reduceLeDiff, BitVec.ofNat_eq_ofNat, and_self, *]

theorem rereads_decodeFields (c : CoreId) (w : Word) : Rereads w (decodeFields c w) := by
  unfold decodeFields
  split
  · split
    · exact rereads_decodeCompute ‹_›
    · exact rereads_decodeTransfer ‹_›
  · exact rereads_decodeCommon ((BitVec.eq_zero_or_eq_one _).resolve_right ‹_›)

/-! ### A word decodes to the instruction it encodes (R127, R129, R142)

The op selects a chain of tests, or a row without one; the tests of the rows before the instruction's own fail on its constants. -/

theorem decodeCommon_encode {i : Instr} {w : Word} (h : encode i = some w) (map : fld 31 1 w = 0#1) :
    decodeCommon w = .ok i := by
  unfold decodeCommon
  generalize top : (fld 25 6 w).toNat = op
  cases i <;> cases h <;>
    simp only [fld_append_high, fld_ofNat, Nat.reduceLeDiff, Nat.reduceSub, BitVec.reduceExtractLsb', BitVec.reduceEq, BitVec.reduceToNat]
      at map top <;>
    subst top <;>
    first | refine Eq.trans (b := if _ then .ok _ else _) rfl ?_ | refine Eq.trans (b := .ok _) rfl ?_
  all_goals
    simp only [fld_append_low, fld_append_high, fld_append_eq_iff, fld_all, fld_ofNat, Nat.reduceAdd, Nat.reduceSub, Nat.reduceLeDiff,
      Nat.reduceLT, BitVec.reduceExtractLsb', BitVec.reduceEq, ↓reduceIte, and_true, true_and, and_false, false_and, and_self]

theorem decodeTransfer_encode {i : Instr} {w : Word} (h : encode i = some w) (core : isTransfer i = true) :
    decodeTransfer w = .ok i := by
  unfold decodeTransfer
  generalize top : (fld 25 6 w).toNat = op
  cases i <;> cases core <;> cases h <;>
    simp only [fld_append_high, fld_ofNat, Nat.reduceLeDiff, Nat.reduceSub, BitVec.reduceExtractLsb', BitVec.reduceToNat] at top <;>
    subst top <;>
    first | refine Eq.trans (b := if _ then .ok _ else _) rfl ?_ | refine Eq.trans (b := .ok _) rfl ?_
  all_goals
    simp only [fld_append_low, fld_append_high, fld_append_eq_iff, fld_all, fld_ofNat, tokOf_eq, tokOfBits_bits, Nat.reduceAdd, Nat.reduceSub, Nat.reduceLeDiff,
      Nat.reduceLT, BitVec.reduceExtractLsb', BitVec.reduceEq, ↓reduceIte, and_false, and_self]

theorem vld_tag_ne_zero {k : Tok} {a : VCode} {g : GReg} {o : BitVec 2} {t : BitVec 4} (wf : illFormed (.vld k a g o t) = none) : t ≠ 0 := by
  rintro rfl
  obtain ⟨-, tag⟩ := Option.or_eq_none_iff.mp wf
  exact absurd tag (by decide)

theorem decodeCompute_encode {i : Instr} {w : Word} (h : encode i = some w) (map : fld 31 1 w = 1#1) (core : isTransfer i = false)
    (wf : illFormed i = none) :
    decodeCompute w = .ok i := by
  unfold decodeCompute
  generalize top : (fld 25 6 w).toNat = op
  cases i <;> cases core <;> cases h <;>
    simp only [fld_append_high, fld_ofNat, Nat.reduceLeDiff, Nat.reduceSub, BitVec.reduceExtractLsb', BitVec.reduceEq, BitVec.reduceToNat]
      at map top <;>
    subst top <;>
    first | refine Eq.trans (b := if _ then .ok _ else _) rfl ?_ | refine Eq.trans (b := .ok _) rfl ?_
  all_goals
    simp only [fld_append_low, fld_append_high, fld_append_eq_iff, fld_all, fld_ofNat, tokOf_eq, tokOfBits_bits, Nat.reduceAdd, Nat.reduceSub, Nat.reduceLeDiff,
      Nat.reduceLT, BitVec.reduceExtractLsb', BitVec.reduceEq, ↓reduceIte, and_true, true_and, and_false, false_and, and_self]
  case vld => simp only [vld_tag_ne_zero wf, ↓reduceIte]

theorem decodeFields_encode {i : Instr} {w : Word} {c : CoreId} (wf : illFormed i = none) (h : encode i = some w)
    (core : fld 31 1 w = 1#1 → (c = .compute ↔ isTransfer i = false)) : decodeFields c w = .ok i := by
  unfold decodeFields
  split
  · next map =>
    split
    · next compute => exact decodeCompute_encode h map ((core map).mp compute) wf
    · next transfer => exact decodeTransfer_encode h (Bool.eq_true_of_not_eq_false fun e => transfer ((core map).mpr e))
  · next map => exact decodeCommon_encode h ((BitVec.eq_zero_or_eq_one _).resolve_right map)

/-! ### The decoder -/

theorem decode_eq_ok_iff {c : CoreId} {w : Word} {i : Instr} : decode c w = .ok i ↔ decodeFields c w = .ok i ∧ illFormed i = none := by
  unfold decode
  cases decodeFields c w with
  | error e => simp
  | ok j =>
    dsimp only
    split
    · next r bad => exact ⟨nofun, fun ⟨e, wf⟩ => nomatch (Except.ok.inj e ▸ bad : illFormed i = some r).symm.trans wf⟩
    · next good => exact ⟨fun e => ⟨e, Except.ok.inj e ▸ good⟩, And.left⟩

/-- Settles O53: each map is read row by row, from the word to the instruction by its tests, from the instruction to the word by its
fields. -/
theorem decodeAndEncodeAgree : Obligations.DecodeAndEncodeAgree := by
  refine ⟨fun i w c wf h core => decode_eq_ok_iff.mpr ⟨decodeFields_encode wf h fun map => core ?_, wf⟩, fun c w i h => ?_⟩
  · have bit : w.getLsbD 31 = (fld 31 1 w).getLsbD 0 := by simp [fld]
    rw [bit, map]
    rfl
  · obtain ⟨fields, wf⟩ := decode_eq_ok_iff.mp h
    exact ⟨rereads_decodeFields c w i fields, wf⟩

end Sys2Proof.Laws
end

section
/-! Words of the spec's tables of encoded lines (O52). -/

namespace Sys2Proof.Laws

/-- Settles O52: every clause is closed, and the decoder runs on its word. -/
theorem decodesSpecWords : Obligations.DecodesSpecWords := by
  unfold Obligations.DecodesSpecWords
  exact ⟨rfl, rfl, rfl, rfl, rfl, rfl, rfl, rfl, rfl, rfl, rfl, rfl, rfl, rfl, rfl, rfl, rfl⟩

end Sys2Proof.Laws
end

section
/-! One step of the machine (O51): the fetch at the PC by cases, the turn of the stream that has it, and the event that is due. -/

namespace Sys2Proof.Laws

open Machine

/-! ### The fetch at the PC (R162) -/

section
variable {s : State} {o : Code} (code : s.codeOf s.tile.task = some o) (sound : o.quarantined = false)
include code sound

/-- R162: a PC outside the code section, or one that is not a word's, fetches nothing. -/
theorem fetch_outside
    (out : s.core.pc.toNat % 4 ≠ 0 ∨ s.core.pc.toNat < codeBase ∨ codeBase + o.size ≤ s.core.pc.toNat) :
    s.fetch = .fault { cls := .codeRange, access := 3, addr := s.core.pc.toNat } := by
  simp only [State.fetch, code, sound, Bool.false_eq_true, if_false, if_pos out]

/-- R162, R372: inside the code section a fetch reads the word at the PC where its page is checked, and names the page where not. -/
theorem fetch_inside
    (inside : ¬(s.core.pc.toNat % 4 ≠ 0 ∨ s.core.pc.toNat < codeBase ∨ codeBase + o.size ≤ s.core.pc.toNat)) :
    s.fetch = if (s.core.pc.toNat - codeBase) / codePage ∈ o.checked
      then .word (BitVec.ofNat 32 (s.readNat (codeKey o.slot + (s.core.pc.toNat - codeBase)) 4))
      else .page ((s.core.pc.toNat - codeBase) / codePage) := by
  simp only [State.fetch, code, sound, Bool.false_eq_true, if_false, if_neg inside, List.contains_eq_mem, decide_eq_true_eq]

end

/-! ### The instruction of a word (R126, R425) -/

section
variable {c : CoreId} {w : Word}

theorem instrOf_of_decode {i : Instr} (h : decode c w = .ok i) : instrOf c w = i := by rw [instrOf, h]

theorem instrOf_of_reserved {e} (h : decode c w = .error e) : instrOf c w = .reservedEncoding w := by rw [instrOf, h]

end

/-! ### A turn and a step -/

section
variable {s : State}

theorem turnStep_of_not_mayIssue (h : s.mayIssue = false) : turnStep s = .next s.rotate := by
  rw [turnStep, h, if_neg Bool.false_ne_true]

theorem turnStep_of_word {w : Word} (h : s.mayIssue = true) (f : s.fetch = .word w) :
    turnStep s = passTurn (exec (instrOf s.sel w) s) := by rw [turnStep, if_pos h, f]

theorem turnStep_of_page {k : Nat} (h : s.mayIssue = true) (f : s.fetch = .page k) :
    turnStep s = exec .codePageCheck { s with arg := .fetch s.tile.ptile s.sel k } := by rw [turnStep, if_pos h, f]

theorem turnStep_of_fault {t : Trap} (h : s.mayIssue = true) (f : s.fetch = .fault t) :
    turnStep s = .next (s.takeTrap (some s.sel) t).rotate := by rw [turnStep, if_pos h, f]

/-- With no event whose cycle has come, a step is a turn. -/
theorem step_of_none_due (h : ∀ d ds, s.due = d :: ds → s.now < d.at_) : step s = turnStep s := by
  rw [step]
  cases due : s.due with
  | nil => rfl
  | cons d ds => exact if_neg (Nat.not_le.mpr (h d ds due))

/-- The event at the head of the queue takes place where its cycle has come and the package has power for it. -/
theorem step_of_due {d : Due} {ds : List Due} (due : s.due = d :: ds) (come : d.at_ ≤ s.now) (lit : s.dark d.ev = false) :
    step s = exec d.ev { s with due := ds, arg := d.arg } := by
  simp only [step, due, if_pos come, lit, Bool.false_eq_true, if_false]

/-- A package with all its power, and the step that brings power back, are not in the dark (R388, R390). -/
theorem dark_eq_false {ev : Instr} (h : s.power.on = true ∧ s.power.dies = true ∨ ev = .powerUp) : s.dark ev = false := by
  rcases h with ⟨on, dies⟩ | rfl
  · simp [State.dark, on, dies]
  · simp [State.dark, hostStep]

end

/-- Settles O51: a step with no event due is a turn, and the fetch says which of its cases the turn is in. -/
theorem stepRunsTheDecodedInstruction : Obligations.StepRunsTheDecodedInstruction := by
  unfold Obligations.StepRunsTheDecodedInstruction
  intro s o w a k inRange
  have inside (h : inRange) : ¬(a % 4 ≠ 0 ∨ a < codeBase ∨ codeBase + o.size ≤ a) := by
    obtain ⟨aligned, low, high⟩ := h
    simp only [codeBase]
    omega
  have outside (h : ¬inRange) : a % 4 ≠ 0 ∨ a < codeBase ∨ codeBase + o.size ≤ a := by
    simp only [inRange] at h
    simp only [codeBase]
    omega
  refine ⟨fun none_ => ?turn, fun d ds due come lit => step_of_due due come (dark_eq_false lit), fun _ => rfl⟩
  rw [step_of_none_due none_]
  refine ⟨turnStep_of_not_mayIssue, fun may code sound => ⟨fun r checked read => ?word, fun r unchecked => ?page, fun r => ?fault⟩⟩
  case word =>
    have f : s.fetch = .word w := by
      rw [read, ← ofNat_readNat_word, fetch_inside code sound (inside r)]
      exact if_pos checked
    rw [turnStep_of_word may f]
    exact ⟨fun i h => by rw [instrOf_of_decode h], fun e h => by rw [instrOf_of_reserved h]⟩
  case page => exact turnStep_of_page may ((fetch_inside code sound (inside r)).trans (if_neg unchecked))
  case fault => exact turnStep_of_fault may (fetch_outside code sound (outside r))

end Sys2Proof.Laws
end

section
/-! A request sent to an engine and its reply modes (O18): the request in the queue, then the core by its mode (R144, R184, R408). -/

namespace Sys2Proof.Laws

open Machine

section
variable (s : State) (c : CoreSt) (r : Req)

/-- The machine with the request in the engine's queue and the turn in which it is looked at. -/
def queued : State := ({ s with reqs := s.reqs ++ [r], reqN := s.reqN + 1 } : State).after copDelay .copReply (.num r.n)

/-- The core once the retired cop is given its mode: gd awaits the reply in Async, and the stream holds under MODE.PRECISE. -/
def replyMode : CoreSt :=
  let c := if r.mode = 2 ∧ r.gd ≠ 0 then { c with pend := (r.gd, .reply r.n) :: c.pend.filter fun p => p.1 ≠ r.gd } else c
  if r.precise then { c with hold := some (.cop r.n r.pc) } else c

theorem later_queued : ∃ e ∈ (queued s r).due, e.ev = .copReply ∧ e.arg = .num r.n ∧ s.now < e.at_ := by
  have later := later_after { s with reqs := s.reqs ++ [r], reqN := s.reqN + 1 } .copReply (.num r.n) (show 0 < copDelay by decide)
  obtain ⟨e, due, ev, arg, late⟩ := later
  exact ⟨e, due, ev, arg, late⟩

/-- In every mode a request goes to the queue, and only the core with the turn changes besides. -/
theorem sendReq_eq : s.sendReq r = (queued s r).setCore
    (if r.mode = 1 then { s.core with hold := some (.reply r.n), wait := .run } else replyMode s.retire.core r) := by
  have retired : (queued s r).retire.core = s.retire.core := by
    rw [State.retire, setCore_core, State.retire, setCore_core]
    rfl
  unfold State.sendReq
  split
  · rfl
  · change (queued s r).retire.setCore (replyMode (queued s r).retire.core r) = _
    rw [retired, State.retire, setCore_setCore]

@[simp] theorem replyMode_pc : (replyMode c r).pc = c.pc := by simp only [replyMode, apply_ite CoreSt.pc, ite_self]

@[simp] theorem replyMode_loops : (replyMode c r).loops = c.loops := by simp only [replyMode, apply_ite CoreSt.loops, ite_self]

theorem replyMode_hold : (replyMode c r).hold = if r.precise then some (.cop r.n r.pc) else c.hold := by
  simp only [replyMode, apply_ite CoreSt.hold, ite_self]

theorem replyMode_pend : (replyMode c r).pend =
    if r.mode = 2 ∧ r.gd ≠ 0 then (r.gd, .reply r.n) :: c.pend.filter (fun p => p.1 ≠ r.gd) else c.pend := by
  simp only [replyMode, apply_ite CoreSt.pend, ite_self]

end

/-- Settles O18: Wait holds the stream where it is, the other modes retire it, and MODE.PRECISE holds it after. -/
theorem copReplyModes : Obligations.CopReplyModes := by
  unfold Obligations.CopReplyModes
  intro s r _ precise t
  have core : t.core = if r.mode = 1 then { s.core with hold := some (.reply r.n), wait := .run } else replyMode s.retire.core r := by
    rw [show t = _ from sendReq_eq s r, setCore_core]
  have retired : s.retire.core = s.core.retire s.now 0 := setCore_core _ _
  refine ⟨?reqs, ?reqN, sendReq_mem s r, ?due, fun wait => ?held, fun go => ?gone, fun async dest => ?locked, fun open_ => ?unlocked⟩
  case reqs => rw [show t = _ from sendReq_eq s r]; rfl
  case reqN => rw [show t = _ from sendReq_eq s r]; rfl
  case due => rw [show t = _ from sendReq_eq s r]; exact later_queued s r
  case held =>
    rw [core, if_pos wait]
    exact ⟨rfl, rfl⟩
  case gone =>
    rw [core, if_neg go, replyMode_pc, replyMode_loops, replyMode_hold, ← precise]
    refine ⟨rfl, rfl, fun on => if_pos on, fun off => ?_⟩
    rw [off, if_neg Bool.false_ne_true, retired]
    rfl
  case locked =>
    rw [core, if_neg (by omega), replyMode_pend, if_pos ⟨async, dest⟩]
    exact List.mem_cons_self
  case unlocked =>
    rw [core]
    split
    · rfl
    · rw [replyMode_pend, if_neg fun ⟨two, d⟩ => open_.elim (fun zero => by omega) d, retired]
      rfl

end Sys2Proof.Laws
end

section
/-! Results of fixed latency that land (O29): one result, those of a core that are due, and the pushes to ports (R134, R135, R214, R219). -/

namespace Sys2Proof.Laws

open Machine

/-! ### A result landed -/

/-- Nothing that waits to land, and no stream that has ended, differs; the tile is the same. -/
structure StillPending (t u : Tile) : Prop where
  ptile : u.ptile = t.ptile
  pushes : u.pushes = t.pushes
  fin : ∀ c, (u.core c).fin = (t.core c).fin
  flight : ∀ c, (u.core c).flight = (t.core c).flight

namespace StillPending

theorem refl (t : Tile) : StillPending t t := ⟨rfl, rfl, fun _ => rfl, fun _ => rfl⟩

theorem trans {t u v : Tile} (a : StillPending t u) (b : StillPending u v) : StillPending t v :=
  ⟨b.ptile.trans a.ptile, b.pushes.trans a.pushes, fun c => (b.fin c).trans (a.fin c), fun c => (b.flight c).trans (a.flight c)⟩

theorem ite {t u v : Tile} {p : Prop} [Decidable p] (a : StillPending t u) (b : StillPending t v) :
    StillPending t (if p then u else v) := by
  split <;> assumption
end StillPending

section
variable (t : Tile) (c : CoreId)

@[simp] theorem tile_setCore_pushes (x : CoreSt) : (t.setCore c x).pushes = t.pushes := by cases c <;> rfl

theorem stillPending_setCore {x : CoreSt} (fin : x.fin = (t.core c).fin) (flight : x.flight = (t.core c).flight) :
    StillPending t (t.setCore c x) := by
  have same {α : Type} (f : CoreSt → α) (h : f x = f (t.core c)) (e : CoreId) : f ((t.setCore c x).core e) = f (t.core e) := by
    by_cases he : e = c
    · rw [he, tile_setCore_core, h]
    · rw [tile_setCore_core_ne _ _ _ _ he]
  exact ⟨tile_setCore_ptile .., tile_setCore_pushes .., same _ fin, same _ flight⟩

theorem stillPending_land (l : Land) : StillPending t (t.land c l) := by
  have bad (b : List Reg) := stillPending_setCore t .compute (x := { t.cc with bad := b }) rfl rfl
  cases l with
  | g r x => exact .ite (.refl t) (stillPending_setCore t c rfl rfl)
  | v r x f => exact .trans (bad _) ⟨rfl, rfl, fun e => by cases e <;> rfl, fun e => by cases e <;> rfl⟩
  | data r x => exact .trans (bad _) ⟨rfl, rfl, fun e => by cases e <;> rfl, fun e => by cases e <;> rfl⟩
  | tag r f => exact ⟨rfl, rfl, fun e => by cases e <;> rfl, fun e => by cases e <;> rfl⟩
  | p r x => exact .ite (.refl t) (.trans (bad _) ⟨rfl, rfl, fun e => by cases e <;> rfl, fun e => by cases e <;> rfl⟩)

theorem land_g_rg {r : GReg} (x : Word) (h : r ≠ 0) : ((t.land c (.g r x)).core c).rg r = x := by
  have written : t.land c (.g r x) = t.setCore c { t.core c with
      g := (t.core c).g.set r.toNat x r.isLt, bad := (t.core c).bad.filter (· ≠ .g r) } := if_neg h
  rw [written, tile_setCore_core, CoreSt.rg, if_neg h]
  exact Vector.getElem_set_self _

theorem land_v_data (r : Fin 56) (x : BitVec 2048) (f : Fmt) : (t.land c (.v r x f)).v[r] = x := by simp [Tile.land]

theorem land_v_tag (r : Fin 56) (x : BitVec 2048) (f : Fmt) : (t.land c (.v r x f)).vtag[r] = f := by simp [Tile.land]

theorem land_p_rp {r : PReg} (x : BitVec 64) (h : r ≠ 0) : (t.land c (.p r x)).rp r = x := by
  have written : t.land c (.p r x) =
      { t with p := t.p.set r.toNat x r.isLt, cc := { t.cc with bad := t.cc.bad.filter (· ≠ .p r) } } := if_neg h
  rw [written, Tile.rp, if_neg h]
  exact Vector.getElem_set_self _

/-! ### The results of a core that are due -/

/-- The tile with the results of a core that are still in flight after a cycle. -/
def inFlightAfter (now : Nat) : Tile :=
  t.setCore c { t.core c with flight := (t.core c).flight.filter fun f => decide (now < f.at_) }

theorem landDue_eq (now : Nat) : t.landDue c now =
    ((t.core c).flight.filter fun f => decide (f.at_ ≤ now)).foldl (fun u f => u.land c f.land) (inFlightAfter t c now) := rfl

theorem stillPending_landDue (now : Nat) : StillPending (inFlightAfter t c now) (t.landDue c now) :=
  List.foldlRecOn (motive := StillPending _) _ _ (.refl _) fun u h f _ => h.trans (stillPending_land u c f.land)

theorem landDue_ptile (now : Nat) : (t.landDue c now).ptile = t.ptile :=
  (stillPending_landDue t c now).ptile.trans (tile_setCore_ptile ..)

theorem landDue_pushes (now : Nat) : (t.landDue c now).pushes = t.pushes :=
  (stillPending_landDue t c now).pushes.trans (tile_setCore_pushes ..)

theorem landDue_fin (now : Nat) : ((t.landDue c now).core c).fin = (t.core c).fin := by
  rw [(stillPending_landDue t c now).fin, inFlightAfter, tile_setCore_core]

/-- What is not due stays in flight, in its order. -/
theorem landDue_flight (now : Nat) :
    ((t.landDue c now).core c).flight = (t.core c).flight.filter fun f => decide (now < f.at_) := by
  rw [(stillPending_landDue t c now).flight, inFlightAfter, tile_setCore_core]

variable {t c} {now : Nat}

theorem landDue_of_none_due (h : ∀ f ∈ (t.core c).flight, now < f.at_) : t.landDue c now = inFlightAfter t c now := by
  rw [landDue_eq, List.filter_eq_nil_iff.mpr fun f hf => by simpa using h f hf]
  rfl

theorem landDue_of_single {f : Flight} (h : (t.core c).flight = [f]) (due : f.at_ ≤ now) :
    t.landDue c now = (inFlightAfter t c now).land c f.land := by
  have here : [f].filter (fun f => decide (f.at_ ≤ now)) = [f] := by simpa using due
  rw [landDue_eq, h, here]
  rfl

end

/-! ### The pushes of a tile that are due -/

section
variable (s : State) (now : Nat)

/-- The machine with the pushes of the tile in focus that are still in flight after a cycle. -/
def pushesAfter : State := s.setTile { s.tile with pushes := s.tile.pushes.filter fun p => decide (now < p.at_) }

theorem landPushes_eq : s.landPushes now =
    (s.tile.pushes.filter fun p => decide (p.at_ ≤ now)).foldl (fun t p => t.storeNat p.key 256 p.val.toNat) (pushesAfter s now) := rfl

theorem onlyWritten_landPushes : OnlyWritten (pushesAfter s now) (s.landPushes now) :=
  List.foldlRecOn (motive := OnlyWritten _) _ _ (.refl _) fun t h p _ => h.trans (onlyWritten_store t p.key _)

variable {s now}

theorem landPushes_of_none_due (h : ∀ p ∈ s.tile.pushes, now < p.at_) : s.landPushes now = s := by
  rw [landPushes_eq, List.filter_eq_nil_iff.mpr fun p hp => by simpa using h p hp, pushesAfter,
    List.filter_eq_self.mpr fun p hp => by simpa using h p hp]
  rfl

theorem landPushes_of_single {p : Push} (h : s.tile.pushes = [p]) (due : p.at_ ≤ now) :
    s.landPushes now = (pushesAfter s now).storeNat p.key 256 p.val.toNat ∧ (s.landPushes now).tile.pushes = [] := by
  have late : s.tile.pushes.filter (fun p => decide (now < p.at_)) = [] := by simpa [h] using due
  have here : s.tile.pushes.filter (fun p => decide (p.at_ ≤ now)) = [p] := by simpa [h] using due
  refine ⟨by rw [landPushes_eq, here]; rfl, ?_⟩
  obtain ⟨_, _, _, _, _, eq⟩ := onlyWritten_landPushes s now
  rw [eq]
  exact late

end

/-! ### The cycle of a core's results -/

section
variable (s : State) (c : CoreId)

/-- The machine with the results of a core of the tile in focus landed, and the turn at that core. -/
def resultsLanded : State := ({ s with sel := c } : State).setTile (s.tile.landDue c s.now)

/-- The same with the tile's pushes landed, which are the compute core's (R219). -/
def landed : State := if c = .compute then (resultsLanded s c).landPushes s.now else resultsLanded s c

/-- Beside memory, the landed pushes are all that the pushes change. -/
theorem landed_frame : (landed s c).rest = s.rest ∧
    ∃ ps, (landed s c).tile = { s.tile.landDue c s.now with pushes := ps } := by
  unfold landed
  split
  · obtain ⟨_, _, _, _, _, eq⟩ := onlyWritten_landPushes (resultsLanded s c) s.now
    rw [eq]
    exact ⟨rfl, _, rfl⟩
  · exact ⟨rfl, _, rfl⟩

theorem core_with_pushes (t : Tile) (ps : List Push) : ({ t with pushes := ps } : Tile).core c = t.core c := by cases c <;> rfl

variable {s c}

/-- FIXED_LATENCY_WRITE of a core of the tile in focus whose stream has not ended. -/
theorem exec_fixedLatencyWrite (arg : s.arg = .core s.tile.ptile c) (running : (s.tile.core c).fin = false) :
    exec .fixedLatencyWrite s = .next { landed s c with sel := s.sel } := by
  obtain ⟨-, ps, tile⟩ := landed_frame s c
  have open_ : ((landed s c).tile.core c).fin = false := by rw [tile, core_with_pushes, landDue_fin, running]
  have ptile : (landed s c).tile.ptile = s.tile.ptile := by rw [tile]; exact landDue_ptile ..
  change execFixedLatencyWrite s = _
  rw [execFixedLatencyWrite, arg]
  refine congrArg (fun o => Host.Outcome.next (o.getD s)) (onCore_focus (t := landed s c) ?_ ptile)
  exact tryComplete_of_running open_

theorem landed_of_no_push (h : c ≠ .compute ∨ ∀ p ∈ s.tile.pushes, s.now < p.at_) : landed s c = resultsLanded s c := by
  unfold landed
  split
  next compute =>
    have later := h.resolve_left (· compute)
    exact landPushes_of_none_due fun p hp => later p (landDue_pushes s.tile c s.now ▸ hp)
  next => rfl

theorem landed_of_single_push {p : Push} (h : s.tile.pushes = [p]) (due : p.at_ ≤ s.now) (compute : c = .compute) :
    (landed s c).mem = (s.storeNat p.key 256 p.val.toNat).mem ∧ (landed s c).tile.pushes = [] := by
  have cells : SameCells s (pushesAfter (resultsLanded s c) s.now) := ⟨rfl, rfl, rfl⟩
  have eq : landed s c = (resultsLanded s c).landPushes s.now := if_pos compute
  obtain ⟨stored, empty⟩ := landPushes_of_single (s := resultsLanded s c) ((landDue_pushes s.tile c s.now).trans h) due
  rw [eq]
  exact ⟨stored ▸ (sameCells_store cells p.key _).mem, empty⟩

end

/-- Settles O29: the core's results that are due land by `landDue`, then the tile's pushes by `landPushes`. -/
theorem fixedLatencyLanding : Obligations.FixedLatencyLanding := by
  unfold Obligations.FixedLatencyLanding
  rintro s _ c rfl arg running
  obtain ⟨rest, ps, tile⟩ := landed_frame s c
  have core : (landed s c).tile.core c = (s.tile.landDue c s.now).core c := by rw [tile, core_with_pushes]
  have v : (landed s c).tile.v = (s.tile.landDue c s.now).v := by rw [tile]
  have vtag : (landed s c).tile.vtag = (s.tile.landDue c s.now).vtag := by rw [tile]
  have p : (landed s c).tile.p = (s.tile.landDue c s.now).p := by rw [tile]
  refine ⟨{ landed s c with sel := s.sel }, exec_fixedLatencyWrite arg running, rest, rfl, fun later => ?noPush,
    fun key x at_ compute one due => ?push, ?flight, fun later => ?noResult,
    fun r x at_ dest one due => ?g, fun r x f at_ one due => ?v, fun r x at_ dest one due => ?p⟩
  case noPush =>
    change (landed s c).mem = _ ∧ (landed s c).tile.pushes = _
    rw [landed_of_no_push later]
    exact ⟨rfl, landDue_pushes ..⟩
  case push => exact landed_of_single_push one due compute
  case flight =>
    change ((landed s c).tile.core c).flight = _
    rw [core, landDue_flight]
  case noResult =>
    change ((landed s c).tile.core c).g = _ ∧ (landed s c).tile.v = _ ∧ (landed s c).tile.p = _
    rw [core, v, p, landDue_of_none_due later, inFlightAfter, tile_setCore_core, tile_setCore_v, tile_setCore_p]
    exact ⟨rfl, rfl, rfl⟩
  case g =>
    change ((landed s c).tile.core c).rg r = x
    rw [core, landDue_of_single one due]
    exact land_g_rg _ c x dest
  case v =>
    change (landed s c).tile.v[r] = x ∧ (landed s c).tile.vtag[r] = f
    rw [v, vtag, landDue_of_single one due]
    exact ⟨land_v_data _ c r x f, land_v_tag _ c r x f⟩
  case p =>
    have rp : (landed s c).tile.rp r = (s.tile.landDue c s.now).rp r := by rw [Tile.rp, Tile.rp, p]
    change (landed s c).tile.rp r = x
    rw [rp, landDue_of_single one due]
    exact land_p_rp _ c x dest

end Sys2Proof.Laws
end
